-- ==== Sys2Proof/Word.lean ====
section
/-! DEFINITION. The word types of the TH1 model and their plainest arithmetic. Bit 0 is the least significant bit (R4). -/

namespace Sys2Proof

/-- A byte of memory. -/
abbrev Byte := BitVec 8

/-- A 64-bit register or datum. -/
abbrev W64 := BitVec 64

/-- A 32-bit word. -/
abbrev W32 := BitVec 32

/-- Bits [lo + n - 1 : lo] of a word, as a number. -/
def field (w : BitVec k) (lo n : Nat) : Nat := (w.toNat >>> lo) % 2 ^ n

/-- Bit i of a word. -/
def bit (w : BitVec k) (i : Nat) : Bool := w.getLsbD i

/-- A word with bits [lo + n - 1 : lo] replaced by the low n bits of v. -/
def setField (w : BitVec k) (lo n v : Nat) : BitVec k :=
  let mask := BitVec.ofNat k ((2 ^ n - 1) <<< lo)
  (w &&& ~~~mask) ||| (BitVec.ofNat k ((v % 2 ^ n) <<< lo))

/-- A truth value as a bit. -/
def b2n (b : Bool) : Nat := if b then 1 else 0

/-- The low n bits of v read as a two's complement number. -/
def sInt (n v : Nat) : Int := if v % 2 ^ n < 2 ^ (n - 1) then (v % 2 ^ n : Nat) else (v % 2 ^ n : Nat) - (2 ^ n : Nat)

/-- An integer modulo 2^n. -/
def wrap (n : Nat) (i : Int) : Nat := (i % (2 ^ n : Int)).toNat

/-- Add 1, saturating at 2^n - 1. -/
def satInc (n v : Nat) : Nat := min (v + 1) (2 ^ n - 1)

end Sys2Proof
end

