-- ==== Sys2Proof/Syntax.lean ====
section
/-! DEFINITION. The commands of the TH1 block: one constructor of `Instr` per row of the spec's opcode table, with the
row's operands. A Melac instruction carries its thread and its words (R87); a register write carries the pair of R18;
an event carries what the outside world supplied. -/

namespace Sys2Proof

/-- A crew thread: tree 0-63 and thread 0-3 (R8, R84). -/
structure Tid where
  tree : Fin 64
  th : Fin 4
  deriving DecidableEq, Repr

/-- The words of a Melac instruction (R87): the base word and the specifier words of dst, src1 and src2
(a slot that the instruction does not use has a specifier word that is not looked at). -/
structure IWord where
  base : BitVec 32
  sd : BitVec 32
  s1 : BitVec 32
  s2 : BitVec 32
  deriving DecidableEq, Repr

/-- Who makes an access: master ID and world bit, `true` for Service (R18). -/
structure Req where
  master : BitVec 10
  world : Bool
  deriving DecidableEq, Repr

/-- A register block (R13): the device, a grove's or a tree's. -/
inductive Blk where
  | dev
  | grove (g : Fin 8)
  | tree (t : Fin 64)
  deriving DecidableEq, Repr

/-- What the array diagnostic of R162 found: nothing; a fault in one row, by the logical leaf row that fails the column check and
the leftmost failing leaf column, and whether the second diagnostic is clean; or a column fault. -/
inductive Diag where
  | transient
  | row (lrow lcol : Fin 256) (secondClean : Bool)
  | column (lrow lcol : Fin 256)
  deriving DecidableEq, Repr

/-- A unit that failed to come up in the apply phase (R44). -/
inductive UnitRef where
  | block (tree : Fin 64) (b : Fin 16)
  | port (p : Fin 4)
  | landing (l : Fin 16)
  deriving DecidableEq, Repr

/-- A symbol error that has come about in a stored near-bank line: row and slot of the channel, the symbol (0 to 127 the data bytes,
128 to 135 the check bytes) and what it is XORed with (R256, R260). -/
structure NearErr where
  row : Fin 2097152
  slot : Fin 15
  sym : Fin 136
  flip : BitVec 8
  deriving DecidableEq, Repr

/-- An error in the row tag that a row's check line holds: what its 8 bytes are XORed with (R260). -/
structure TagErr where
  row : Fin 2097152
  flip : BitVec 64
  deriving DecidableEq, Repr

/-- A unit whose state has an error that cannot be corrected and is fatal (R431). -/
inductive FatalUnit where
  | tideUnit
  | collector
  | queueManager
  deriving DecidableEq, Repr

/-- What has come about since a channel was last patrolled: repetitions of transfers whose data CRC failed, symbol errors (R265-R267),
directory entries with an error that cannot be corrected (R341), and a fatal error in a unit's state (R431). -/
structure NearFinds where
  retries : Nat
  errs : List NearErr
  dir : List (Fin 24576)
  fatal : Option FatalUnit
  deriving DecidableEq, Repr

/-- What has come about in a heartwood: a symbol error of a stored line (R118, R121), or a bank that stops answering (R427). -/
inductive HeartErr where
  | sym (bank : Fin 32) (row : Fin 1024) (sym : Fin 136) (flip : BitVec 8)
  | mute (bank : Fin 32)
  deriving DecidableEq, Repr

/-- What follows the write-back of a heartwood line: nothing, the error on the next read, or a copy into its spare that fails
(R427). -/
inductive WriteBack where
  | clean
  | again
  | copyFails
  deriving DecidableEq, Repr

/-- What has come about in a canopy's storage: a symbol error of a sector, by address / 128, or a tag parity error of a line, by
address / 512 (R273, R281). -/
inductive CanErr where
  | sym (sector : Nat) (sym : Fin 136) (flip : BitVec 8)
  | tag (line : Nat)
  deriving DecidableEq, Repr

/-- A fill that lands: its sector, and what has come about in the canopy meanwhile (R276, R281). -/
structure CanFill where
  sector : Nat
  errs : List CanErr
  deriving DecidableEq, Repr

/-- The code of a PRG Response (R305). -/
inductive PrgCode where
  | success
  | invalid
  | failure
  deriving DecidableEq, Repr

/-- Who waits on an access held in a directory replica (R326). -/
inductive Waiter where
  | thread (t : Tid)
  | ferry (f : Fin 64)
  deriving DecidableEq, Repr

/-- How the test of a self-test slice ended (R443). A failed test names the lines of a heartwood segment, or the rows of a leaf block,
that failed, and whether a second diagnostic run is clean (R162). -/
inductive BistResult where
  | pass
  | saveDenied
  | restorePoisoned
  | fail (rows : List (Fin 256)) (clean : Bool)
  deriving DecidableEq, Repr

/-- What a TRAIN flit carries (R360). -/
structure TrainInfo where
  part : BitVec 16
  land : BitVec 4
  gen : BitVec 2
  bundle : BitVec 2
  pair : Bool
  lanes : BitVec 4
  deriving DecidableEq, Repr

/-- What a landing learns from its peer in training: its TRAIN flits, and the timestamped exchanges, each a round trip and the
peer's turnaround in tide ticks (R360). -/
structure PeerInfo where
  info : TrainInfo
  exchanges : List (Nat × Nat)
  deriving DecidableEq, Repr

/-- A symbol error of a codeword on a landing: its symbol (0 to 127 the flit, 128 to 135 the check symbols) and what it is XORed
with (R363). -/
structure SymErr where
  sym : Fin 136
  flip : BitVec 10
  deriving DecidableEq, Repr

/-- A DATA flit as it arrives: its content, the place of its codeword's first symbol in the stream, and the codeword's symbol errors
(R363, R364). -/
structure DataFlit where
  content : List (BitVec 8)
  first : Nat
  errs : List SymErr
  deriving DecidableEq, Repr

/-- A codeword that arrives at a landing with symbol errors: the place of its first symbol in the stream, and the errors (R363,
R366). -/
structure BadWord where
  land : Fin 16
  first : Nat
  errs : List SymErr
  deriving DecidableEq, Repr

/-- A beacon (R347, R365). -/
structure BeaconMsg where
  now : BitVec 64
  sender : BitVec 16
  master : BitVec 16
  hops : BitVec 8
  lock : Bool
  deriving DecidableEq, Repr

/-- A landing packet (R368): header fields, data bytes and the CRC64 it arrived with. -/
structure Packet where
  dpart : BitVec 16
  spart : BitVec 16
  type : BitVec 8
  hops : BitVec 6
  world : Bool
  len : Nat
  addr : BitVec 64
  aux : BitVec 64
  tid : BitVec 32
  pmask : BitVec 32
  data : List (BitVec 8)
  crc : BitVec 64
  deriving DecidableEq, Repr

/-- A recovery domain (R439). -/
inductive Domain where
  | array (tree : Fin 64) (arr : Fin 16)
  | bank (tree : Fin 64) (b : Fin 32)
  | channel (c : Fin 48)
  | landing (l : Fin 16)
  | thread (t : Tid)
  | tree (tree : Fin 64)
  deriving DecidableEq, Repr

/-- What a host reads in configuration space (R385-R389): identity, the options of Table: PCIe options, and what it has set. -/
inductive CfgField where
  | vendorId | deviceId | classCode
  | maxPayloadSupported | maxPayload | maxReadRequest
  | tagBits | nonPosted | timeoutRanges | timeoutDisable | timeout
  | aerStatus | aerHeader (i : Fin 4)
  | ats | pri | busMaster
  | bar2Size
  | msixVectors | msixEnable | msixFunctionMask
  | flr
  deriving DecidableEq, Repr

/-- A PCIe configuration request (R303, R305, R386, R387): a read, a field that the host sets, or a clearing of AER status bits. -/
inductive CfgReq where
  | read (f : CfgField)
  | maxPayload (n : Fin 8)
  | maxReadRequest (n : Fin 8)
  | timeout (n : Fin 16)
  | aerClear (bits : BitVec 32)
  | atsEnable (on : Bool)
  | priEnable (on : Bool)
  | busMaster (on : Bool)
  | msixEnable (on : Bool)
  | msixFunctionMask (on : Bool)
  | msixVectorMask (v : Fin 2048)
  | bar2Size (s : Fin 9)
  deriving DecidableEq, Repr

/-- How a request to the host ends (R390): with Unsupported Request, Completer Abort or no completion, for want of a link, or with a
completion that is poisoned or has an ECRC error. -/
inductive HostEnd where
  | unsupported
  | abort
  | timeout
  | linkDown
  | poisoned
  | ecrc
  deriving DecidableEq, Repr

/-- An MSI-X table entry as the host writes it to unmask its vector (R387, R389). -/
structure MsixEntry where
  vec : Fin 2048
  addr : BitVec 64
  data : BitVec 32
  deriving DecidableEq, Repr

/-- Speeds of the PCIe link (R385). -/
inductive PcieSpeed where
  | gt8 | gt16 | gt32 | gt64
  deriving DecidableEq, Repr

/-- Widths of the PCIe link (R385). -/
inductive PcieWidth where
  | x4 | x8 | x16
  deriving DecidableEq, Repr

/-- An enrolment request as its write of GO starts it: who writes, and whether the flash takes what is written (R455, R456). -/
structure MboxReq where
  by_ : Req
  flashOk : Bool
  deriving DecidableEq, Repr

/-- What the hardware meets in a cold start and the spec leaves to it (R446): straps, PUF, flash training, near-bank
training, the threads that Service firmware starts, and the durations the registers report. -/
structure ColdEnv where
  maddr : BitVec 3
  pufOk : Bool
  octalOk : Bool
  wpLock : Bool
  fabricOk : Bool
  trainOk : Bool
  serviceOk : Bool
  service : List Tid
  loadUs : Nat
  bootMs : Nat
  failed : List UnitRef
  deriving DecidableEq, Repr

/-- The commands: one constructor per row of the opcode table, in its order. -/
inductive Instr where
  | nop (t : Tid) (w : IWord)
  | br (t : Tid) (w : IWord)
  | bcc (t : Tid) (w : IWord)
  | call (t : Tid) (w : IWord)
  | ret (t : Tid) (w : IWord)
  | fenceMem (t : Tid) (w : IWord)
  | fenceEng (t : Tid) (w : IWord)
  | gate (t : Tid) (w : IWord)
  | eret (t : Tid) (w : IWord)
  | trap (t : Tid) (w : IWord)
  | park (t : Tid) (w : IWord)
  | add (t : Tid) (w : IWord)
  | sub (t : Tid) (w : IWord)
  | adc (t : Tid) (w : IWord)
  | sbb (t : Tid) (w : IWord)
  | and (t : Tid) (w : IWord)
  | or (t : Tid) (w : IWord)
  | xor (t : Tid) (w : IWord)
  | andn (t : Tid) (w : IWord)
  | shl (t : Tid) (w : IWord)
  | shr (t : Tid) (w : IWord)
  | sar (t : Tid) (w : IWord)
  | rol (t : Tid) (w : IWord)
  | ror (t : Tid) (w : IWord)
  | min (t : Tid) (w : IWord)
  | max (t : Tid) (w : IWord)
  | minu (t : Tid) (w : IWord)
  | maxu (t : Tid) (w : IWord)
  | cmp (t : Tid) (w : IWord)
  | tst (t : Tid) (w : IWord)
  | mov (t : Tid) (w : IWord)
  | zext (t : Tid) (w : IWord)
  | sext (t : Tid) (w : IWord)
  | neg (t : Tid) (w : IWord)
  | not (t : Tid) (w : IWord)
  | swap (t : Tid) (w : IWord)
  | cas (t : Tid) (w : IWord)
  | aadd (t : Tid) (w : IWord)
  | aand (t : Tid) (w : IWord)
  | aor (t : Tid) (w : IWord)
  | mul (t : Tid) (w : IWord)
  | mulu (t : Tid) (w : IWord)
  | muls (t : Tid) (w : IWord)
  | mulDelivery (t : Tid)
  | div (t : Tid) (w : IWord)
  | divu (t : Tid) (w : IWord)
  | divDelivery (t : Tid)
  | crc32c (t : Tid) (w : IWord)
  | crc64 (t : Tid) (w : IWord)
  | crcp (t : Tid) (w : IWord)
  | par (t : Tid) (w : IWord)
  | popc (t : Tid) (w : IWord)
  | clz (t : Tid) (w : IWord)
  | ctz (t : Tid) (w : IWord)
  | brev (t : Tid) (w : IWord)
  | fadd (t : Tid) (w : IWord)
  | fsub (t : Tid) (w : IWord)
  | fmul (t : Tid) (w : IWord)
  | fdiv (t : Tid) (w : IWord)
  | fsqrt (t : Tid) (w : IWord)
  | fma (t : Tid) (w : IWord)
  | fmin (t : Tid) (w : IWord)
  | fmax (t : Tid) (w : IWord)
  | fcmp (t : Tid) (w : IWord)
  | cvt (t : Tid) (w : IWord)
  | getr (t : Tid) (w : IWord)
  | putr (t : Tid) (w : IWord)
  | lea (t : Tid) (w : IWord)
  | rep (t : Tid) (w : IWord) (nxt : BitVec 32)
  | repx (t : Tid) (w : IWord) (nxt : BitVec 32)
  | vadd (t : Tid) (w : IWord)
  | vsub (t : Tid) (w : IWord)
  | vmul (t : Tid) (w : IWord)
  | vmulh (t : Tid) (w : IWord)
  | vmulhu (t : Tid) (w : IWord)
  | vmin (t : Tid) (w : IWord)
  | vmax (t : Tid) (w : IWord)
  | vminu (t : Tid) (w : IWord)
  | vmaxu (t : Tid) (w : IWord)
  | vabs (t : Tid) (w : IWord)
  | vneg (t : Tid) (w : IWord)
  | vand (t : Tid) (w : IWord)
  | vor (t : Tid) (w : IWord)
  | vxor (t : Tid) (w : IWord)
  | vandn (t : Tid) (w : IWord)
  | vnot (t : Tid) (w : IWord)
  | vshl (t : Tid) (w : IWord)
  | vshr (t : Tid) (w : IWord)
  | vsar (t : Tid) (w : IWord)
  | vpopc (t : Tid) (w : IWord)
  | vclz (t : Tid) (w : IWord)
  | vcmp (t : Tid) (w : IWord)
  | vfadd (t : Tid) (w : IWord)
  | vfsub (t : Tid) (w : IWord)
  | vfmul (t : Tid) (w : IWord)
  | vfdiv (t : Tid) (w : IWord)
  | vfma (t : Tid) (w : IWord)
  | vfms (t : Tid) (w : IWord)
  | vfsqrt (t : Tid) (w : IWord)
  | vfmin (t : Tid) (w : IWord)
  | vfmax (t : Tid) (w : IWord)
  | vfabs (t : Tid) (w : IWord)
  | vfneg (t : Tid) (w : IWord)
  | vtwosum (t : Tid) (w : IWord)
  | vtwoprod (t : Tid) (w : IWord)
  | vffn (t : Tid) (w : IWord)
  | vfcmp (t : Tid) (w : IWord)
  | vcvt (t : Tid) (w : IWord)
  | vmov (t : Tid) (w : IWord)
  | vlds (t : Tid) (w : IWord)
  | vsts (t : Tid) (w : IWord)
  | viota (t : Tid) (w : IWord)
  | vperm (t : Tid) (w : IWord)
  | vslideup (t : Tid) (w : IWord)
  | vslidedn (t : Tid) (w : IWord)
  | vcompress (t : Tid) (w : IWord)
  | vexpand (t : Tid) (w : IWord)
  | vrev (t : Tid) (w : IWord)
  | vgather (t : Tid) (w : IWord)
  | vscatter (t : Tid) (w : IWord)
  | mand (t : Tid) (w : IWord)
  | mor (t : Tid) (w : IWord)
  | mxor (t : Tid) (w : IWord)
  | mandn (t : Tid) (w : IWord)
  | mnot (t : Tid) (w : IWord)
  | mset (t : Tid) (w : IWord)
  | mpop (t : Tid) (w : IWord)
  | mfirst (t : Tid) (w : IWord)
  | mmov (t : Tid) (w : IWord)
  | vrsum (t : Tid) (w : IWord)
  | vrmin (t : Tid) (w : IWord)
  | vrmax (t : Tid) (w : IWord)
  | vrminu (t : Tid) (w : IWord)
  | vrmaxu (t : Tid) (w : IWord)
  | vrand (t : Tid) (w : IWord)
  | vror (t : Tid) (w : IWord)
  | vrxor (t : Tid) (w : IWord)
  | vfrsum (t : Tid) (w : IWord)
  | vfrmin (t : Tid) (w : IWord)
  | vfrmax (t : Tid) (w : IWord)
  | vframax (t : Tid) (w : IWord)
  | tld (t : Tid) (w : IWord)
  | tmovtv (t : Tid) (w : IWord)
  | tmovvt (t : Tid) (w : IWord)
  | tshp (t : Tid) (w : IWord)
  | tzero (t : Tid) (w : IWord)
  | clmopen (t : Tid) (w : IWord)
  | clmclose (t : Tid) (w : IWord)
  | claimFree (tree : Fin 64) (c : Fin 64)
  | mma (t : Tid) (w : IWord)
  | mmap (t : Tid) (w : IWord)
  | mdrn (t : Tid) (w : IWord)
  | mlda (t : Tid) (w : IWord)
  | drainStart (tree : Fin 64) (arr : Fin 16)
  | tallyPass (tree : Fin 64) (arr : Fin 16)
  | tallyMismatch (tree : Fin 64) (arr : Fin 16) (m : Nat) (d : Diag)
  | srun (t : Tid) (w : IWord)
  | srunf (t : Tid) (w : IWord)
  | sbwait (t : Tid) (w : IWord)
  | sbwaitSatisfied (t : Tid)
  | wdone (t : Tid) (w : IWord)
  | engineComplete (t : Tid) (k : Nat)
  | eptag (t : Tid) (w : IWord)
  | epdecl (t : Tid) (w : IWord)
  | seal (t : Tid) (w : IWord)
  | epdiscard (t : Tid) (w : IWord)
  | epcommit (t : Tid) (w : IWord)
  | epstat (t : Tid) (w : IWord)
  | exceptionEntry (t : Tid) (vec sub : BitVec 8) (info info2 : BitVec 64) (resumable : Bool)
  | takeInterrupt (t : Tid)
  | tideJ (t : Tid)
  | tideS (t : Tid)
  | softJ (r : Req) (t : Tid)
  | softS (r : Req) (t : Tid)
  | run (q : Fin 2048)
  | barrier (q : Fin 2048)
  | barrierClear (q : Fin 2048)
  | signal (q : Fin 2048)
  | eventsLost (e : Fin 1024)
  | queueError (q : Fin 8192)
  | doorbellTail (r : Req) (q : Fin 8192) (width : Nat) (v : BitVec 64)
  | doorbellHead (r : Req) (q : Fin 8192) (width : Nat) (v : BitVec 64)
  | jobStart (r : Req)
  | jobEnd (r : Req)
  | jobEndDrain
  | jobEndScrub (us : Nat)
  | farScrubDone (us : Nat)
  | rerigCmdGo (r : Req)
  | rerigDone (us : Nat) (failed : List UnitRef)
  | cfgHold (r : Req) (b : Blk) (hold : Bool)
  | qreq (r : Req) (b : Blk)
  | quiescentApply (b : Blk) (sub : Fin 64)
  | cfgClear (r : Req) (b : Blk)
  | registerWrite (r : Req) (addr : BitVec 52) (width : Nat) (v : BitVec 64)
  | telemClr (r : Req) (v : BitVec 64)
  | hwErrclr (r : Req) (tree : Fin 64)
  | mxTallyClr (r : Req) (tree : Fin 64)
  | vuPassesClr (r : Req) (tree : Fin 64)
  | seClr (r : Req) (tree : Fin 64)
  | ferryDoneWrite (r : Req) (tree : Fin 64) (k : Fin 16) (v : BitVec 32)
  | manifest (f : Fin 64) (n : Fin 64)
  | copy (f : Fin 64)
  | fill (f : Fin 64)
  | check (f : Fin 64)
  | ferryDone (f : Fin 64)
  | nbRefresh (c : Fin 48)
  | nbPatrolScrub (c : Fin 48) (tags : List TagErr) (finds : NearFinds)
  | nbRetrainDone (c : Fin 48) (ok : Bool)
  | hwPatrolScrub (tree : Fin 64) (errs : List HeartErr)
  | hwCorrectWriteback (tree : Fin 64) (bank : Fin 32) (row : Fin 1024) (recurs : WriteBack)
  | canopyFill (g : Fin 8) (fill : CanFill)
  | clean (r : Req) (g : Fin 8) (scope : Bool)
  | inval (r : Req) (g : Fin 8) (scope : Bool)
  | clinv (r : Req) (g : Fin 8) (scope : Bool)
  | clinvAll (r : Req) (g : Fin 8) (scope : Bool)
  | cmoDone (g : Fin 8)
  | fbLinkUp (p : Fin 4) (caps : List Nat)
  | fbLinkLoss (p : Fin 4)
  | viral (p : Fin 4)
  | fbTimeout (p : Fin 4) (k : Nat)
  | fbErrClr (r : Req) (p : Fin 4)
  | nbClr (r : Req) (c : Fin 48)
  | fyClr (r : Req) (f : Fin 64)
  | tlbInvRange (r : Req) (world : Bool)
  | tlbInvWorld (r : Req) (world : Bool)
  | tlbInvAll (r : Req)
  | tlbInvDone
  | atsInvalidateRequest (base size : BitVec 64)
  | translationCompletion (k : Nat) (hpa size : BitVec 64) (rd wr : Bool)
  | prgResponse (k : Nat) (code : PrgCode)
  | priWaitExpiry (k : Nat)
  | accRuleCommit (r : Req) (b : Blk) (k : Fin 21) (n : Fin 64) (v : BitVec 64)
  | accDenyClr (r : Req)
  | load (r : Req)
  | unload (r : Req)
  | commit (r : Req)
  | cancel (r : Req)
  | resync (r : Req)
  | commitFlip
  | commitDrainTimeout
  | waitTimeout (u : Waiter)
  | journalTimeout
  | tideMark
  | beaconSend
  | beaconLoss (l : Fin 16)
  | holdoverExpiry
  | tideSet (r : Req) (v : BitVec 64)
  | stepOrigin (r : Req) (v : BitVec 64)
  | stepAdvance
  | ttEntryCommit (r : Req) (e : Fin 512) (v : BitVec 64)
  | ttEn (r : Req) (en : Bool)
  | ttClr (r : Req)
  | qstart (e : Fin 512)
  | cwopen (e : Fin 512)
  | cwclose (e : Fin 512)
  | bist (e : Fin 512)
  | refresh (e : Fin 512)
  | collect (e : Fin 512)
  | dcheck (e : Fin 512)
  | event (e : Fin 512)
  | tideMiss (e : Fin 512)
  | bistSliceRun (res : BistResult)
  | bistSliceAbandon
  | bistCycleLate
  | landingTrain (l : Fin 16) (peer : PeerInfo)
  | landingTrainRetry (l : Fin 16) (peer : Option PeerInfo)
  | retrain (r : Req) (l : Fin 16)
  | landClr (r : Req) (l : Fin 16)
  | landUnfence (r : Req) (l : Fin 16)
  | laneLoss (l : Fin 16) (lane : Fin 4)
  | data (l : Fin 16) (seq ack : BitVec 12) (bytes : DataFlit)
  | nak (l : Fin 16) (ack : BitVec 12)
  | beacon (l : Fin 16) (b : BeaconMsg)
  | train (l : Fin 16) (peer : TrainInfo)
  | idle (l : Fin 16) (ack : BitVec 12)
  | replay (l : Fin 16)
  | packetForward (l : Fin 16) (p : Packet)
  | pktWrite (l : Fin 16) (p : Packet)
  | readreq (l : Fin 16) (p : Packet)
  | readcpl (l : Fin 16) (p : Packet)
  | pktReduce (l : Fin 16) (p : Packet)
  | ack (l : Fin 16) (p : Packet)
  | notify (l : Fin 16) (p : Packet)
  | journal (l : Fin 16) (p : Packet)
  | jack (l : Fin 16) (p : Packet)
  | landWrite (l : Fin 16) (n : Fin 64)
  | landRead (l : Fin 16) (n : Fin 64)
  | reduce (l : Fin 16) (n : Fin 64)
  | reduceCopy (l : Fin 16) (n : Fin 64)
  | landDone (l : Fin 16) (n : Fin 64)
  | landError (l : Fin 16) (n : Fin 64)
  | landPacketTimeout (l : Fin 16) (tid : BitVec 32)
  | flr
  | hotReset
  | linkDisable
  | perstN
  | d3hot
  | d0
  | pcieLinkLoss
  | bar2Access (off : Nat) (wr : Bool) (len : Nat) (bytes : List (BitVec 8))
  | msixUnmask (v : MsixEntry)
  | hostCompletionFailure (line : Nat) (down : HostEnd)
  | setEndpointId (eid : BitVec 8)
  | getEndpointId
  | getEndpointUuid
  | getMctpVersionSupport
  | getMessageTypeSupport
  | getVendorDefinedMsgSupport
  | readIncidents (start : BitVec 32) (count : Nat)
  | readReg (addr : BitVec 52) (width : Nat)
  | writeReg (addr : BitVec 52) (width : Nat) (v : BitVec 64)
  | debugToken (token : List (BitVec 8))
  | setEventReceiver (eid : BitVec 8)
  | pldmSensorUpdate (vals : List Nat)
  | requestUpdate (ep : BitVec 8)
  | verifyComplete (comp : BitVec 16) (image : List (BitVec 8))
  | activateFirmware
  | getVersion (ep : BitVec 8)
  | getCapabilities (ep : BitVec 8)
  | negotiateAlgorithms (ep : BitVec 8) (mldsa shake : Bool)
  | getDigests (ep : BitVec 8)
  | getCertificate (ep : BitVec 8) (slot : BitVec 4) (off len : Nat)
  | challenge (ep : BitVec 8) (slot : BitVec 4) (nonce : List (BitVec 8))
  | getMeasurements (ep : BitVec 8) (idx : BitVec 8)
  | setCertificate (ep : BitVec 8) (v13 : Bool) (chain : List (BitVec 8))
  | spdmStateExpiry (ep : BitVec 8)
  | enec (events : BitVec 8)
  | disec (events : BitVec 8)
  | rstdaa
  | entdaa (addr : BitVec 7)
  | setdasa (static addr : BitVec 7)
  | setmwl (n : BitVec 16)
  | setmrl (n : BitVec 16)
  | getmwl
  | getmrl
  | getpid
  | getbcr
  | getdcr
  | getstatus
  | clearFaults
  | vinUvWarnLimit
  | pinOpWarnLimit
  | statusWord
  | statusInput
  | statusTemperature
  | readVin
  | readIin
  | readTemperature1
  | readPin
  | pmbusRevision
  | bypass
  | idcode
  | samplePreload
  | extest
  | clamp
  | highz
  | dbgToken (frame : List (BitVec 8))
  | dbgAccess (addr : BitVec 52) (wr : Bool) (width : Nat) (v : BitVec 64)
  | scan
  | enrol (r : MboxReq)
  | addKey (r : MboxReq)
  | revokeKey (r : MboxReq)
  | release (r : MboxReq)
  | recover (r : MboxReq)
  | rollCommit (r : Req)
  | incRingEn (r : Req) (v : BitVec 64)
  | incHead (r : Req) (head : BitVec 32)
  | incidentWindowEnd (k : Nat)
  | incClr (r : Req)
  | recoveryTimeout (d : Domain)
  | watchdog (t : Tid)
  | powerBrakeAssert
  | powerBrakeRelease
  | pwrMeasure (watts : Nat) (bound : Nat)
  | pwrStatClr (r : Req)
  | thermSample (temps : List Nat)
  | uvWarning
  | uvLockout
  | ovLockout
  | railFault (rail : Fin 8)
  | leak
  | powerUp (vin : Nat)
  | moduleReset
  | coldStart (env : ColdEnv)
  | tileStore (t : Tid) (w : IWord)
  | configurationRequest (c : CfgReq)
  | pcieLinkUp (speed : PcieSpeed) (width : PcieWidth) (flit : Bool)
  | uncorrectableCodeword (l : BadWord)
  | railFaultRelease
  | secretsCleared (ok : Bool)
  | pmbusOtherCommand (code : BitVec 8)
  deriving DecidableEq, Repr

end Sys2Proof
end

