-- ==== Sys2Proof/Machine/Bits.lean ====
section
/-! DEFINITION. Bit counting, bit reversal and the CRCs (R101, R112). -/

namespace Sys2Proof.Machine

/-- The low n bits of v reversed (R94, R101). -/
def brev : Nat → Nat → Nat
  | 0, _ => 0
  | n + 1, v => (v % 2) * 2 ^ n + brev n (v / 2)

/-- Ones among the low n bits of v. -/
def popc : Nat → Nat → Nat
  | 0, _ => 0
  | n + 1, v => v % 2 + popc n (v / 2)

/-- Trailing zeros of v among n bits; n for 0. -/
def ctz : Nat → Nat → Nat
  | 0, _ => 0
  | n + 1, v => if v % 2 = 1 then 0 else 1 + ctz n (v / 2)

/-- Leading zeros of v among n bits; n for 0. -/
def clz (n v : Nat) : Nat := ctz n (brev n v)

/-- One bit of a CRC step: the running value, the input bit (R112). -/
def crcBit (w : Nat) (refl : Bool) (poly c i : Nat) : Nat :=
  if refl then
    let x := (i + c) % 2
    if x = 1 then (c / 2) ^^^ brev w poly else c / 2
  else
    let x := (i + c >>> (w - 1)) % 2
    let d := (c * 2) % 2 ^ w
    if x = 1 then d ^^^ poly else d

/-- Bits i upward of byte b through a CRC, in the order R112 takes them. -/
def crcBits (w : Nat) (refl : Bool) (poly b : Nat) : Nat → Nat → Nat
  | 0, c => c
  | k + 1, c => crcBits w refl poly b k (crcBit w refl poly c ((if refl then b >>> (7 - k) else b >>> k) % 2))

/-- A byte through a CRC of width w (R112). -/
def crcByte (w : Nat) (refl : Bool) (poly c b : Nat) : Nat := crcBits w refl poly b 8 c % 2 ^ w

/-- Bytes through a CRC, in order. -/
def crcBytes (w : Nat) (refl : Bool) (poly c : Nat) (l : List Byte) : Nat :=
  l.foldl (fun c b => crcByte w refl poly c b.toNat) c

/-- CRC32C (R112). -/
def crc32c (c : Nat) (l : List Byte) : Nat := crcBytes 32 true 0x1EDC_6F41 c l

/-- CRC64, ECMA-182 (R112). -/
def crc64 (c : Nat) (l : List Byte) : Nat := crcBytes 64 false 0x42F0_E1EB_A9EA_3693 c l

end Sys2Proof.Machine
end

