-- ==== Sys2Proof/Config.lean ====
section
/-! DEFINITION. What an implementation fixes and the spec does not give as numbers: free values, the cryptographic
functions that the spec takes from other standards, and the part's own secrets. None has a body: nothing can be proved of
a value of them (log entries 9, 10). -/

namespace Sys2Proof.Config

/-- A free value: what the spec leaves unspecified, drawn at the given position of the counter `State.fresh`
(log entry 9). -/
opaque freeW : Nat → BitVec 64

/-- ML-DSA-65 verification of a signature over a message under a public key (FIPS 204, R449; log entry 10). -/
opaque mldsaVerify : (key msg sig : List (BitVec 8)) → Bool

/-- The 32 bytes of the seed that the ROM reconstructs from the PUF (R452; log entry 10). -/
opaque pufSeed : List (BitVec 8)

/-- ML-DSA-65 key generation from a seed: public and private key (FIPS 204, R452; log entry 10). -/
opaque mldsaKeys : (seed : List (BitVec 8)) → List (BitVec 8) × List (BitVec 8)

/-- ML-DSA-65 signature of a message with a private key (FIPS 204, R400; log entry 10). -/
opaque mldsaSign : (key msg : List (BitVec 8)) → List (BitVec 8)

/-- The 64-byte digest of the Nydric public key in the boot ROM (R449). -/
opaque nydricDigest : BitVec 512

/-- The digest of the boot ROM (R457, measurement 1). -/
opaque romDigest : BitVec 512

/-- The MCTP endpoint UUID (R396 names the command and no value; log entry 9). -/
opaque endpointUuid : BitVec 128

/-- The value of a chain function whose enclosure does not settle its 32-bit significand (R174; log entry 12). -/
opaque unsettled : (fn : Nat) → (num : Int) → (den : Nat) → Int × Nat

/-- The operand size z of an engine operand whose size no chapter states, by MAJOR (R89; log entry 51). -/
opaque operandZ : (major : Nat) → Nat

/-- The answer bits of a management request whose coding the spec leaves to another standard (log entry 11). -/
opaque standardReply : (iface cmd : Nat) → BitVec 64

/-- What kind of thing DSP0274 calls each measurement (R457 gives none; log entry 174). -/
opaque measureKind : (index : Nat) → BitVec 7

/-- The internal scan chains' contents after a SCAN at level 3 (R402 gives no layout; log entry 9). -/
opaque scanOut : Nat → BitVec 64

end Sys2Proof.Config
end

