-- ==== Sys2Proof/Machine/Regs.lean ====
section
/-! DEFINITION. The register map: every register of the spec's field tables by name, its address (R13), its width, its
fields with type, change class and reset value (R5, R7), and the register that an address names. -/

namespace Sys2Proof.Machine

/-- Field types (R5). -/
inductive FTy where
  | rw | ro | w1c | wo | rwl | hs
  deriving DecidableEq, Repr

/-- Change classes (R7). -/
inductive Cls where
  | live | quiescent | rig
  deriving DecidableEq, Repr

/-- A register field: bits [lo + n - 1 : lo], its type, class, whether an image may override the reset value, and that
value. -/
structure Fld where
  lo : Nat
  n : Nat
  ty : FTy
  cls : Cls
  img : Bool
  rst : Nat
  deriving DecidableEq, Repr

/-- Device register block (R13). -/
def devBase : Nat := 0x00F8_0000_0000

/-- Register block of a grove (R13). -/
def groveBase (g : Nat) : Nat := 0x00F8_1000_0000 + g * 0x0100_0000

/-- Register block of a tree (R13). -/
def treeBase (t : Nat) : Nat := 0x00F8_8000_0000 + t * 0x0010_0000

end Sys2Proof.Machine

namespace Sys2Proof

/-- First address of a register block (R13). -/
def Blk.base : Blk → Nat
  | .dev => Machine.devBase
  | .grove g => Machine.groveBase g
  | .tree t => Machine.treeBase t

/-- Number of access tables that a block holds (R306). -/
def Blk.tables : Blk → Nat
  | .dev => 21
  | _ => 2

end Sys2Proof

namespace Sys2Proof.Machine

/-- The registers, by name: t is a tree, g a grove, th a thread, and i, j, k the indices of the register's name in the
order the spec writes them. -/
inductive Reg where
  | structStatus
  | structDigest (i : Nat)
  | rerigAddr
  | rerigLen
  | rerigCmd
  | rerigTime
  | cfgCtrl (b : Blk)
  | cfgPending (b : Blk)
  | cfgStatus (b : Blk)
  | cfgClear (b : Blk)
  | jobSeed
  | partSlot
  | numcfg
  | telemClr
  | telemSat (i : Nat)
  | telemAmax (i : Nat)
  | srCtx (t i : Nat)
  | srStream (t i : Nat)
  | hwCfg (t : Nat)
  | hwErr (t : Nat)
  | hwErrclr (t : Nat)
  | claim (t i : Nat)
  | tshape (t i : Nat)
  | mxArray (t i : Nat)
  | mxBank (t i j : Nat)
  | mxSkew (t i j : Nat)
  | mxCtrl (t : Nat)
  | mxTally (t : Nat)
  | mxTallyLast (t : Nat)
  | mxTallyClr (t : Nat)
  | vuStatus (t : Nat)
  | vuPasses (t : Nat)
  | vuPassesClr (t : Nat)
  | seStatus (t : Nat)
  | seCfg (t : Nat)
  | seElems (t : Nat)
  | seClr (t : Nat)
  | seFault (t : Nat)
  | jobCtrl
  | jobStatus
  | arbWeight
  | qctxBase (i : Nat)
  | qctxPtr (i : Nat)
  | qctxShadow (i : Nat)
  | qctxStat (i : Nat)
  | dispCtrl (g : Nat)
  | dispStatus (g : Nat)
  | sbStatus (t : Nat)
  | ferryDone (t i : Nat)
  | nbCfg
  | fbPort (i : Nat)
  | fbErr (i : Nat)
  | fbCtrl (i : Nat)
  | nbErr (g i : Nat)
  | nbLast (g i : Nat)
  | nbClr (g i : Nat)
  | nbScrub (g : Nat)
  | canCfg (g : Nat)
  | canStat (g : Nat)
  | canErr (g : Nat)
  | cmoAddr (g : Nat)
  | cmoLen (g : Nat)
  | cmoCmd (g : Nat)
  | cmoStatus (g : Nat)
  | fyStatus (g i : Nat)
  | fyBytes (g i : Nat)
  | fyClr (g i : Nat)
  | ptRootJ
  | ptRootS
  | tlbInvVa
  | tlbInvLen
  | tlbInvCmd
  | tlbInvStatus
  | atsStat
  | priCtrl
  | priStat
  | accDenyLast
  | accDenyAddr
  | accDenyClr
  | accGroup (i : Nat)
  | accRule (b : Blk) (i j k : Nat)
  | epStatus
  | epCount
  | epEpoch
  | epCtrl
  | epRegAddr
  | epRegRange
  | epCmd
  | epCmdstat
  | epDigest
  | epLastcommit
  | epFaultLast
  | epFq (i : Nat)
  | epRplBase
  | epRplStatus
  | epRplCur (i : Nat)
  | epEntry (i j : Nat)
  | epTag (t i : Nat)
  | vdStat (g : Nat)
  | tideNow
  | tideCfg
  | tideSet
  | tideStatus
  | tideInc
  | stepOrigin
  | stepPeriod
  | ttCtrl
  | ttStat
  | ttClr
  | tideLink (i : Nat)
  | ttEntry (i j : Nat)
  | landCfg (i : Nat)
  | landStatus (i : Nat)
  | landErr (i : Nat)
  | landBytes (i : Nat)
  | landCtrl (i : Nat)
  | landPartid
  | landGctrl
  | route (i : Nat)
  | hostapt
  | pciestat
  | mgmtstat
  | flashstat
  | dbgstat
  | vbarJ (t i : Nat)
  | vbarS (t i : Nat)
  | kspJ (t i : Nat)
  | kspS (t i : Nat)
  | dfstackJ (t i : Nat)
  | dfstackS (t i : Nat)
  | gateBase (t : Nat)
  | gateMask (t : Nat)
  | excStatus (t i : Nat)
  | intPend (t i : Nat)
  | intEn (t i : Nat)
  | intSet (t i : Nat)
  | intTcmpJ (t i : Nat)
  | intTcmpS (t i : Nat)
  | incRing
  | incPtr
  | incCtrl
  | incOvf
  | incStat
  | incClr
  | recovStat
  | wdCtrl
  | partState
  | landFence
  | landUnfence
  | bistCtrl
  | bistStat
  | nbHealth (g i : Nat)
  | treeHealth (t : Nat)
  | hwSpare (t : Nat)
  | bootStatus
  | rollCtr (i : Nat)
  | rollCmd
  | rollStatus
  | secMboxAddr
  | secMboxCmd
  | secMboxStatus
  | dbgNonce (i : Nat)
  | scrubCtrl
  | scrubStatus
  | scrubKeep (i : Nat)
  | pwrCtrl
  | pwrStatus
  | pwrStat
  | thermStatus
  | thr (t th sel : Nat)
  | vwin (t v w : Nat)
  | mwin (t m w : Nat)
  | doorbell (q : Nat)

/-- The address of a register (R13 and the register descriptions; R86 for thread registers, R214 for V and M). -/
def Reg.addr : Reg → Nat
  | .structStatus => devBase + 0x1000
  | .structDigest i => devBase + 0x1040 + 0x8 * i
  | .rerigAddr => devBase + 0x1100
  | .rerigLen => devBase + 0x1108
  | .rerigCmd => devBase + 0x1110
  | .rerigTime => devBase + 0x1118
  | .cfgCtrl b => b.base + 0xF00
  | .cfgPending b => b.base + 0xF08
  | .cfgStatus b => b.base + 0xF10
  | .cfgClear b => b.base + 0xF18
  | .jobSeed => devBase + 0x2000
  | .partSlot => devBase + 0x2008
  | .numcfg => devBase + 0x2010
  | .telemClr => devBase + 0x2018
  | .telemSat i => devBase + 0x2400 + 0x20 * i
  | .telemAmax i => devBase + 0x2408 + 0x20 * i
  | .srCtx t i => treeBase t + 0x2000 + 0x40 * i
  | .srStream t i => treeBase t + 0x2008 + 0x40 * i
  | .hwCfg t => treeBase t + 0x4000
  | .hwErr t => treeBase t + 0x4008
  | .hwErrclr t => treeBase t + 0x4010
  | .claim t i => treeBase t + 0x4400 + 0x8 * i
  | .tshape t i => treeBase t + 0x4800 + 0x8 * i
  | .mxArray t i => treeBase t + 0x5000 + 0x100 * i
  | .mxBank t i j => treeBase t + 0x5008 + 0x100 * i + 0x8 * j
  | .mxSkew t i j => treeBase t + 0x5040 + 0x100 * i + 0x8 * j
  | .mxCtrl t => treeBase t + 0x4F00
  | .mxTally t => treeBase t + 0x4F08
  | .mxTallyLast t => treeBase t + 0x4F10
  | .mxTallyClr t => treeBase t + 0x4F18
  | .vuStatus t => treeBase t + 0x6000
  | .vuPasses t => treeBase t + 0x6008
  | .vuPassesClr t => treeBase t + 0x6010
  | .seStatus t => treeBase t + 0x7000
  | .seCfg t => treeBase t + 0x7008
  | .seElems t => treeBase t + 0x7010
  | .seClr t => treeBase t + 0x7018
  | .seFault t => treeBase t + 0x7020
  | .jobCtrl => devBase + 0x3000
  | .jobStatus => devBase + 0x3008
  | .arbWeight => devBase + 0x3010
  | .qctxBase i => devBase + 0x100000 + 0x20 * i
  | .qctxPtr i => devBase + 0x100008 + 0x20 * i
  | .qctxShadow i => devBase + 0x100010 + 0x20 * i
  | .qctxStat i => devBase + 0x100018 + 0x20 * i
  | .dispCtrl g => groveBase g + 0x2000
  | .dispStatus g => groveBase g + 0x2008
  | .sbStatus t => treeBase t + 0x8000
  | .ferryDone t i => treeBase t + 0x8100 + 0x8 * i
  | .nbCfg => devBase + 0x4800
  | .fbPort i => devBase + 0x4000 + 0x100 * i
  | .fbErr i => devBase + 0x4008 + 0x100 * i
  | .fbCtrl i => devBase + 0x4010 + 0x100 * i
  | .nbErr g i => groveBase g + 0x4000 + 0x100 * i
  | .nbLast g i => groveBase g + 0x4008 + 0x100 * i
  | .nbClr g i => groveBase g + 0x4010 + 0x100 * i
  | .nbScrub g => groveBase g + 0x4800
  | .canCfg g => groveBase g + 0x5000
  | .canStat g => groveBase g + 0x5008
  | .canErr g => groveBase g + 0x5010
  | .cmoAddr g => groveBase g + 0x5020
  | .cmoLen g => groveBase g + 0x5028
  | .cmoCmd g => groveBase g + 0x5030
  | .cmoStatus g => groveBase g + 0x5038
  | .fyStatus g i => groveBase g + 0x6000 + 0x100 * i
  | .fyBytes g i => groveBase g + 0x6008 + 0x100 * i
  | .fyClr g i => groveBase g + 0x6010 + 0x100 * i
  | .ptRootJ => devBase + 0x5000
  | .ptRootS => devBase + 0x5008
  | .tlbInvVa => devBase + 0x5010
  | .tlbInvLen => devBase + 0x5018
  | .tlbInvCmd => devBase + 0x5020
  | .tlbInvStatus => devBase + 0x5028
  | .atsStat => devBase + 0x5030
  | .priCtrl => devBase + 0x5038
  | .priStat => devBase + 0x5040
  | .accDenyLast => devBase + 0x5080
  | .accDenyAddr => devBase + 0x5088
  | .accDenyClr => devBase + 0x5090
  | .accGroup i => devBase + 0x3C000 + 0x8 * i
  | .accRule b i j k => b.base + 0x30000 + 0x800 * i + 0x20 * j + 0x8 * k
  | .epStatus => devBase + 0x6000
  | .epCount => devBase + 0x6008
  | .epEpoch => devBase + 0x6010
  | .epCtrl => devBase + 0x6018
  | .epRegAddr => devBase + 0x6020
  | .epRegRange => devBase + 0x6028
  | .epCmd => devBase + 0x6030
  | .epCmdstat => devBase + 0x6038
  | .epDigest => devBase + 0x6040
  | .epLastcommit => devBase + 0x6048
  | .epFaultLast => devBase + 0x6050
  | .epFq i => devBase + 0x6100 + 0x8 * i
  | .epRplBase => devBase + 0x6500
  | .epRplStatus => devBase + 0x6508
  | .epRplCur i => devBase + 0x6800 + 0x8 * i
  | .epEntry i j => devBase + 0x40000 + 0x20 * i + 0x8 * j
  | .epTag t i => treeBase t + 0x9000 + 0x8 * i
  | .vdStat g => groveBase g + 0x7000
  | .tideNow => devBase + 0x8000
  | .tideCfg => devBase + 0x8008
  | .tideSet => devBase + 0x8010
  | .tideStatus => devBase + 0x8018
  | .tideInc => devBase + 0x8020
  | .stepOrigin => devBase + 0x8028
  | .stepPeriod => devBase + 0x8030
  | .ttCtrl => devBase + 0x8038
  | .ttStat => devBase + 0x8040
  | .ttClr => devBase + 0x8048
  | .tideLink i => devBase + 0x8100 + 0x8 * i
  | .ttEntry i j => devBase + 0x10000 + 0x20 * i + 0x8 * j
  | .landCfg i => devBase + 0x9000 + 0x100 * i
  | .landStatus i => devBase + 0x9008 + 0x100 * i
  | .landErr i => devBase + 0x9010 + 0x100 * i
  | .landBytes i => devBase + 0x9018 + 0x100 * i
  | .landCtrl i => devBase + 0x9020 + 0x100 * i
  | .landPartid => devBase + 0x8F00
  | .landGctrl => devBase + 0x8F08
  | .route i => devBase + 0x200000 + 0x8 * i
  | .hostapt => devBase + 0xA000
  | .pciestat => devBase + 0xA008
  | .mgmtstat => devBase + 0xA100
  | .flashstat => devBase + 0xA200
  | .dbgstat => devBase + 0xA300
  | .vbarJ t i => treeBase t + 0xA000 + 0x100 * i
  | .vbarS t i => treeBase t + 0xA008 + 0x100 * i
  | .kspJ t i => treeBase t + 0xA010 + 0x100 * i
  | .kspS t i => treeBase t + 0xA018 + 0x100 * i
  | .dfstackJ t i => treeBase t + 0xA020 + 0x100 * i
  | .dfstackS t i => treeBase t + 0xA028 + 0x100 * i
  | .gateBase t => treeBase t + 0xA800
  | .gateMask t => treeBase t + 0xA808
  | .excStatus t i => treeBase t + 0xA030 + 0x100 * i
  | .intPend t i => treeBase t + 0xA040 + 0x100 * i
  | .intEn t i => treeBase t + 0xA048 + 0x100 * i
  | .intSet t i => treeBase t + 0xA050 + 0x100 * i
  | .intTcmpJ t i => treeBase t + 0xA058 + 0x100 * i
  | .intTcmpS t i => treeBase t + 0xA060 + 0x100 * i
  | .incRing => devBase + 0xB000
  | .incPtr => devBase + 0xB008
  | .incCtrl => devBase + 0xB010
  | .incOvf => devBase + 0xB018
  | .incStat => devBase + 0xB020
  | .incClr => devBase + 0xB028
  | .recovStat => devBase + 0xB030
  | .wdCtrl => devBase + 0xB038
  | .partState => devBase + 0xB040
  | .landFence => devBase + 0xB048
  | .landUnfence => devBase + 0xB050
  | .bistCtrl => devBase + 0xB100
  | .bistStat => devBase + 0xB108
  | .nbHealth g i => groveBase g + 0xB000 + 0x8 * i
  | .treeHealth t => treeBase t + 0xB000
  | .hwSpare t => treeBase t + 0xB008
  | .bootStatus => devBase + 0xC000
  | .rollCtr i => devBase + 0xC010 + 0x8 * i
  | .rollCmd => devBase + 0xC030
  | .rollStatus => devBase + 0xC038
  | .secMboxAddr => devBase + 0xC040
  | .secMboxCmd => devBase + 0xC048
  | .secMboxStatus => devBase + 0xC050
  | .dbgNonce i => devBase + 0xC060 + 0x8 * i
  | .scrubCtrl => devBase + 0xC100
  | .scrubStatus => devBase + 0xC108
  | .scrubKeep i => devBase + 0xC110 + 0x8 * i
  | .pwrCtrl => devBase + 0xD000
  | .pwrStatus => devBase + 0xD008
  | .pwrStat => devBase + 0xD010
  | .thermStatus => devBase + 0xD018
  | .thr t th sel => treeBase t + 0x3000 + 0x200 * th + 8 * sel
  | .vwin t v w => treeBase t + 0x1_0000 + 0x800 * v + 8 * w
  | .mwin t m w => treeBase t + 0x2_0000 + 0x1000 * m + 8 * w
  | .doorbell q => devBase + 0x0200_0000 + 8 * q

/-- The width of a register in bits. -/
def Reg.width : Reg → Nat
  | .rerigLen => 32
  | .rerigCmd => 32
  | .rerigTime => 32
  | .cfgCtrl _ => 32
  | .cfgClear _ => 32
  | .partSlot => 32
  | .numcfg => 32
  | .hwCfg _ => 32
  | .hwErrclr _ => 32
  | .tshape _ _ => 32
  | .mxBank _ _ _ => 32
  | .mxCtrl _ => 32
  | .mxTallyClr _ => 32
  | .vuStatus _ => 32
  | .vuPassesClr _ => 32
  | .seStatus _ => 32
  | .seCfg _ => 32
  | .seClr _ => 32
  | .seFault _ => 32
  | .jobCtrl => 32
  | .jobStatus => 32
  | .dispCtrl _ => 32
  | .ferryDone _ _ => 32
  | .nbCfg => 32
  | .fbCtrl _ => 32
  | .nbLast _ _ => 32
  | .nbClr _ _ => 32
  | .canCfg _ => 32
  | .cmoCmd _ => 32
  | .cmoStatus _ => 32
  | .fyClr _ _ => 32
  | .tlbInvCmd => 32
  | .tlbInvStatus => 32
  | .priCtrl => 32
  | .accDenyClr => 32
  | .epEpoch => 32
  | .epCmd => 32
  | .epCmdstat => 32
  | .stepPeriod => 32
  | .ttCtrl => 32
  | .ttClr => 32
  | .landCfg _ => 32
  | .landCtrl _ => 32
  | .landPartid => 32
  | .mgmtstat => 32
  | .flashstat => 32
  | .dbgstat => 32
  | .intPend _ _ => 32
  | .intEn _ _ => 32
  | .intSet _ _ => 32
  | .incCtrl => 32
  | .incClr => 32
  | .wdCtrl => 32
  | .partState => 32
  | .landFence => 32
  | .landUnfence => 32
  | .nbHealth _ _ => 32
  | .treeHealth _ => 32
  | .rollCtr _ => 32
  | .rollCmd => 32
  | .rollStatus => 32
  | .secMboxCmd => 32
  | .secMboxStatus => 32
  | .scrubCtrl => 32
  | _ => 64

/-- A read-write field. -/
def rw (lo n r : Nat) : Fld := ⟨lo, n, .rw, .live, false, r⟩
/-- A read-only field. -/
def ro (lo n r : Nat) : Fld := ⟨lo, n, .ro, .live, false, r⟩
/-- A write-1-to-clear field. -/
def w1c (lo n r : Nat) : Fld := ⟨lo, n, .w1c, .live, false, r⟩
/-- A write-only field. -/
def wo (lo n r : Nat) : Fld := ⟨lo, n, .wo, .live, false, r⟩
/-- A field locked while a job runs. -/
def rwl (lo n r : Nat) : Fld := ⟨lo, n, .rwl, .live, false, r⟩
/-- A hardware status field. -/
def hs (lo n r : Nat) : Fld := ⟨lo, n, .hs, .live, false, r⟩
/-- A read-only field of class rig, decided by a section of the structure in effect (R50); its bits come from there. -/
def rig (lo n : Nat) : Fld := ⟨lo, n, .ro, .rig, false, 0⟩
/-- The field with an image override (Reset "img"). -/
def Fld.im (f : Fld) : Fld := { f with img := true }
/-- The field with class quiescent. -/
def Fld.q (f : Fld) : Fld := { f with cls := .quiescent }

/-- The fields of a register (the spec's field tables). -/
def Reg.fields : Reg → List Fld
  | .structStatus => [hs 0 4 0, hs 4 4 0, hs 8 8 0, hs 16 1 0, hs 17 1 0, hs 18 1 0, hs 24 8 0, hs 32 32 0]
  | .structDigest _ => [ro 0 64 0]
  | .rerigAddr => [rw 0 52 0]
  | .rerigLen => [rw 0 22 0]
  | .rerigCmd => [wo 0 1 0]
  | .rerigTime => [hs 0 16 0]
  | .cfgCtrl _ => [rw 0 1 0, wo 1 1 0, hs 2 1 0]
  | .cfgPending _ => [hs 0 64 0]
  | .cfgStatus _ => [hs 0 8 0, hs 8 26 0, hs 48 16 0]
  | .cfgClear _ => [wo 0 1 0]
  | .jobSeed => [rwl 0 64 0]
  | .partSlot => [rwl 0 16 0]
  | .numcfg => [rwl 0 5 16 |>.im, rwl 8 1 0 |>.im]
  | .telemClr => [wo 1 63 0]
  | .telemSat _ => [hs 0 32 0, hs 32 32 0]
  | .telemAmax _ => [hs 0 32 0, hs 32 32 0]
  | .srCtx _ _ => [rw 0 6 0 |>.q]
  | .srStream _ _ => [rw 0 64 0]
  | .hwCfg _ => [rig 0 2, rw 2 1 1 |>.im, rw 4 4 8 |>.im]
  | .hwErr _ => [hs 0 16 0, hs 16 16 0, hs 32 5 0, hs 37 10 0, hs 47 1 0]
  | .hwErrclr _ => [wo 0 1 0]
  | .claim _ _ => [hs 0 32 0, hs 32 1 0, hs 33 1 0, hs 34 2 0]
  | .tshape _ _ => [hs 0 8 0, hs 8 12 0, hs 20 4 0, hs 24 1 0, hs 25 1 0, hs 31 1 0]
  | .mxArray _ _ => [rig 0 2, rig 2 4, rig 6 16, hs 22 1 0, hs 23 5 0, hs 32 16 0, hs 48 4 0]
  | .mxBank _ _ _ => [hs 0 3 0, hs 3 9 0, hs 12 9 0, hs 21 1 0, hs 22 1 0]
  | .mxSkew _ _ _ => (List.range 12).map fun i => hs (5 * i) 5 0 |>.q
  | .mxCtrl _ => [rw 0 1 1 |>.im, rw 1 1 1 |>.im, rw 2 10 0 |>.im]
  | .mxTally _ => [hs 0 16 0, hs 16 16 0, hs 32 16 0, hs 48 8 0, hs 56 4 0]
  | .mxTallyLast _ => [hs 0 4 0, hs 4 1 0, hs 5 16 0, hs 21 9 511, hs 30 9 511, hs 39 4 0, hs 43 3 0]
  | .mxTallyClr _ => [wo 0 1 0]
  | .vuStatus _ => [hs 0 4 0, hs 4 1 0, hs 5 2 0]
  | .vuPasses _ => [hs 0 48 0]
  | .vuPassesClr _ => [wo 0 1 0]
  | .seStatus _ => [hs 0 3 0, hs 3 1 0, hs 4 2 0]
  | .seCfg _ => [rig 0 1, rig 1 11]
  | .seElems _ => [hs 0 48 0]
  | .seClr _ => [wo 0 1 0]
  | .seFault _ => [hs 0 8 0, hs 8 5 0, hs 13 3 0, hs 16 2 0]
  | .jobCtrl => [wo 0 1 0, wo 1 1 0]
  | .jobStatus => [hs 0 8 0, hs 8 1 0]
  | .arbWeight => (List.range 32).map fun i => rwl (2 * i) 2 3 |>.im
  | .qctxBase _ => [rwl 12 40 0, rwl 52 4 4, rwl 56 2 0, rwl 58 1 0, rwl 59 1 0, rwl 60 1 0, hs 61 3 0]
  | .qctxPtr _ => [hs 0 32 0, hs 32 32 0]
  | .qctxShadow _ => [rwl 2 50 0]
  | .qctxStat _ => [rwl 0 11 0, rwl 11 10 0, rig 24 8, hs 32 12 0, hs 44 8 0, hs 52 12 0]
  | .dispCtrl _ => [rw 0 10 0 |>.im, rw 10 1 0 |>.q]
  | .dispStatus _ => [hs 0 32 0, hs 32 32 0]
  | .sbStatus _ => [hs 0 6 0, hs 16 32 0]
  | .ferryDone _ _ => [rw 0 32 0]
  | .nbCfg => [rig 0 2, rig 2 3, hs 5 1 0]
  | .fbPort _ => [rig 0 2, rig 2 1, rig 3 3, rig 6 13, rig 19 13, hs 32 3 0, hs 35 3 0, hs 38 15 0]
  | .fbErr _ => [hs 0 16 0, hs 16 16 0, hs 32 16 0, hs 48 1 0]
  | .fbCtrl _ => [rw 0 10 500 |>.im, wo 10 1 0]
  | .nbErr _ _ => [hs 0 16 0, hs 16 16 0, hs 32 16 0, hs 48 8 0, hs 56 1 0]
  | .nbLast _ _ => [hs 0 21 0, hs 21 4 0, hs 25 1 0]
  | .nbClr _ _ => [wo 0 1 0]
  | .nbScrub _ => [rw 0 1 1 |>.im, rw 1 5 15 |>.im, hs 32 32 0]
  | .canCfg _ => [rig 0 6]
  | .canStat _ => [hs 0 32 0, hs 32 32 0]
  | .canErr _ => [hs 0 16 0, hs 16 16 0, hs 32 16 0]
  | .cmoAddr _ => [rw 7 45 0]
  | .cmoLen _ => [rw 0 44 0]
  | .cmoCmd _ => [wo 0 2 0, wo 2 1 0, wo 3 1 0]
  | .cmoStatus _ => [hs 0 1 0, hs 8 8 0]
  | .fyStatus _ _ => [hs 0 1 0, hs 1 6 0, hs 7 12 0, hs 32 32 0]
  | .fyBytes _ _ => [hs 0 48 0]
  | .fyClr _ _ => [wo 0 1 0]
  | .ptRootJ => [rwl 0 1 0, rwl 12 40 0]
  | .ptRootS => [rw 0 1 0, rw 12 40 0]
  | .tlbInvVa => [rw 12 45 0]
  | .tlbInvLen => [rw 12 45 0]
  | .tlbInvCmd => [wo 0 2 0, wo 2 1 0, wo 3 1 0]
  | .tlbInvStatus => [hs 0 1 0, hs 8 8 0]
  | .atsStat => [hs 0 32 0, hs 32 32 0]
  | .priCtrl => [rw 0 14 2000 |>.im]
  | .priStat => [hs 0 9 0, hs 16 16 0, hs 32 1 0]
  | .accDenyLast => [hs 0 10 0, hs 10 1 0, hs 11 1 0, hs 12 16 0, hs 28 3 0, hs 32 32 0]
  | .accDenyAddr => [hs 0 52 0]
  | .accDenyClr => [wo 0 1 0]
  | .accGroup _ => (List.range 8).map fun i => rwl (8 * i) 8 0
  | .accRule _ _ _ _ => [rw 0 64 0]
  | .epStatus => [hs 0 32 0, hs 32 3 0, hs 35 1 0, hs 36 1 0, hs 37 2 0, hs 40 8 0, hs 48 16 0]
  | .epCount => [hs 0 15 0, hs 16 15 0, hs 32 15 0]
  | .epEpoch => [rwl 0 32 0]
  | .epCtrl => [rw 0 1 1 |>.im, rwl 1 1 0 |>.im, rw 2 10 0 |>.im, rw 12 12 1000 |>.im, rw 24 10 200 |>.im, rw 34 10 200 |>.im, rwl 44 16 0 |>.im]
  | .epRegAddr => [rw 4 48 0]
  | .epRegRange => [rw 0 15 0, rw 32 15 0]
  | .epCmd => [wo 0 1 0, wo 1 1 0, wo 2 1 0, wo 3 1 0, wo 4 1 0]
  | .epCmdstat => [hs 0 8 0, hs 8 1 0]
  | .epDigest => [hs 0 64 0]
  | .epLastcommit => [hs 0 32 0, hs 32 15 0]
  | .epFaultLast => [hs 0 8 0, hs 8 10 0, hs 18 15 0, hs 48 16 0]
  | .epFq _ => (List.range 32).map fun i => rwl (2 * i) 2 1 |>.im
  | .epRplBase => [rwl 0 1 0, rwl 21 31 0]
  | .epRplStatus => [hs 0 32 0, hs 32 15 0, hs 48 1 0]
  | .epRplCur _ => [hs 0 64 0]
  | .epEntry _ 0 => [hs 0 1 0, hs 1 1 0, hs 2 1 0, hs 3 1 0, hs 4 1 0, hs 5 2 0, hs 7 1 0, hs 8 6 0, hs 21 31 0]
  | .epEntry _ 1 => [hs 21 31 0]
  | .epEntry _ _ => [hs 0 64 0]
  | .epTag _ _ => [rw 0 32 0, rw 32 1 0]
  | .vdStat _ => [hs 0 8 0, hs 8 16 0, hs 32 32 0]
  | .tideNow => [hs 0 64 0]
  | .tideCfg => [rwl 0 2 1 |>.im |>.q, rwl 2 1 0 |>.im |>.q, rwl 3 1 1 |>.im |>.q, rwl 4 4 0 |>.im |>.q, rwl 8 4 0 |>.im |>.q, rwl 12 1 0 |>.im |>.q, rw 13 10 0 |>.im, rw 23 8 10 |>.im]
  | .tideSet => [rwl 0 64 0]
  | .tideStatus => [hs 0 1 0, hs 1 1 0, hs 2 4 0, hs 6 16 0, hs 22 1 0, hs 32 16 0]
  | .tideInc => [hs 0 40 46116860184]
  | .stepOrigin => [rw 0 64 0]
  | .stepPeriod => [rw 0 32 0 |>.im]
  | .ttCtrl => [rw 0 1 1 |>.im]
  | .ttStat => [hs 0 16 0, hs 16 16 0, hs 32 16 0, hs 48 16 0]
  | .ttClr => [wo 0 1 0]
  | .tideLink _ => [hs 0 1 0, hs 1 4 0, hs 5 16 0, hs 32 16 0]
  | .ttEntry _ _ => [rw 0 64 0]
  | .landCfg _ => [rig 0 2, rig 2 2, rig 4 1]
  | .landStatus _ => [hs 0 3 0, hs 3 2 0, hs 5 4 0, hs 9 4 0, hs 13 1 0, hs 16 16 0, hs 32 10 0]
  | .landErr _ => [hs 0 24 0, hs 24 16 0, hs 40 16 0, hs 56 4 0, hs 60 4 0]
  | .landBytes _ => [hs 0 48 0]
  | .landCtrl _ => [wo 0 1 0, wo 1 1 0]
  | .landPartid => [rwl 0 16 0 |>.im]
  | .landGctrl => [rw 0 10 100 |>.im, rw 10 6 16 |>.im, rw 16 10 0 |>.im]
  | .route _ => [rw 0 16 0, rw 16 16 0, rw 32 16 0, rw 48 16 0]
  | .hostapt => [rwl 30 22 0 |>.im]
  | .pciestat => [hs 0 3 0, hs 3 5 0, hs 8 1 0, hs 9 1 0, hs 10 1 0, hs 16 16 0, hs 32 16 0]
  | .mgmtstat => [hs 0 8 0, hs 8 7 0, hs 15 1 0, ro 16 3 0, hs 19 1 0, hs 20 3 0]
  | .flashstat => [hs 0 2 0, hs 2 1 0]
  | .dbgstat => [hs 0 2 0, hs 2 1 0, hs 16 16 0]
  | .vbarJ _ _ => [rw 11 46 0]
  | .vbarS _ _ => [rw 11 46 0 |>.im]
  | .kspJ _ _ => [rw 6 51 0]
  | .kspS _ _ => [rw 6 51 0 |>.im]
  | .dfstackJ _ _ => [rw 6 51 0]
  | .dfstackS _ _ => [rw 6 51 0 |>.im]
  | .gateBase _ => [rw 12 45 0 |>.im]
  | .gateMask _ => [rw 0 64 0 |>.im]
  | .excStatus _ _ => [hs 0 1 0, hs 1 1 1, hs 2 1 0, hs 8 8 0, hs 16 16 0, hs 32 16 0]
  | .intPend _ _ => [w1c 0 1 0, w1c 1 1 0, w1c 8 1 0, w1c 9 1 0, w1c 10 1 0]
  | .intEn _ _ => [rw 0 1 0, rw 1 1 0, rw 8 1 1 |>.im, rw 9 1 1 |>.im, rw 10 1 1 |>.im]
  | .intSet _ _ => [wo 0 1 0, wo 8 1 0]
  | .intTcmpJ _ _ => [rw 0 64 0]
  | .intTcmpS _ _ => [rw 0 64 0]
  | .incRing => [rw 0 1 0 |>.im, rw 18 34 0 |>.im]
  | .incPtr => [rw 0 32 0, hs 32 32 0]
  | .incCtrl => [rw 0 10 0 |>.im, rw 10 1 1 |>.im, rw 11 3 2 |>.im, rw 14 6 0 |>.im, rw 20 2 0 |>.im]
  | .incOvf => [hs 0 12 0, hs 12 12 0, hs 24 12 0, hs 36 12 0, hs 48 12 0]
  | .incStat => [hs 0 7 0, hs 8 7 0, hs 32 32 0]
  | .incClr => [wo 0 1 0]
  | .recovStat => [hs 0 8 0, hs 8 16 0, hs 24 16 0, hs 40 24 0]
  | .wdCtrl => [rw 0 16 5000 |>.im, rw 16 1 1 |>.im]
  | .partState => [hs 0 1 0, hs 8 8 0, hs 16 16 0]
  | .landFence => [hs 0 16 0]
  | .landUnfence => [wo 0 16 0]
  | .bistCtrl => [rw 0 1 1 |>.im, rw 22 30 0 |>.im]
  | .bistStat => [hs 0 14 0, hs 16 14 0, hs 32 14 0, hs 46 12 0]
  | .nbHealth _ _ => [hs 0 6 0, hs 6 1 0, hs 7 1 0]
  | .treeHealth _ => [hs 0 1 0, hs 8 8 0, hs 16 16 0]
  | .hwSpare _ => [hs 0 5 0, hs 5 10 0, hs 15 10 0, hs 25 32 0]
  | .bootStatus => [hs 0 4 1, hs 4 1 0, hs 5 2 0, hs 7 2 0, hs 9 2 0, hs 11 1 0, hs 32 16 0]
  | .rollCtr _ => [hs 0 32 0]
  | .rollCmd => [wo 0 1 0]
  | .rollStatus => [hs 0 8 0]
  | .secMboxAddr => [rw 3 49 0]
  | .secMboxCmd => [wo 0 1 0]
  | .secMboxStatus => [hs 0 8 0, hs 8 1 0]
  | .dbgNonce _ => [ro 0 64 0]
  | .scrubCtrl => [rwl 0 1 0 |>.im, rwl 1 10 0 |>.im]
  | .scrubStatus => [hs 0 1 0, hs 8 24 0, hs 32 32 0]
  | .scrubKeep _ => [rwl 0 1 0 |>.im, rwl 21 31 0 |>.im, rwl 52 12 0 |>.im]
  | .pwrCtrl => [rw 0 11 1900 |>.im, rw 16 11 950 |>.im, rw 32 7 100 |>.im]
  | .pwrStatus => [hs 0 8 0, hs 8 1 0, hs 9 3 0, hs 12 1 0, hs 13 1 0, hs 32 12 0]
  | .pwrStat => [hs 0 16 0, hs 16 32 0, wo 48 1 0]
  | .thermStatus => (List.range 7).map fun i => hs (8 * i) 8 0
  | .thr _ _ sel =>
    if sel = 0x22 then [hs 0 21 0, rig 21 15, hs 36 28 0]
    else if sel = 0x23 then [hs 0 32 0, rig 32 5, rig 37 5, rig 42 5, hs 47 17 0]
    else if sel = 0x24 then [hs 0 21 0, rig 21 1, rig 22 11, hs 33 31 0]
    else if sel = 0x25 then [hs 0 18 0, rig 18 2, hs 20 44 0]
    else [hs 0 64 0]
  | .vwin _ _ _ => [hs 0 64 0]
  | .mwin _ _ _ => [hs 0 64 0]
  | .doorbell _ => [wo 0 64 0]

/-- The mask of the bits of a list of fields. -/
def fmask (l : List Fld) : W64 := l.foldl (fun m f => m ||| BitVec.ofNat 64 ((2 ^ f.n - 1) <<< f.lo)) 0

/-- The value that a register holds after module reset (the field tables; R84 for thread registers; SR_CTX.LTREE takes
the tree number; log entry 7 for fields without a value). -/
def Reg.dflt : Reg → W64
  | .srCtx t _ => BitVec.ofNat 64 (t % 64)
  | .thr _ _ sel => if sel = 0x10 then 0x7_0000_0000 else if sel = 0x16 then 1 else 0
  | .vwin _ _ _ => 0
  | .mwin _ _ _ => 0
  | r => BitVec.ofNat 64 (r.fields.foldl (fun a f => a + (f.rst <<< f.lo)) 0)

/-- The registers that lie in every block. -/
def regOfBlk (b : Blk) (o : Nat) : Option Reg :=
  if o = 0xF00 then some (.cfgCtrl b) else
  if o = 0xF08 then some (.cfgPending b) else
  if o = 0xF10 then some (.cfgStatus b) else
  if o = 0xF18 then some (.cfgClear b) else
  if 0x30000 ≤ o ∧ o < 0x30000 + 0x800 * b.tables ∧ o % 8 = 0 then some (.accRule b ((o - 0x30000) / 0x800) ((o - 0x30000) % 0x800 / 0x20) ((o - 0x30000) % 0x20 / 8)) else
  none

/-- The register at an offset of the device block. -/
def regOfDev (o : Nat) : Option Reg :=
  if o = 0x1000 then some (.structStatus) else
  if 0x1040 ≤ o ∧ o < 0x1080 ∧ (o - 0x1040) % 0x8 = 0 then some (.structDigest ((o - 0x1040) / 0x8)) else
  if o = 0x1100 then some (.rerigAddr) else
  if o = 0x1108 then some (.rerigLen) else
  if o = 0x1110 then some (.rerigCmd) else
  if o = 0x1118 then some (.rerigTime) else
  if o = 0x2000 then some (.jobSeed) else
  if o = 0x2008 then some (.partSlot) else
  if o = 0x2010 then some (.numcfg) else
  if o = 0x2018 then some (.telemClr) else
  if 0x2420 ≤ o ∧ o < 0x2C00 ∧ (o - 0x2400) % 0x20 = 0 then some (.telemSat ((o - 0x2400) / 0x20)) else
  if 0x2428 ≤ o ∧ o < 0x2C08 ∧ (o - 0x2408) % 0x20 = 0 then some (.telemAmax ((o - 0x2408) / 0x20)) else
  if o = 0x3000 then some (.jobCtrl) else
  if o = 0x3008 then some (.jobStatus) else
  if o = 0x3010 then some (.arbWeight) else
  if 0x100000 ≤ o ∧ o < 0x140000 ∧ (o - 0x100000) % 0x20 = 0 then some (.qctxBase ((o - 0x100000) / 0x20)) else
  if 0x100008 ≤ o ∧ o < 0x140008 ∧ (o - 0x100008) % 0x20 = 0 then some (.qctxPtr ((o - 0x100008) / 0x20)) else
  if 0x100010 ≤ o ∧ o < 0x140010 ∧ (o - 0x100010) % 0x20 = 0 then some (.qctxShadow ((o - 0x100010) / 0x20)) else
  if 0x100018 ≤ o ∧ o < 0x140018 ∧ (o - 0x100018) % 0x20 = 0 then some (.qctxStat ((o - 0x100018) / 0x20)) else
  if o = 0x4800 then some (.nbCfg) else
  if 0x4000 ≤ o ∧ o < 0x4400 ∧ (o - 0x4000) % 0x100 = 0 then some (.fbPort ((o - 0x4000) / 0x100)) else
  if 0x4008 ≤ o ∧ o < 0x4408 ∧ (o - 0x4008) % 0x100 = 0 then some (.fbErr ((o - 0x4008) / 0x100)) else
  if 0x4010 ≤ o ∧ o < 0x4410 ∧ (o - 0x4010) % 0x100 = 0 then some (.fbCtrl ((o - 0x4010) / 0x100)) else
  if o = 0x5000 then some (.ptRootJ) else
  if o = 0x5008 then some (.ptRootS) else
  if o = 0x5010 then some (.tlbInvVa) else
  if o = 0x5018 then some (.tlbInvLen) else
  if o = 0x5020 then some (.tlbInvCmd) else
  if o = 0x5028 then some (.tlbInvStatus) else
  if o = 0x5030 then some (.atsStat) else
  if o = 0x5038 then some (.priCtrl) else
  if o = 0x5040 then some (.priStat) else
  if o = 0x5080 then some (.accDenyLast) else
  if o = 0x5088 then some (.accDenyAddr) else
  if o = 0x5090 then some (.accDenyClr) else
  if 0x3C000 ≤ o ∧ o < 0x3C400 ∧ (o - 0x3C000) % 0x8 = 0 then some (.accGroup ((o - 0x3C000) / 0x8)) else
  if o = 0x6000 then some (.epStatus) else
  if o = 0x6008 then some (.epCount) else
  if o = 0x6010 then some (.epEpoch) else
  if o = 0x6018 then some (.epCtrl) else
  if o = 0x6020 then some (.epRegAddr) else
  if o = 0x6028 then some (.epRegRange) else
  if o = 0x6030 then some (.epCmd) else
  if o = 0x6038 then some (.epCmdstat) else
  if o = 0x6040 then some (.epDigest) else
  if o = 0x6048 then some (.epLastcommit) else
  if o = 0x6050 then some (.epFaultLast) else
  if 0x6100 ≤ o ∧ o < 0x6500 ∧ (o - 0x6100) % 0x8 = 0 then some (.epFq ((o - 0x6100) / 0x8)) else
  if o = 0x6500 then some (.epRplBase) else
  if o = 0x6508 then some (.epRplStatus) else
  if 0x6800 ≤ o ∧ o < 0x7400 ∧ (o - 0x6800) % 0x8 = 0 then some (.epRplCur ((o - 0x6800) / 0x8)) else
  if 0x40000 ≤ o ∧ o < 0x100000 ∧ (o - 0x40000) % 0x8 = 0 ∧ (o - 0x40000) % 0x20 < 0x18 then some (.epEntry ((o - 0x40000) / 0x20) ((o - 0x40000) % 0x20 / 0x8)) else
  if o = 0x8000 then some (.tideNow) else
  if o = 0x8008 then some (.tideCfg) else
  if o = 0x8010 then some (.tideSet) else
  if o = 0x8018 then some (.tideStatus) else
  if o = 0x8020 then some (.tideInc) else
  if o = 0x8028 then some (.stepOrigin) else
  if o = 0x8030 then some (.stepPeriod) else
  if o = 0x8038 then some (.ttCtrl) else
  if o = 0x8040 then some (.ttStat) else
  if o = 0x8048 then some (.ttClr) else
  if 0x8100 ≤ o ∧ o < 0x8180 ∧ (o - 0x8100) % 0x8 = 0 then some (.tideLink ((o - 0x8100) / 0x8)) else
  if 0x10000 ≤ o ∧ o < 0x14000 ∧ (o - 0x10000) % 0x8 = 0 ∧ (o - 0x10000) % 0x20 < 0x20 then some (.ttEntry ((o - 0x10000) / 0x20) ((o - 0x10000) % 0x20 / 0x8)) else
  if 0x9000 ≤ o ∧ o < 0xA000 ∧ (o - 0x9000) % 0x100 = 0 then some (.landCfg ((o - 0x9000) / 0x100)) else
  if 0x9008 ≤ o ∧ o < 0xA008 ∧ (o - 0x9008) % 0x100 = 0 then some (.landStatus ((o - 0x9008) / 0x100)) else
  if 0x9010 ≤ o ∧ o < 0xA010 ∧ (o - 0x9010) % 0x100 = 0 then some (.landErr ((o - 0x9010) / 0x100)) else
  if 0x9018 ≤ o ∧ o < 0xA018 ∧ (o - 0x9018) % 0x100 = 0 then some (.landBytes ((o - 0x9018) / 0x100)) else
  if 0x9020 ≤ o ∧ o < 0xA020 ∧ (o - 0x9020) % 0x100 = 0 then some (.landCtrl ((o - 0x9020) / 0x100)) else
  if o = 0x8F00 then some (.landPartid) else
  if o = 0x8F08 then some (.landGctrl) else
  if 0x200000 ≤ o ∧ o < 0x220000 ∧ (o - 0x200000) % 0x8 = 0 then some (.route ((o - 0x200000) / 0x8)) else
  if o = 0xA000 then some (.hostapt) else
  if o = 0xA008 then some (.pciestat) else
  if o = 0xA100 then some (.mgmtstat) else
  if o = 0xA200 then some (.flashstat) else
  if o = 0xA300 then some (.dbgstat) else
  if o = 0xB000 then some (.incRing) else
  if o = 0xB008 then some (.incPtr) else
  if o = 0xB010 then some (.incCtrl) else
  if o = 0xB018 then some (.incOvf) else
  if o = 0xB020 then some (.incStat) else
  if o = 0xB028 then some (.incClr) else
  if o = 0xB030 then some (.recovStat) else
  if o = 0xB038 then some (.wdCtrl) else
  if o = 0xB040 then some (.partState) else
  if o = 0xB048 then some (.landFence) else
  if o = 0xB050 then some (.landUnfence) else
  if o = 0xB100 then some (.bistCtrl) else
  if o = 0xB108 then some (.bistStat) else
  if o = 0xC000 then some (.bootStatus) else
  if 0xC010 ≤ o ∧ o < 0xC030 ∧ (o - 0xC010) % 0x8 = 0 then some (.rollCtr ((o - 0xC010) / 0x8)) else
  if o = 0xC030 then some (.rollCmd) else
  if o = 0xC038 then some (.rollStatus) else
  if o = 0xC040 then some (.secMboxAddr) else
  if o = 0xC048 then some (.secMboxCmd) else
  if o = 0xC050 then some (.secMboxStatus) else
  if 0xC060 ≤ o ∧ o < 0xC080 ∧ (o - 0xC060) % 0x8 = 0 then some (.dbgNonce ((o - 0xC060) / 0x8)) else
  if o = 0xC100 then some (.scrubCtrl) else
  if o = 0xC108 then some (.scrubStatus) else
  if 0xC110 ≤ o ∧ o < 0xC130 ∧ (o - 0xC110) % 0x8 = 0 then some (.scrubKeep ((o - 0xC110) / 0x8)) else
  if o = 0xD000 then some (.pwrCtrl) else
  if o = 0xD008 then some (.pwrStatus) else
  if o = 0xD010 then some (.pwrStat) else
  if o = 0xD018 then some (.thermStatus) else
  if 0x200_0000 ≤ o ∧ o < 0x201_0000 ∧ o % 8 = 0 then some (.doorbell ((o - 0x200_0000) / 8)) else
  none

/-- The register at an offset of grove g's block. -/
def regOfGrove (g o : Nat) : Option Reg :=
  if o = 0x2000 then some (.dispCtrl g) else
  if o = 0x2008 then some (.dispStatus g) else
  if 0x4000 ≤ o ∧ o < 0x4600 ∧ (o - 0x4000) % 0x100 = 0 then some (.nbErr g ((o - 0x4000) / 0x100)) else
  if 0x4008 ≤ o ∧ o < 0x4608 ∧ (o - 0x4008) % 0x100 = 0 then some (.nbLast g ((o - 0x4008) / 0x100)) else
  if 0x4010 ≤ o ∧ o < 0x4610 ∧ (o - 0x4010) % 0x100 = 0 then some (.nbClr g ((o - 0x4010) / 0x100)) else
  if o = 0x4800 then some (.nbScrub g) else
  if o = 0x5000 then some (.canCfg g) else
  if o = 0x5008 then some (.canStat g) else
  if o = 0x5010 then some (.canErr g) else
  if o = 0x5020 then some (.cmoAddr g) else
  if o = 0x5028 then some (.cmoLen g) else
  if o = 0x5030 then some (.cmoCmd g) else
  if o = 0x5038 then some (.cmoStatus g) else
  if 0x6000 ≤ o ∧ o < 0x6800 ∧ (o - 0x6000) % 0x100 = 0 then some (.fyStatus g ((o - 0x6000) / 0x100)) else
  if 0x6008 ≤ o ∧ o < 0x6808 ∧ (o - 0x6008) % 0x100 = 0 then some (.fyBytes g ((o - 0x6008) / 0x100)) else
  if 0x6010 ≤ o ∧ o < 0x6810 ∧ (o - 0x6010) % 0x100 = 0 then some (.fyClr g ((o - 0x6010) / 0x100)) else
  if o = 0x7000 then some (.vdStat g) else
  if 0xB000 ≤ o ∧ o < 0xB030 ∧ (o - 0xB000) % 0x8 = 0 then some (.nbHealth g ((o - 0xB000) / 0x8)) else
  none

/-- Selectors that name a thread register (R84). -/
def selOk (sel : Nat) : Bool := sel ≤ 0x1B || (0x20 ≤ sel && sel ≤ 0x27)

/-- The register at an offset of tree t's block. -/
def regOfTree (t o : Nat) : Option Reg :=
  if 0x3000 ≤ o ∧ o < 0x3800 then
    (if o % 8 = 0 ∧ selOk (o % 0x200 / 8) then some (.thr t ((o - 0x3000) / 0x200) (o % 0x200 / 8)) else none) else
  if 0x1_0000 ≤ o ∧ o < 0x2_0000 then (if o % 8 = 0 then some (.vwin t ((o - 0x1_0000) / 0x800) (o % 0x800 / 8)) else none) else
  if 0x2_0000 ≤ o ∧ o < 0x2_8000 then (if o % 8 = 0 then some (.mwin t ((o - 0x2_0000) / 0x1000) (o % 0x1000 / 8)) else none) else
  if 0x2000 ≤ o ∧ o < 0x2100 ∧ (o - 0x2000) % 0x40 = 0 then some (.srCtx t ((o - 0x2000) / 0x40)) else
  if 0x2008 ≤ o ∧ o < 0x2108 ∧ (o - 0x2008) % 0x40 = 0 then some (.srStream t ((o - 0x2008) / 0x40)) else
  if o = 0x4000 then some (.hwCfg t) else
  if o = 0x4008 then some (.hwErr t) else
  if o = 0x4010 then some (.hwErrclr t) else
  if 0x4400 ≤ o ∧ o < 0x4600 ∧ (o - 0x4400) % 0x8 = 0 then some (.claim t ((o - 0x4400) / 0x8)) else
  if 0x4800 ≤ o ∧ o < 0x4840 ∧ (o - 0x4800) % 0x8 = 0 then some (.tshape t ((o - 0x4800) / 0x8)) else
  if 0x5000 ≤ o ∧ o < 0x6000 ∧ (o - 0x5000) % 0x100 = 0 then some (.mxArray t ((o - 0x5000) / 0x100)) else
  if 0x5008 ≤ o ∧ o < 0x6008 ∧ (o - 0x5008) % 0x8 = 0 ∧ (o - 0x5008) % 0x100 < 0x10 then some (.mxBank t ((o - 0x5008) / 0x100) ((o - 0x5008) % 0x100 / 0x8)) else
  if 0x5040 ≤ o ∧ o < 0x6040 ∧ (o - 0x5040) % 0x8 = 0 ∧ (o - 0x5040) % 0x100 < 0xB0 then some (.mxSkew t ((o - 0x5040) / 0x100) ((o - 0x5040) % 0x100 / 0x8)) else
  if o = 0x4F00 then some (.mxCtrl t) else
  if o = 0x4F08 then some (.mxTally t) else
  if o = 0x4F10 then some (.mxTallyLast t) else
  if o = 0x4F18 then some (.mxTallyClr t) else
  if o = 0x6000 then some (.vuStatus t) else
  if o = 0x6008 then some (.vuPasses t) else
  if o = 0x6010 then some (.vuPassesClr t) else
  if o = 0x7000 then some (.seStatus t) else
  if o = 0x7008 then some (.seCfg t) else
  if o = 0x7010 then some (.seElems t) else
  if o = 0x7018 then some (.seClr t) else
  if o = 0x7020 then some (.seFault t) else
  if o = 0x8000 then some (.sbStatus t) else
  if 0x8100 ≤ o ∧ o < 0x8180 ∧ (o - 0x8100) % 0x8 = 0 then some (.ferryDone t ((o - 0x8100) / 0x8)) else
  if 0x9000 ≤ o ∧ o < 0x9020 ∧ (o - 0x9000) % 0x8 = 0 then some (.epTag t ((o - 0x9000) / 0x8)) else
  if 0xA000 ≤ o ∧ o < 0xA400 ∧ (o - 0xA000) % 0x100 = 0 then some (.vbarJ t ((o - 0xA000) / 0x100)) else
  if 0xA008 ≤ o ∧ o < 0xA408 ∧ (o - 0xA008) % 0x100 = 0 then some (.vbarS t ((o - 0xA008) / 0x100)) else
  if 0xA010 ≤ o ∧ o < 0xA410 ∧ (o - 0xA010) % 0x100 = 0 then some (.kspJ t ((o - 0xA010) / 0x100)) else
  if 0xA018 ≤ o ∧ o < 0xA418 ∧ (o - 0xA018) % 0x100 = 0 then some (.kspS t ((o - 0xA018) / 0x100)) else
  if 0xA020 ≤ o ∧ o < 0xA420 ∧ (o - 0xA020) % 0x100 = 0 then some (.dfstackJ t ((o - 0xA020) / 0x100)) else
  if 0xA028 ≤ o ∧ o < 0xA428 ∧ (o - 0xA028) % 0x100 = 0 then some (.dfstackS t ((o - 0xA028) / 0x100)) else
  if o = 0xA800 then some (.gateBase t) else
  if o = 0xA808 then some (.gateMask t) else
  if 0xA030 ≤ o ∧ o < 0xA430 ∧ (o - 0xA030) % 0x100 = 0 then some (.excStatus t ((o - 0xA030) / 0x100)) else
  if 0xA040 ≤ o ∧ o < 0xA440 ∧ (o - 0xA040) % 0x100 = 0 then some (.intPend t ((o - 0xA040) / 0x100)) else
  if 0xA048 ≤ o ∧ o < 0xA448 ∧ (o - 0xA048) % 0x100 = 0 then some (.intEn t ((o - 0xA048) / 0x100)) else
  if 0xA050 ≤ o ∧ o < 0xA450 ∧ (o - 0xA050) % 0x100 = 0 then some (.intSet t ((o - 0xA050) / 0x100)) else
  if 0xA058 ≤ o ∧ o < 0xA458 ∧ (o - 0xA058) % 0x100 = 0 then some (.intTcmpJ t ((o - 0xA058) / 0x100)) else
  if 0xA060 ≤ o ∧ o < 0xA460 ∧ (o - 0xA060) % 0x100 = 0 then some (.intTcmpS t ((o - 0xA060) / 0x100)) else
  if o = 0xB000 then some (.treeHealth t) else
  if o = 0xB008 then some (.hwSpare t) else
  none

/-- The register block that an address lies in (R13). -/
def blkOfAddr (a : Nat) : Option Blk :=
  if devBase ≤ a ∧ a < devBase + 0x400_0000 then some .dev
  else if groveBase 0 ≤ a ∧ a < groveBase 8 then
    some (.grove ⟨(a - groveBase 0) / 0x100_0000 % 8, Nat.mod_lt _ (by decide)⟩)
  else if treeBase 0 ≤ a ∧ a < treeBase 64 then
    some (.tree ⟨(a - treeBase 0) / 0x10_0000 % 64, Nat.mod_lt _ (by decide)⟩)
  else none

/-- The register of a block at an offset. -/
def regAt (b : Blk) (o : Nat) : Option Reg :=
  match regOfBlk b o with
  | some r => some r
  | none =>
    match b with
    | .dev => regOfDev o
    | .grove g => regOfGrove g o
    | .tree t => regOfTree t o

/-- The register whose bytes include the given address, if any. -/
def regCovering (b : Blk) (o : Nat) : Option Reg :=
  match regAt b (o / 4 * 4) with
  | some r => some r
  | none =>
    match regAt b (o / 8 * 8) with
    | some r => if r.width = 64 then some r else none
    | none => none

end Sys2Proof.Machine
end

