-- ==== Sys2Proof/Machine/State.lean ====
section
/-! DEFINITION. The state of the TH1 as plain data: registers by address, memory, tiles, vector and mask registers,
accumulator banks, the structure in effect, and the work that each unit has in progress. -/

namespace Sys2Proof.Machine

/-- A sparse map: keys rising, no entry equal to what an unlisted key reads as. -/
abbrev AList (α : Type) := List (Nat × α)

/-- Why a thread starts no instruction although it is not parked. -/
inductive Hold where
  /-- it starts instructions -/
  | none
  /-- it waits until its engine instructions have completed (FENCE.ENG, R408 step 1) -/
  | engines
  /-- it waits on page request k (R305) -/
  | page (k : Nat)
  /-- its access to a virtual address waits in a directory replica on an entry (R326); whether its instruction could be resumed
  from VRESUME or TRESUME if the wait ended in a fault (R414) -/
  | epoch (va idx : Nat) (res : Bool)
  /-- its engine instruction is recorded and waits before its fault point, behind an SBWAIT, an earlier instruction that it meets,
  or a heartwood segment under test (R115, R141, R211, R234, R237, R443) -/
  | board
  /-- it waits on ATS translation request k (R303) -/
  | ats (k : Nat)
  /-- it waits for far-bank port p to come up, for an address (R272) -/
  | port (p a : Nat)
  /-- its engine instruction waits so before its fault point, for its descriptor, program or chain (R228) -/
  | fetch (p a : Nat)
  /-- its instruction waits at issue: a full engine queue or scoreboard, QACTIVE, a re-rig, a commit, a test (R48, R114,
  R166, R235, R335, R443) -/
  | issue
  deriving DecidableEq, Repr

/-- A fault that a thread has raised and not yet entered: vector, sub-code, INFO, INFO2, RESUMABLE, and whether an ARITH of an
earlier REPX iteration was pending already, which does not come before it (R408 steps 1 and 2, R418). -/
structure Raised where
  vec : Nat
  sub : Nat
  info : W64
  info2 : W64
  res : Bool
  early : Bool
  deriving DecidableEq, Repr

/-- What a crew thread holds beside its registers. -/
structure ThreadSt where
  /-- products under way, oldest first: instructions started since, and the product (R106) -/
  muls : List (Nat × BitVec 128)
  /-- the divide under way: instructions started since, quotient, remainder (R107) -/
  div : Option (Nat × W64 × W64)
  /-- the pending ARITH: PC of the first reporting instruction, conditions, instructions started at the report (R415) -/
  arithPc : W64
  arithConds : Nat
  arithStart : Nat
  /-- instructions started -/
  starts : Nat
  /-- the work item: its command queue and SEQ (R250, R252) -/
  item : Option (Nat × Nat)
  hold : Hold
  /-- the fault whose entry is under way -/
  raised : Option Raised
  /-- vectors of the exceptions of a double fault in progress (R422, R423) -/
  dfVecs : List Nat
  /-- TIDE_NOW has reached the value of INT_TCMP_J, or of INT_TCMP_S, since it was written (R417) -/
  pastJ : Bool
  pastS : Bool
  deriving DecidableEq, Repr

/-- A thread with nothing in progress. -/
def ThreadSt.idle : ThreadSt := ⟨[], none, 0, 0, 0, 0, none, .none, none, [], false, false⟩

/-- A message that the part sends: an MSI-X vector, a packet that enters a landing's stream, a flit of a landing, an ATS or page
request, an invalidate completion, an answer on a management interface, an in-band interrupt on the I3C bus, or a platform event. -/
inductive Msg where
  | msix (vec : Nat) (addr : W64) (data : BitVec 32)
  | packet (l : Nat) (p : Packet)
  | data (l : Nat) (seq ack : Nat) (content : List Byte)
  | idle (l : Nat) (ack : Nat)
  | nak (l : Nat) (ack : Nat)
  | beacon (l : Nat) (b : BeaconMsg)
  | train (l : Nat) (t : TrainInfo)
  | atsRequest (k : Nat) (addr : Nat) (noWrite : Bool)
  | pageRequest (k : Nat) (addr : Nat)
  | invalidateCompletion
  | answer (iface : Nat) (code : Nat) (data : List Nat)
  | ibi (data : Nat)
  | platformEvent (receiver sensor reading : Nat)
  deriving DecidableEq, Repr

/-- An incident record as the collector keeps it (R434). -/
structure Rec where
  cls : Nat
  sev : Nat
  code : Nat
  unit : Nat
  secondary : Bool
  primary : Nat
  d0 : W64
  d1 : W64
  d2 : W64
  first : W64
  last : W64
  count : Nat
  deriving DecidableEq, Repr

/-- A record that the collector still coalesces into: its ring index once written, whether it carries DROPPED, and whether it became
final before it could be written (R437). -/
structure OpenRec where
  idx : Option Nat
  dropped : Bool
  final : Bool
  rc : Rec
  deriving DecidableEq, Repr

/-- The error collector (R436-R438): open records, oldest first (those held before INC_RING.EN have no index), and whether
records were lost before the next one. -/
structure Collector where
  opened : List OpenRec
  lost : Bool
  deriving DecidableEq, Repr

/-- A recovery domain (R439): an array, a heartwood bank, a near-bank channel, a landing, a crew thread, or a tree under
containment. -/
inductive Dom where
  | array (t n : Nat)
  | bank (t b : Nat)
  | channel (c : Nat)
  | landing (l : Nat)
  | thread (k : Nat)
  | tree (t : Nat)
  deriving DecidableEq, Repr

/-- A recovery in progress (R439): its domain; class, code, unit and ring index of the record that reported its fault; and the cycle
of TIDE_REF in which it ends, where no event ends it. -/
structure Handling where
  dom : Dom
  cls : Nat
  code : Nat
  unit : Nat
  primary : Option Nat
  until_ : Option Nat
  deriving DecidableEq, Repr

/-- The PCIe function's configuration state (R303, R305, R386, R387, R389). -/
structure PcieSt where
  ats : Bool
  pri : Bool
  busMaster : Bool
  msix : Bool
  funcMask : Bool
  /-- MSI-X table: address and data of each vector's message -/
  table : AList (W64 × BitVec 32)
  /-- MSI-X vectors unmasked -/
  unmasked : AList Bool
  /-- MSI-X pending bits -/
  pba : AList Bool
  /-- s of Table: BARs -/
  bar2 : Nat
  /-- settings of Max Payload Size, Max Read Request Size and Completion Timeout, as they are encoded -/
  maxPayload : Nat
  maxRead : Nat
  timeout : Nat
  /-- AER: uncorrectable error status, and the header logged for the first of them; both sticky -/
  aer : BitVec 32
  aerLog : List (BitVec 32)
  /-- steps 1 to 6 of R391 are under way -/
  inReset : Bool
  deriving DecidableEq, Repr

/-- Configuration space at reset: nothing enabled, every vector masked, BAR2 16 GiB, payloads of 128 bytes, read requests of 512 bytes
(R387; log entry 13). -/
def PcieSt.init : PcieSt := ⟨false, false, false, false, false, [], [], [], 4, 0, 2, 0, 0, [], false⟩

/-- An event before it is written (R244). -/
structure Ev where
  src : Nat
  code : Nat
  tide : W64
  lo : W64
  hi : W64
  deriving DecidableEq, Repr

/-- A range-cache or grove-TLB entry (R299, R300). -/
structure TlbEntry where
  world : Bool
  /-- true for ATS entries -/
  ats : Bool
  /-- first address and length in bytes -/
  va : Nat
  len : Nat
  pa : Nat
  /-- leaf bits [8:2]: R, W, X, U, POL, VER -/
  attrs : Nat
  /-- page size in bytes -/
  page : Nat
  deriving DecidableEq, Repr

/-- A part of an operand in one line or page: physical address, write policy, length. -/
structure Seg where
  pa : Nat
  pol : Nat
  n : Nat
  deriving DecidableEq, Repr

/-- A heartwood footprint: a mask of banks, and first and last bank row (R233). -/
structure Footprint where
  mask : Nat
  lo : Nat
  hi : Nat
  deriving DecidableEq, Repr

/-- What an engine does for an instruction, as it was found at issue (R113, R233): the engine (0 vector unit, 1 tile file,
2 stream engine, 3 scoreboard and epoch unit, 4 + n array n); heartwood read and written; tiles, vector and mask registers read
and written, as bits from 0, 8 and 40; claims named; sampled values; the places of its memory operands; the descriptor or
program bytes; and for an SBWAIT its counter and target. -/
structure Work where
  eng : Nat
  reads : List Footprint
  writes : List Footprint
  regsR : Nat
  regsW : Nat
  claims : List Nat
  args : List Nat
  segs : List (List Seg)
  bytes : List Byte
  wait : Option (Nat × Nat)
  deriving DecidableEq, Repr

/-- A scoreboard entry (R233, R415): issuing thread, words and PC of the instruction; instructions the thread had started;
PRECISE; the engine's work; whether its effect has been performed (an SBWAIT: satisfied); the conditions found; whether a
running invalidation removed an entry that translated its operands (R301); and whether it waits before its fault point, so that its
thread may still give it up (R115). -/
structure SbEntry where
  th : Nat
  word : IWord
  pc : W64
  startNo : Nat
  precise : Bool
  work : Work
  performed : Bool
  conds : Nat
  inval : Bool
  early : Bool
  deriving DecidableEq, Repr

/-- An MMA whose tally is pending (R157-R162): its bank and SEQ, the bank's cells and register before it, the tiles it read,
whether one of them has changed since, whether it was re-executed, and whether its comparisons of residues are equal (R160). -/
structure Tally where
  bank : Nat
  seq : Nat
  before : AList W64
  reg : W64
  tiles : List Nat
  stale : Bool
  again : Bool
  equal : Bool
  deriving DecidableEq, Repr

/-- What a tree holds beside its registers, memory, tiles and vector registers. -/
structure TreeSt where
  /-- the scoreboard, oldest first -/
  sb : List SbEntry
  /-- range cache, most recently used first (R299) -/
  rc : List TlbEntry
  /-- pending tallies of each array, oldest first -/
  tallies : AList (List Tally)
  /-- heartwood lines corrected or uncorrectable and not yet written back: bank, row, and whether its bank was copying into a spare when
  it was found (R427, R440) -/
  writebacks : List (Nat × Nat × Bool)
  /-- bank rows redirected to spares (R427) -/
  spares : List (Nat × Nat)
  deriving DecidableEq, Repr

/-- A tree with nothing in progress. -/
def TreeSt.idle : TreeSt := ⟨[], [], [], [], []⟩

/-- What a stored line deviates by from the codeword that its bytes and its poison mark call for: symbol errors, by symbol (0 to
127 the data bytes, 128 to 135 the check bytes) and value, and whether the last decoding found it uncorrectable (R256, R257). -/
structure LineFlaw where
  errs : List (Nat × Nat)
  bad : Bool
  deriving DecidableEq, Repr

/-- A line stored as its codeword. -/
def LineFlaw.none : LineFlaw := ⟨[], false⟩

/-- A sector that a canopy holds: 128 bytes (R273). -/
structure Sector where
  dirty : Bool
  poison : Bool
  data : List Byte
  /-- symbol errors of the codeword that the canopy stores (R273, R281) -/
  errs : List (Nat × Nat)
  /-- its fill is in flight (R280) -/
  filling : Bool
  deriving DecidableEq, Repr

/-- A line of a canopy: physical address / 512, its way, and its sectors present. -/
structure CanLine where
  base : Nat
  way : Nat
  sects : AList Sector
  deriving DecidableEq, Repr

/-- A canopy: lines, most recently used first, and ways excluded under R443. -/
structure CanopySt where
  lines : List CanLine
  excluded : List Nat
  deriving DecidableEq, Repr

/-- An empty canopy. -/
def CanopySt.empty : CanopySt := ⟨[], []⟩

/-- A maintenance operation that a grove's CMO registers started (R279, R280): 1 CLEAN, 2 INVAL or 3 CLINV; SCOPE; the range; and
the first sector that it has not processed, by address * 8 + canopy. -/
structure Cmo where
  op : Nat
  scope : Bool
  first : Nat
  stop : Nat
  next : Nat
  deriving DecidableEq, Repr

/-- A write that waits: at a far-bank port that is not up (R272), or for the register that it names (R5). -/
structure Posted where
  req : Req
  addr : Nat
  bytes : List Byte
  poison : Bool
  deriving DecidableEq, Repr

/-- The check line in the buffer of a bank of a near-bank channel (R260, R262): its row; whether its row tag matched when it was
read; whether a check byte in it has changed; and what has come about meanwhile in the check line as the device holds it: symbol
errors by slot, and in its row tag. -/
structure OpenRow where
  row : Nat
  ok : Bool
  changed : Bool
  late : List (Nat × Nat × Nat)
  lateTag : BitVec 64
  deriving DecidableEq, Repr

/-- An ATS Translation Request that the host has not completed (R303, R305): who waits, the host bus address, No Write, the
world and grove, whether the access writes, whether the request follows a page request, and the ranges invalidated since it was
sent. -/
structure AtsReq where
  who : Option Waiter
  addr : Nat
  noWrite : Bool
  world : Bool
  grove : Nat
  wr : Bool
  second : Bool
  gone : List (Nat × Nat)
  deriving DecidableEq, Repr

/-- A page request that the host has not answered (R305): as an ATS request. -/
structure PageReq where
  who : Option Waiter
  addr : Nat
  noWrite : Bool
  world : Bool
  grove : Nat
  wr : Bool
  deriving DecidableEq, Repr

/-- A read unit: a ferry descriptor or a crew instruction (R325, R336): versions chosen, by set number or by 64 + entry (true for the shadow);
entries resolved to their committed frame; entries for which the unit has been cut. -/
structure EpUnit where
  choices : List (Nat × Bool)
  used : List Nat
  cut : List Nat
  deriving DecidableEq, Repr

/-- A ferry's running manifest: its queue and world, the manifest header, the descriptor in progress, its rows done and CRC so
far, conditions, whether poison was moved, the epoch tag, what a held access waits on, and the physical ranges written since
the last FENCE, by earlier descriptors and by this one (R283-R291, R322). -/
structure Manifest where
  queue : Nat
  world : Bool
  header : List Byte
  desc : Nat
  row : Nat
  crc : Nat
  /-- the CRC has taken in a byte of a poisoned line (R289) -/
  crcBad : Bool
  conds : Nat
  poisoned : Bool
  tag : Option (Nat × Bool)
  hold : Hold
  wrote : List (Nat × Nat)
  /-- the code that it ends with, while its STATUS write awaits its translation (R291, R303) -/
  ending : Option Nat
  deriving DecidableEq, Repr

/-- A commit in progress: the step of R336 that it waits in (0 before step 3, 3 for read units, 4 for the partner), whether
read units were cut, whether the journal was lost in step 4, the digest, and EP_CTRL as the commit sampled it when it was
requested (R45). -/
structure CommitSt where
  step : Nat
  cut : Bool
  lost : Bool
  digest : Nat
  ctrl : W64
  deriving DecidableEq, Repr

/-- No commit is in progress. -/
def CommitSt.idle : CommitSt := ⟨0, false, false, 0, 0⟩

/-- A journal record of the sender (R338, R383): its number, the fields of Table: Journal record, the frame whose bytes
follow a page record, and how often each of its packets was repeated after a CRC failure. -/
structure JRec where
  num : Nat
  kind : Nat
  index : Nat
  epoch : Nat
  pages : Nat
  pcrc : Nat
  digest : Nat
  frame : Nat
  tries : AList Nat
  deriving DecidableEq, Repr

/-- The sender's journal: records that wait, records unanswered in order, and the next record's number (R383). -/
structure Journal where
  queue : List JRec
  unacked : List JRec
  next : Nat
  deriving DecidableEq, Repr

/-- A journal record that the partner is receiving (R339, R383): its number, the fields of its header, the parts of its page that
have not come, the CRC64 of those that have, each at its place, and whether it must be refused. -/
structure RxRec where
  num : Nat
  kind : Nat
  index : Nat
  epoch : Nat
  pages : Nat
  pcrc : Nat
  digest : Nat
  due : List Nat
  crc : Nat
  bad : Bool
  deriving DecidableEq, Repr

/-- The partner's side of the journal: the number of the record it handles next, once one has come; records in part received, and
packets of records whose header has not come; and the received set of index and page CRC (R339, R383). -/
structure Replica where
  next : Option Nat
  recs : List RxRec
  early : List Packet
  set : List (Nat × Nat)
  deriving DecidableEq, Repr

/-- A packet of a descriptor or its NOTIFY that awaits a reply (R374, R378): its TID, queue and row, the packet, how often
it was repeated after a CRC failure, and the landing it left by. -/
structure Await where
  tid : Nat
  queue : Nat
  row : Nat
  pkt : Packet
  tries : Nat
  via : Nat
  deriving DecidableEq, Repr

/-- A running landing descriptor (R373-R378): its queue and bytes, the row and the byte of the row to be sent next, whether
its NOTIFY has been sent, conditions, poison, the READ bytes still due, and the first error: code, sub-code, and lowest row
not acknowledged. -/
structure LRun where
  queue : Nat
  desc : List Byte
  row : Nat
  off : Nat
  notify : Bool
  conds : Nat
  poisoned : Bool
  err : Option (Nat × Nat)
  badRow : Nat
  deriving DecidableEq, Repr

/-- What a landing holds beside its registers (R359-R376). -/
structure LinkSt where
  /-- the next SEQ expected, and the last SEQ that the peer acknowledged (R366) -/
  expect : Nat
  acked : Nat
  /-- contents of the DATA flits not acknowledged, oldest first (R366) -/
  sent : List (List Byte)
  /-- bytes of a packet that has entered the stream and no flit yet (R364) -/
  rest : List Byte
  /-- packets that wait to enter the stream: forwarded, of this part, and of the journal; and whether the last one was forwarded,
  and of the journal (R372, R382) -/
  fwd : List Packet
  own : List Packet
  jnl : List Packet
  lastFwd : Bool
  lastJnl : Bool
  /-- bytes received of a packet that is not whole yet (R364) -/
  rx : List Byte
  /-- replays in a row, and whether it retrains under R361 -/
  replays : Nat
  retrain : Bool
  /-- contributions of lanes to uncorrectable codewords: cycle of TIDE_REF, and lane (R361) -/
  bads : List (Nat × Nat)
  /-- it accepts whatever peer it learns (R433) -/
  anyPeer : Bool
  /-- the last beacon, and TIDE_NOW of the last accepted one -/
  heard : Option BeaconMsg
  beaconAt : W64
  /-- running descriptors, packets awaiting a reply, the next TID, and the bundle's rotation -/
  runs : List LRun
  await : List Await
  tid : Nat
  turn : Nat
  /-- the queue whose turn it is to send a packet (R374) -/
  runTurn : Nat
  /-- replies sent, with repeats so far, oldest first (R369) -/
  replies : List (Packet × Nat)
  /-- the address of an access of its own that waits for a far-bank port (R272) -/
  held : Option Nat
  /-- packets that have arrived and wait, each with the address that it waits for at such a port: for that port, for the end of a
  commit (R336) or of a self-test (R443) -/
  inq : List (Packet × Option Nat)
  deriving DecidableEq, Repr

/-- A landing that has sent and received nothing. -/
def LinkSt.idle : LinkSt :=
  ⟨0, 4095, [], [], [], [], [], false, false, [], 0, false, [], false, none, 0, [], [], 0, 0, 0, [], none, []⟩

/-- A tide-table deadline that is pending (R352, R355): entry, fire time, due time, action, and what completion compares. -/
structure Pend where
  entry : Nat
  fire : Nat
  due : Nat
  act : Nat
  data : List (Nat × Nat)
  deriving DecidableEq, Repr

/-- What the tide unit holds beside its registers: the low 32 bits of the accumulator (R342), consecutive samples within 4
ticks (R345), the TIDE_SET value for the next mark, whether a master was accepted since job start (R348), the upstream
landing in use when it was switched, armed entries with fire time and the time from which lateness counts (R351, R353), and
pending deadlines, beacons that arrived while its quiescent fields were asked for (R48), and the first tick at which the next
entry may fire (R353). -/
structure TideSt where
  low : Nat
  good : Nat
  setv : Option W64
  known : Bool
  up : Option Nat
  armed : AList (Nat × Nat)
  pend : List Pend
  waiting : List (Nat × BeaconMsg)
  next : Nat
  deriving DecidableEq, Repr

/-- The tide unit at reset. -/
def TideSt.init : TideSt := ⟨0, 0, none, false, none, [], [], [], 0⟩

/-- A self-test slice (R441-R443): kind and index of its target, whether the rotating schedule chose it, and the fields that it
sampled when it started: the save area and, for a block, AUTO_SUB (R45). -/
structure Slice where
  kind : Nat
  idx : Nat
  auto : Bool
  save : Nat
  sub : Bool
  deriving DecidableEq, Repr

/-- The self-test slice that runs, and slices started, which number it. -/
structure BistSt where
  slice : Option Slice
  count : Nat
  deriving DecidableEq, Repr

/-- A job that ends: whether the steps of R249 are done, and whether a far-bank scrub runs (R249, R391, R461). -/
structure JobSt where
  drained : Bool
  far : Bool
  deriving DecidableEq, Repr

/-- What the boot and security processor keeps (R446-R459, R444): the flash's replay-protected counters RC0-RC3; the owner
keys in force since boot and the digest of the owner record; digests and SECVER of the firmware in use and of the last image;
FALLBACK of boot and Service firmware; whether key material was cleared; the debug level that a clearing of secrets leads to;
the frames shifted in over JTAG; whether the ROM has halted; and the cycle of TIDE_REF in which the running enrolment request
ends (R456). -/
structure SecSt where
  rpmc : List Nat
  keys : List (List Byte)
  owner : BitVec 512
  bootDigest : BitVec 512
  svcDigest : BitVec 512
  secvers : List Nat
  fallback : Nat
  keysGone : Bool
  clearing : Option Nat
  frames : List Byte
  halted : Bool
  busy : Option Nat
  deriving DecidableEq, Repr

/-- The boot and security processor at reset, with an unwritten flash. -/
def SecSt.init : SecSt := ⟨[0, 0, 0, 0], [], 0, 0, 0, [0, 0, 0], 0, false, none, [], false, none⟩

/-- What the management endpoint holds beside MGMTSTAT (R395-R400): I3C limits and enabled events, the PLDM event receiver
and sensors, the update session with the components verified, SPDM requesters with what they have negotiated, and the TAP
instruction. -/
structure MgmtSt where
  mwl : Nat
  mrl : Nat
  events : Nat
  receiver : Nat
  sensors : List Nat
  update : Option (Nat × List Nat)
  spdm : AList Bool
  tap : Nat
  deriving DecidableEq, Repr

/-- The management endpoint at reset, with IDCODE in the TAP (log entry 30). -/
def MgmtSt.init : MgmtSt := ⟨64, 64, 0, 0, [], none, [], 0x01⟩

/-- The module's power controller (R462-R477): rails on; module reset asserted; a rail fault latched; the requests on the
duty; the last measurement; readings of the six dies and the memory, and samples in a row that were cool; latched PMBus STATUS_WORD, STATUS_INPUT and
STATUS_TEMPERATURE bits; input voltage; the outputs THERM_TRIP_N and LEAK_N asserted; and the measurements of the last 10 ms. -/
structure PowerSt where
  on : Bool
  held : Bool
  latched : Bool
  bound : Nat
  brake : Nat
  therm : Nat
  watts : Nat
  temps : List Nat
  cool : Nat
  word : Nat
  input : Nat
  temp : Nat
  vin : Nat
  trip : Bool
  leak : Bool
  recent : List Nat
  deriving DecidableEq, Repr

/-- The power controller at reset: rails in regulation, nothing measured yet (log entry 31). -/
def PowerSt.init : PowerSt := ⟨true, false, false, 0, 0, 0, 0, [], 0, 0, 0, 0, 72, false, false, []⟩

/-- An entry of a walk cache: world, level, virtual address above that level, and the next table (R300). -/
structure WalkEnt where
  world : Bool
  level : Nat
  tag : Nat
  next : Nat
  deriving DecidableEq, Repr

/-- Why a command can fault: never, since the spec gives every access outside the address map an effect (R14), so no
constructor is needed. -/
inductive Fault where
  deriving DecidableEq, Repr

/-- Why a command has no meaning. -/
inductive Refusal where
  /-- raised by `exec` for a command without a meaning; safe: the machine stops -/
  | notModelled (mnemonic : String)
  deriving DecidableEq, Repr

/-- The state of the block. Registers are keyed by device physical address (R13), memory by physical byte address, tile
bytes by (tree * 8 + tile) * 65536 + byte, accumulator cells by ((tree * 16 + array) * 2 + bank) * 65536 + row * 256 +
column, vector registers by tree * 32 + v and mask registers by tree * 8 + m. -/
structure State where
  regs : AList W64
  mem : List Host.Cell
  /-- 128-byte lines stored with the poison check pattern (R257), by physical address / 128 -/
  poison : AList Bool
  tiles : AList Byte
  banks : AList W64
  vregs : AList (BitVec 16384)
  mregs : AList (BitVec 32768)
  /-- flash contents -/
  flash : AList Byte
  /-- sections of the structure in effect, by section ID; none at reset (R22, R38) -/
  sects : AList (List Byte)
  /-- arrays of each tree as the last structure load numbered them: shape and blocks (R28, R163) -/
  arrays : AList (List (Nat × List Nat))
  /-- sections of the factory image's LEAF: the retirements (R30) -/
  factoryLeaf : List Byte
  /-- values in effect of registers with pending quiescent fields, and of QCTX_BASE written while its queue is not stopped,
  by address (R46, R240) -/
  inEffect : AList W64
  /-- words 0-2 of ACC_RULE and TT_ENTRY held in shadow, by address (R310, R352) -/
  wordShadow : AList W64
  threads : AList ThreadSt
  trees : AList TreeSt
  collector : Collector
  /-- recoveries in progress (R439) -/
  handled : List Handling
  pcie : PcieSt
  /-- events held for each full event queue, oldest first (R244) -/
  heldEvents : AList (List Ev)
  /-- command queues held by a BARRIER (R243) -/
  barriers : AList Bool
  /-- the rotation of each dispatcher, at 8 + f of ferry f, and at 72 + l of landing l: 1 + the queue visited last (R251, R283,
  R374) -/
  turns : AList Nat
  canopies : AList CanopySt
  /-- symbol errors of stored lines, by address / 128 (R256) -/
  flaws : AList LineFlaw
  /-- what the stored row tag of a row differs from the right one by, by channel * 2^21 + row (R260) -/
  badTags : AList (BitVec 64)
  /-- the check-line buffers, by channel * 16 + bank (R262) -/
  openRows : AList OpenRow
  /-- times of the corrections of each pin, by channel * 32 + pin (R426) -/
  pins : AList (List Nat)
  /-- rows scrubbed by each near-bank channel, and by each heartwood (R265, R123) -/
  nbScrubbed : AList Nat
  hwScrubbed : AList Nat
  /-- refreshes that a hint asked each channel to issue ahead of time and that it has not issued yet (R264) -/
  hints : AList Nat
  /-- maintenance operations in progress, by grove (R279) -/
  cmos : AList Cmo
  /-- writes that wait, oldest first (R272) -/
  posted : List Posted
  /-- running manifests, by ferry -/
  ferries : AList (Option Manifest)
  /-- lines whose waiting request the host or a far-bank port ended: a read returns poison, a write is dropped (R272, R390) -/
  dead : AList Bool
  /-- grove TLBs, most recently used first (R300) -/
  tlbs : AList (List TlbEntry)
  walks : AList (List WalkEnt)
  atsReqs : AList AtsReq
  pageReqs : AList PageReq
  /-- page requests sent: the next one's number -/
  pageNext : Nat
  /-- translations that one waiting access uses once: who, host bus address / 4096, host address / 4096 (R305) -/
  onces : List (Waiter × Nat × Nat)
  /-- accesses that ended in HOST_FAIL and not yet told: who, host bus address / 4096 (R305) -/
  hostFails : List (Waiter × Nat)
  /-- the running invalidation: OP, world, first and last address (R301) -/
  tlbInv : Option (Nat × Bool × Nat × Nat)
  /-- read units in progress: of ferry f's descriptor, and at 64 + k of thread k's instruction (R325) -/
  epUnits : AList EpUnit
  /-- sets that a discard of one of their pages made not done (R334) -/
  undone : AList Bool
  /-- directory entries stored with an error that cannot be corrected (R341) -/
  epFlaws : AList Bool
  /-- the commit in progress, the journal's two sides, the landings and the tide unit -/
  commit : CommitSt
  journal : Journal
  replica : Replica
  links : AList LinkSt
  tide : TideSt
  /-- ranges whose unlisted bytes are free values: first address, end, position of the values (R42, R443) -/
  freeMem : List (Nat × Nat × Nat)
  /-- the delta that a re-rig has fetched, and whether the fetch failed (R39, R40) -/
  rerig : Option (List Byte × Bool)
  bist : BistSt
  job : JobSt
  sec : SecSt
  mgmt : MgmtSt
  power : PowerSt
  /-- messages sent, newest first -/
  out : List Msg
  /-- position of the next free value: the model's own -/
  fresh : Nat
  /-- cycles of TIDE_REF since reset: the model's own -/
  now : Nat
  /-- commands waiting -/
  pending : List Instr
  deriving DecidableEq, Repr

/-- The machine right after module reset: every register at its reset value, nothing listed, no structure in effect, no
command waiting. -/
def State.reset : State where
  regs := []
  mem := []
  poison := []
  tiles := []
  banks := []
  vregs := []
  mregs := []
  flash := []
  sects := []
  arrays := []
  factoryLeaf := []
  inEffect := []
  wordShadow := []
  threads := []
  trees := []
  collector := ⟨[], false⟩
  handled := []
  pcie := .init
  heldEvents := []
  barriers := []
  turns := []
  canopies := []
  flaws := []
  badTags := []
  openRows := []
  pins := []
  nbScrubbed := []
  hwScrubbed := []
  hints := []
  cmos := []
  posted := []
  ferries := []
  dead := []
  tlbs := []
  walks := []
  atsReqs := []
  pageReqs := []
  pageNext := 0
  onces := []
  hostFails := []
  tlbInv := none
  epUnits := []
  undone := []
  epFlaws := []
  commit := .idle
  journal := ⟨[], [], 0⟩
  replica := ⟨none, [], [], []⟩
  links := []
  tide := .init
  freeMem := []
  rerig := none
  bist := ⟨none, 0⟩
  job := ⟨false, false⟩
  sec := .init
  mgmt := .init
  power := .init
  out := []
  fresh := 0
  now := 0
  pending := []

end Sys2Proof.Machine
end

