-- ==== Sys2Proof/Machine/Structure.lean ====
section
/-! DEFINITION. Sparse maps, and what the structure in effect says of each unit: the register images of class rig (R50),
arrays (R26, R28), roles, lent heartwood, interleave, owners, ports and landings (R25-R33). -/

namespace Sys2Proof.Machine

/-- The entry of a sparse map at a key. -/
def aget {α : Type} : AList α → Nat → Option α
  | [], _ => none
  | (j, v) :: r, k => if j = k then some v else aget r k

/-- A sparse map with an entry put in its place. -/
def aput {α : Type} : AList α → Nat → α → AList α
  | [], k, v => [(k, v)]
  | (j, w) :: r, k, v => if k < j then (k, v) :: (j, w) :: r else if k = j then (k, v) :: r else (j, w) :: aput r k v

/-- A sparse map without an entry for a key. -/
def adel {α : Type} (l : AList α) (k : Nat) : AList α := l.filter (fun e => e.1 != k)

/-- What a key reads as, with the value d of an unlisted key. -/
def aread {α : Type} (d : α) (l : AList α) (k : Nat) : α := (aget l k).getD d

/-- A sparse map after a write: no entry that equals the value d of an unlisted key. -/
def awrite {α : Type} [DecidableEq α] (d : α) (l : AList α) (k : Nat) (v : α) : AList α :=
  if v = d then adel l k else aput l k v

/-- A little-endian number of n bytes at an offset of a list of bytes; missing bytes read 0 (R4). -/
def leAt (l : List Byte) (off : Nat) : Nat → Nat
  | 0 => 0
  | n + 1 => (l.getD off 0).toNat + 256 * leAt l (off + 1) n

/-- The n low bytes of a number, little-endian (R4). -/
def toLE (v : Nat) : Nat → List Byte
  | 0 => []
  | n + 1 => BitVec.ofNat 8 v :: toLE (v / 256) n

/-- A list of bytes as a little-endian number. -/
def ofLE (l : List Byte) : Nat := leAt l 0 l.length

/-- n bytes of section id of the structure in effect, at an offset, as a number. -/
def State.sectN (s : State) (id off n : Nat) : Nat := leAt (aread [] s.sects id) off n

/-- A structure is in effect (R38). -/
def State.built (s : State) : Bool := !s.sects.isEmpty

/-- The gang word of a tree in a LEAF section (R25). -/
def leafGang (leaf : List Byte) (t : Nat) : Nat := leAt leaf (t * 68) 4

/-- The block word of leaf block b of a tree in a LEAF section (R25, R27). -/
def leafBlock (leaf : List Byte) (t b : Nat) : Nat := leAt leaf (t * 68 + 4 + 4 * b) 4

/-- Field ROLE of a block word: 0 OFF, 1 MATRIX, 2 STREAM (R27). -/
def roleOf (w : Nat) : Nat := w % 4

/-- The blocks of quadrant q (R25). -/
def quadBlocks (q : Nat) : List Nat :=
  let b := 8 * (q / 2) + 2 * (q % 2)
  [b, b + 1, b + 4, b + 5]

/-- The arrays that one half of a split gang word names: shape code and blocks (R26). -/
def halfArrays (gang half : Nat) : List (Nat × List Nat) :=
  if gang >>> (2 + 2 * half) % 4 = 0 then [(1, (List.range 8).map (· + 8 * half))]
  else [2 * half, 2 * half + 1].flatMap fun q =>
    if (gang >>> (6 + q)) % 2 = 0 then [(2, quadBlocks q)] else (quadBlocks q).map fun b => (3, [b])

/-- Insert an array by its lowest block. -/
def insArray (a : Nat × List Nat) : List (Nat × List Nat) → List (Nat × List Nat)
  | [] => [a]
  | b :: r => if a.2.headD 0 ≤ b.2.headD 0 then a :: b :: r else b :: insArray a r

/-- The arrays that a gang word names, in ascending order of lowest block (R26, R28). -/
def gangArrays (gang : Nat) : List (Nat × List Nat) :=
  if gang % 4 = 0 then [(0, List.range 16)]
  else (halfArrays gang 0 ++ halfArrays gang 1).foldr insArray []

/-- The arrays of a tree: those named by its gang word whose blocks all have ROLE MATRIX, numbered upward (R28). -/
def leafArrays (leaf : List Byte) (t : Nat) : List (Nat × List Nat) :=
  (gangArrays (leafGang leaf t)).filter fun a => a.2.all fun b => roleOf (leafBlock leaf t b) = 1

/-- The LEAF section in effect. -/
def State.leaf (s : State) : List Byte := aread [] s.sects 1

/-- The role that a block acts in: a block of ROLE MATRIX whose array is not formed is held OFF (R44, R163). -/
def State.blockRole (s : State) (t b : Nat) : Nat :=
  let r := roleOf (leafBlock s.leaf t b)
  if r = 1 ∧ ¬ (leafArrays s.leaf t).any (fun a => a.2.contains b) then 0 else r

/-- The number of blocks of a tree in a role. -/
def State.roleCount (s : State) (t role : Nat) : Nat :=
  if s.built then ((List.range 16).filter fun b => s.blockRole t b = role).length else 0

/-- Stream lanes of a tree (R215); 0 while no structure is in effect. -/
def State.lanes (s : State) (t : Nat) : Nat := if s.built then 128 + 64 * s.roleCount t 2 else 0

/-- Stream length mode: 0 COUNT, 1 FIXED (R216). -/
def State.lmode (s : State) : Nat := s.sectN 2 0 1 % 2

/-- MiB of a tree's heartwood lent to its canopy (R32). -/
def State.lend (s : State) (t : Nat) : Nat := (s.sectN 3 0 16 >>> (2 * t)) % 4

/-- MiB lent by a grove's trees. -/
def State.groveLend (s : State) (g : Nat) : Nat := (List.range 8).foldl (fun n i => n + s.lend (8 * g + i)) 0

/-- Ways of a grove's canopy (R273). -/
def State.ways (s : State) (g : Nat) : Nat := 16 + s.groveLend g

/-- Near-bank interleave in bytes (R32). -/
def State.interleave (s : State) : Nat :=
  match s.sectN 4 0 1 % 4 with
  | 0 => 128
  | 1 => 512
  | _ => 4096

/-- PRATE: 0-4 (R32). -/
def State.prate (s : State) : Nat := (s.sectN 4 0 1 / 4) % 8

/-- The FARBANK word of port p: MODE [1:0], SWITCH [2], DEVICES [5:3], BASE [18:6], SIZE [31:19] (R32). -/
def State.farWord (s : State) (p : Nat) : Nat := s.sectN 5 (8 * p) 4

/-- The LANDING byte of landing l: GEN [1:0], BUNDLE [3:2], PAIR [4] (R32). -/
def State.landByte (s : State) (l : Nat) : Nat := s.sectN 6 l 1 % 32

/-- The owner of a queue (R20, R32; QCTX_STAT.OWNER). -/
def State.owner (s : State) (q : Nat) : Nat :=
  if q < 0x800 then s.sectN 7 (q / 64) 1
  else if q < 0x1800 then (q - 0x800) / 64 / 8
  else if q < 0x1C00 then 0xFF
  else s.sectN 7 (32 + (q - 0x1C00) / 64) 1

/-- The feature registers (R116): constants, and the fields of class rig from the structure in effect. -/
def State.feat (s : State) (t th k : Nat) (narrays : Nat) : Nat :=
  let rig (v : Nat) : Nat := if s.built then v else 0
  match k with
  | 0 => 0x01 + 4 <<< 8 + 4 <<< 12 + 26 <<< 20 + 0xFFF <<< 32 + 64 <<< 48 + 32 <<< 56
  | 1 => 16384 + 32 <<< 16 + 8 <<< 22 + 0x1F <<< 26 + 0xF <<< 31
  | 2 => 8 + 64 <<< 4 + 256 <<< 12 + rig (4096 - 1024 * s.lend t) <<< 21 + 32 <<< 36 + 64 <<< 42
  | 3 => 16 + 64 <<< 5 + 0x1FFF <<< 13 + s.roleCount t 1 <<< 32 + s.roleCount t 2 <<< 37 + rig narrays <<< 42
  | 4 => 128 + 32 <<< 8 + 16 <<< 16 + rig s.lmode <<< 21 + s.lanes t <<< 22
  | 5 => 57 + 52 <<< 6 + 32 <<< 12 + rig (s.lend t) <<< 18
  | 6 => t % 64 + (t / 8) <<< 6 + th <<< 10 + (t * 4 + th) <<< 16
  | _ => 1200 + 600 <<< 16 + 4 <<< 32 + 16 <<< 40

/-- The arrays of a tree with the numbers they had at the last structure load (R163). -/
def State.treeArrays (s : State) (t : Nat) : List (Nat × List Nat) := aread [] s.arrays t

/-- The bits of a register that the structure in effect decides (R50); all 0 while no structure is in effect (R38). -/
def State.rigBits (s : State) : Reg → Nat
  | .hwCfg t => s.lend t
  | .mxArray t n =>
    match (s.treeArrays t)[n]? with
    | some (sh, bl) => sh + bl.headD 0 <<< 2 + bl.foldl (fun m b => m + 1 <<< (6 + b)) 0
    | none => 0
  | .seCfg t => if s.built then s.lmode + 2 * s.lanes t else 0
  | .qctxStat q => if s.built then s.owner q <<< 24 else 0
  | .nbCfg => if s.built then s.sectN 4 0 1 % 32 else 0
  | .fbPort p => s.farWord p
  | .canCfg g => if s.built then s.ways g else 0
  | .landCfg l => s.landByte l
  | _ => 0

end Sys2Proof.Machine
end

