-- ==== Sys2Proof/Machine/Ops.lean ====
section
/-! DEFINITION. The named operations over registers and memory, the monad of the meanings, and how a meaning becomes an
outcome. -/

namespace Sys2Proof.Machine

/-- Why a thread's instruction does not complete: it raises an exception (R406), it waits and has changed nothing, or
poison would enter its tree's non-memory state (R425). -/
inductive Stop where
  | exc (vec sub : Nat) (info info2 : W64) (resumable : Bool)
  | hold (h : Hold)
  | contain (addr : Nat)
  deriving DecidableEq, Repr

/-- The monad of the meanings: a state, and an early stop that keeps what was done. -/
abbrev M := EStateM Stop State

/-- The outcome of a meaning: always a next state; a command changes nothing of the queue. -/
def runAny (m : M Unit) (s : State) : Host.Outcome State Fault Refusal :=
  match m s with
  | .ok _ t => .next { t with pending := s.pending }
  | .error _ t => .next { t with pending := s.pending }

/-- The outcome of a meaning of a module that is powered and out of module reset; otherwise every unit stands still (R469,
R472). -/
def run (m : M Unit) (s : State) : Host.Outcome State Fault Refusal :=
  if s.power.on && !s.power.held then runAny m s else .next s

/-- Do nothing. -/
def skip : M Unit := pure ()

/-- The stored value of a register, without its rig fields. -/
def State.stored (s : State) (r : Reg) : W64 := aread r.dflt s.regs r.addr

/-- A register's value: what is stored, the fields of class rig from the structure in effect, and the feature registers'
constants (R50, R116). -/
def State.reg (s : State) (r : Reg) : W64 :=
  match r with
  | .thr t th sel =>
    if 0x20 ≤ sel ∧ sel ≤ 0x27 then
      BitVec.ofNat 64 (s.feat t th (sel - 0x20)
        ((List.range 16).filter fun n => bit (s.stored (.mxArray t n)) 22).length)
    else s.stored r
  | r => s.stored r ||| BitVec.ofNat 64 (s.rigBits r)

/-- A state with a register set. -/
def State.setReg (s : State) (r : Reg) (v : W64) : State :=
  { s with regs := awrite r.dflt s.regs r.addr v }

/-- Bits [lo + n - 1 : lo] of a register, as a number. -/
def State.fld (s : State) (r : Reg) (lo n : Nat) : Nat := field (s.reg r) lo n

/-- Bit i of a register. -/
def State.flag (s : State) (r : Reg) (i : Nat) : Bool := bit (s.reg r) i

/-- A state with a register's field set. -/
def State.setFld (s : State) (r : Reg) (lo n v : Nat) : State := s.setReg r (setField (s.stored r) lo n v)

/-- A state with a field of n bits advanced by one, saturating (counters of the spec that say so). -/
def State.satFld (s : State) (r : Reg) (lo n : Nat) : State := s.setFld r lo n (satInc n (s.fld r lo n))

/-- A state with a field of n bits advanced by k, wrapping. -/
def State.addFld (s : State) (r : Reg) (lo n k : Nat) : State := s.setFld r lo n (s.fld r lo n + k)

/-- The value in effect of a register with quiescent fields (R46). -/
def State.effReg (s : State) (r : Reg) : W64 :=
  let m := fmask (r.fields.filter fun f => f.cls = .quiescent)
  match aget s.inEffect r.addr with
  | some v => (s.reg r &&& ~~~m) ||| (v &&& m)
  | none => s.reg r

/-- First address beyond the usable near bank (R13). -/
def nearEnd : Nat := 0x002D_0000_0000

/-- What an unlisted byte of memory reads as: 0 (log entry 5), or a free value where the contents were left unspecified
(R42, R443). -/
def State.blank (s : State) (a : Nat) : Byte :=
  match s.freeMem.find? fun f => f.1 ≤ a ∧ a < f.2.1 with
  | some (lo, _, p) => (Config.freeW (p + (a - lo))).setWidth 8
  | none => 0

/-- Addresses strictly rising. -/
def rising {α : Type} : AList α → Bool
  | a :: b :: r => decide (a.1 < b.1) && rising (b :: r)
  | _ => true

/-- The canonical form of memory: addresses strictly rising, and no entry equal to what an unlisted byte reads as. -/
def Memory.wf (blank : Nat → Byte) (m : List Host.Cell) : Bool := rising m && m.all fun e => e.2 != blank e.1

/-- A state's memory is in canonical form. -/
def State.memWf (s : State) : Bool := Memory.wf s.blank s.mem

/-- A state in which the bytes of [lo, hi) are unspecified. -/
def State.freeRange (s : State) (lo hi : Nat) : State :=
  { s with
    mem := s.mem.filter fun e => e.1 < lo || hi ≤ e.1
    freeMem := (lo, hi, s.fresh) :: s.freeMem
    fresh := s.fresh + (hi - lo) }

/-- The byte at a physical address. -/
def State.byte (s : State) (a : Nat) : Byte := aread (s.blank a) s.mem a

/-- A state with one byte of memory written. -/
def State.setByte (s : State) (a : Nat) (b : Byte) : State := { s with mem := awrite (s.blank a) s.mem a b }

/-- n bytes of memory from an address. -/
def State.bytes (s : State) (a n : Nat) : List Byte := (List.range n).map fun i => s.byte (a + i)

/-- n bytes of memory from an address, as a little-endian number (R4). -/
def State.le (s : State) (a n : Nat) : Nat := ofLE (s.bytes a n)

/-- A state with bytes of memory written from an address upward. -/
def State.setBytes (s : State) (a : Nat) : List Byte → State
  | [] => s
  | b :: r => (s.setByte a b).setBytes (a + 1) r

/-- Whether a line of memory reads as poisoned: stored with the poison check pattern, or found uncorrectable (R122, R257). -/
def State.linePoison (s : State) (line : Nat) : Bool := aread false s.poison line || (aread .none s.flaws line).bad

/-- A state in which a line is newly encoded, with the poison check pattern or as good data. -/
def State.setLinePoison (s : State) (line : Nat) (p : Bool) : State :=
  { s with poison := awrite false s.poison line p, flaws := awrite .none s.flaws line .none }

/-- The lines that n bytes from an address touch. -/
def linesOf (a n : Nat) : List Nat :=
  if n = 0 then [] else (List.range ((a + n - 1) / 128 - a / 128 + 1)).map (· + a / 128)

/-- Whether any of n bytes from an address lies in a poisoned line. -/
def State.poisoned (s : State) (a n : Nat) : Bool := (linesOf a n).any s.linePoison

/-- A state after a memory write: the bytes written; a line written whole holds a valid codeword, and a partial write into a
poisoned line leaves it poisoned (R122, R263). -/
def State.store (s : State) (a : Nat) (bs : List Byte) : State :=
  let s := (linesOf a bs.length).foldl
    (fun s l => if a ≤ l * 128 ∧ l * 128 + 128 ≤ a + bs.length then s.setLinePoison l false else s) s
  s.setBytes a bs

/-- The next free value (log entry 9). -/
def draw : M W64 := fun s => .ok (Config.freeW s.fresh) { s with fresh := s.fresh + 1 }

/-- Send a message. -/
def send (m : Msg) : M Unit := modify fun s => { s with out := m :: s.out }

/-- The thread's hidden state. -/
def State.thread (s : State) (k : Nat) : ThreadSt := aread .idle s.threads k

/-- A state with a thread's hidden state set. -/
def State.setThread (s : State) (k : Nat) (t : ThreadSt) : State := { s with threads := awrite .idle s.threads k t }

/-- The tree's hidden state. -/
def State.tree (s : State) (k : Nat) : TreeSt := aread .idle s.trees k

/-- A state with a tree's hidden state set. -/
def State.setTree (s : State) (k : Nat) (t : TreeSt) : State := { s with trees := awrite .idle s.trees k t }

/-- A state in which the SBWAITs of a tree whose condition holds are satisfied, and stay so (R237). -/
def State.sbLatch (s : State) (t : Nat) : State :=
  let x := s.tree t
  s.setTree t { x with sb := x.sb.map fun (e : SbEntry) => match e.work.wait with
    | some (k, v) => { e with performed := e.performed || (s.fld (.ferryDone t k) 0 32 + 2 ^ 32 - v) % 2 ^ 32 < 2 ^ 31 }
    | none => e }

/-- Read a register. -/
def rd (r : Reg) : M W64 := do return (← get).reg r

/-- Set a register. -/
def wr (r : Reg) (v : W64) : M Unit := modify fun s => s.setReg r v

/-- Read a field of a register. -/
def rdf (r : Reg) (lo n : Nat) : M Nat := do return (← get).fld r lo n

/-- Set a field of a register. -/
def wrf (r : Reg) (lo n v : Nat) : M Unit := modify fun s => s.setFld r lo n v

/-- Advance a saturating counter field. -/
def bump (r : Reg) (lo n : Nat) : M Unit := modify fun s => s.satFld r lo n

/-- Perform an action for each element of a list, in order. -/
def forAll {α : Type} : List α → (α → M Unit) → M Unit
  | [], _ => skip
  | a :: r, f => do f a; forAll r f

/-- Collect the results of an action over a list, in order. -/
def mapAll {α β : Type} : List α → (α → M β) → M (List β)
  | [], _ => pure []
  | a :: r, f => do
    let b ← f a
    let bs ← mapAll r f
    pure (b :: bs)

/-- Perform an action when a condition holds. -/
def whenM (c : Bool) (m : M Unit) : M Unit := if c then m else skip

/-- STRUCT_STATUS.STATE: 0 LOADING, 1 READY, 2 RERIG, 3 JOB. -/
def State.pstate (s : State) : Nat := s.fld .structStatus 4 4

/-- A job runs: from an accepted job start until its scrub completes (R1, R248, R460). -/
def State.jobRuns (s : State) : Bool := s.pstate = 3

end Sys2Proof.Machine
end

