-- ==== Sys2Proof/Machine/Access.lean ====
section
/-! DEFINITION. The target of a physical address (R13-R15, R261, R270), the access tables (R306-R308), and what a denial leaves in
the denial registers (R311). -/

namespace Sys2Proof

/-- The selector of a register block (R35). -/
def Blk.sel : Blk → Nat
  | .dev => 0x2000
  | .grove g => 0x2001 + g
  | .tree t => 0x2009 + t

end Sys2Proof

namespace Sys2Proof.Machine

/-- What an aligned access of a width to a block's offset names (R6). -/
inductive RegHit where
  | reg (r : Reg)
  | reserved
  | misaligned

/-- Classify an access of n bytes at an offset of a block (R6). -/
def regHit (b : Blk) (o n : Nat) : RegHit :=
  match regAt b o with
  | some r => if r.width = 8 * n ∧ o % n = 0 then .reg r else .misaligned
  | none =>
    if (n = 4 ∨ n = 8) ∧ o % n = 0 ∧ (regCovering b o).isNone ∧ (regCovering b (o + n - 4)).isNone then .reserved
    else .misaligned

/-- First address of the heartwood windows (R13). -/
def heartBase : Nat := 0x00F0_0000_0000

/-- First address of the far-bank window (R13). -/
def farBase : Nat := 0x0100_0000_0000

/-- First address of the host window (R13). -/
def hostBase : Nat := 0x1000_0000_0000

/-- First address of tree t's heartwood window (R13). -/
def heartOf (t : Nat) : Nat := heartBase + t * 0x40_0000

/-- An address lies in the near bank. -/
def inNear (a : Nat) : Bool := a < nearEnd

/-- An address lies in the host window. -/
def inHost (a : Nat) : Bool := hostBase ≤ a && a < 2 ^ 52

/-- An address lies in the far-bank window. -/
def inFar (a : Nat) : Bool := farBase ≤ a && a < 0x0900_0000_0000

/-- The near-bank channel, row and slot of an address (R261). -/
def State.nearLoc (s : State) (a : Nat) : Nat × Nat × Nat :=
  let g := s.interleave
  let k := a / g
  let j := ((k / 48) * g + a % g) / 128
  (k % 48, j / 15, j % 15)

/-- The address of a near-bank channel, row and slot: the inverse of R261. -/
def State.nearAddr (s : State) (c row slot : Nat) : Nat :=
  let g := s.interleave
  let off := (row * 15 + slot) * 128
  ((off / g) * 48 + c) * g + off % g

/-- The far-bank port of an address and its offset in the port, where the port's range covers it (R270). -/
def State.farLoc (s : State) (a : Nat) : Option (Nat × Nat) :=
  let f := a - farBase
  (List.range 4).findSome? fun p =>
    let w := s.farWord p
    let b := (w / 2 ^ 6) % 2 ^ 13
    let z := (w / 2 ^ 19) % 2 ^ 13
    if inFar a ∧ w % 4 ≠ 0 ∧ b ≤ f / 2 ^ 30 ∧ f / 2 ^ 30 < b + z then some (p, f - b * 2 ^ 30) else none

/-- What an address names: nothing (R14), the host window, or a target by its selector (R35). -/
inductive Tgt where
  | none
  | host
  | sel (n : Nat)
  deriving DecidableEq, Repr

/-- The target of a physical address (R13, R14, R15, R270). -/
def State.target (s : State) (a : Nat) : Tgt :=
  if inNear a then .sel ((s.nearLoc a).1 / 6)
  else if heartBase ≤ a ∧ a < heartOf 64 then
    let t := (a - heartBase) / 0x40_0000
    if (a - heartOf t) < 0x40_0000 - s.lend t * 0x10_0000 then .sel (0x1000 + t) else .none
  else if inHost a then .host
  else if inFar a then
    match s.farLoc a with
    | some (p, o) => if o < s.fld (.fbPort p) 38 15 * 2 ^ 28 then .sel (0x3000 + p) else .none
    | none => .none
  else
    match blkOfAddr a with
    | some .dev => .sel 0x2000
    | some (.grove g) => .sel (0x2001 + g)
    | some (.tree t) => .sel (0x2009 + t)
    | none => .none

/-- The block and the table number that hold a target's rules (R306). -/
def tableOf (sel : Nat) : Blk × Nat :=
  let i := sel % 0x1000
  match sel / 0x1000 with
  | 0 => (.grove ⟨i % 8, Nat.mod_lt _ (by decide)⟩, 0)
  | 1 => (.tree ⟨i % 64, Nat.mod_lt _ (by decide)⟩, 0)
  | 2 =>
    if i = 0 then (.dev, 0)
    else if i < 9 then (.grove ⟨(i - 1) % 8, Nat.mod_lt _ (by decide)⟩, 1)
    else (.tree ⟨(i - 9) % 64, Nat.mod_lt _ (by decide)⟩, 1)
  | 3 => (.dev, 1 + i)
  | _ => (.dev, 5 + i)

/-- The group of a master (R306). -/
def State.group (s : State) (master : Nat) : Nat := s.fld (.accGroup (master / 8)) (master % 8 * 8) 8

/-- R308 over rules i upward: the cause of a denial, or none for a grant. -/
def aclScan (s : State) (b : Blk) (k group : Nat) (world write : Bool) (first last : Nat) : Nat → Nat → Option Nat
  | 0, _ => some 1
  | n + 1, i =>
    let w0 := (s.reg (.accRule b k i 0)).toNat
    let w1 := (s.reg (.accRule b k i 1)).toNat
    let limit := w1 % 2 ^ 52
    if w1 / 2 ^ 63 = 0 ∨ first < w0 ∨ limit < first then aclScan s b k group world write first last n (i + 1)
    else if limit < last then some 3
    else
      let r := if world then .accRule b k i 3 else .accRule b k i 2
      if bit (s.reg r) ((if write then 32 else 0) + group) then none else some 2

/-- The evaluation of a target's table for one direction (R308). -/
def State.aclDir (s : State) (sel : Nat) (r : Req) (write : Bool) (first last : Nat) : Option Nat :=
  let g := s.group r.master.toNat
  if 32 ≤ g then some 4
  else
    let (b, k) := tableOf sel
    aclScan s b k g r.world write first last 64 0

/-- Kind of an access. -/
inductive Acc where
  | rd | wr | atomic
  deriving DecidableEq, Repr

/-- Whether an access writes. -/
def Acc.writes : Acc → Bool
  | .rd => false
  | _ => true

/-- The table check of one target: an atomic must pass as a read and as a write (R308); the boot processor is not checked
(R306). -/
def State.aclSel (s : State) (sel : Nat) (r : Req) (k : Acc) (first last : Nat) : Option Nat :=
  if r.master = 0x180 then none
  else
    match (if k = .wr then none else s.aclDir sel r false first last) with
    | some c => some c
    | none => if k = .rd then none else s.aclDir sel r true first last

/-- An access to n bytes at an address breaks the width rule of registers (R6). -/
def regBreaks (a n : Nat) : Bool :=
  match blkOfAddr a with
  | some b => (match regHit b (a - b.base) n with | .misaligned => true | _ => false)
  | none => false

/-- The host and management reach register blocks while no structure is in effect, when the blocks hold no tables yet: BAR0 and
the management buses stay available (R394, R448; log entry 16). -/
def State.beforeTables (s : State) (r : Req) (sel : Nat) : Bool :=
  sel / 0x1000 = 2 && !s.built && (r.master = 0x140 || r.master = 0x160)

/-- Why an access to n bytes at an address is denied, and the target selector reported; none for a grant. A register access that
breaks R6 is denied as MISALIGNED whoever makes it. -/
def State.denial (s : State) (r : Req) (k : Acc) (a n : Nat) : Option (Nat × Nat) :=
  match s.target a with
  | .none => some (5, 0xFFFF)
  | .host => none
  | .sel t =>
    if regBreaks a n then some (6, t)
    else if s.beforeTables r t then none
    else (s.aclSel t r k a (a + n - 1)).map fun c => (c, t)

/-- An incident or event on its way (R434, R244). -/
inductive Note where
  | incident (cls sev code unit : Nat) (d0 d1 d2 : W64) (secondary : Bool) (primary : Nat)
  | event (e src code : Nat) (lo hi : W64)
  deriving DecidableEq, Repr

/-- Update of ACC_DENY_LAST and ACC_DENY_ADDR (R311). -/
def State.denyLog (s : State) (r : Req) (write : Bool) (a sel cause : Nat) : State :=
  let count := satInc 32 (s.fld .accDenyLast 32 32)
  let s := s.setReg .accDenyLast (BitVec.ofNat 64
    (r.master.toNat + b2n r.world <<< 10 + b2n write <<< 11 + sel <<< 12 + cause <<< 28 + count <<< 32))
  s.setReg .accDenyAddr (BitVec.ofNat 64 (a % 2 ^ 52))

/-- A unit's UNIT word (Table: Unit kinds). -/
def unitWord (kind idx : Nat) : Nat := kind <<< 24 + idx

/-- The ACCESS record of a denial (R311). -/
def denyNote (s : State) (r : Req) (a cause : Nat) : Note :=
  .incident 0x09 0 cause (unitWord 10 r.master.toNat) (BitVec.ofNat 64 a) (s.reg .accDenyLast) 0 false 0xFFFF_FFFF

end Sys2Proof.Machine
end

