-- ==== Sys2Proof/Machine/Lines.lean ====
section
/-! DEFINITION. The codes RS(136,128), over GF(2^8) for stored lines and over GF(2^10) for the landings: field, generator and
encoder, the syndrome of an error pattern, and the decoder with a line's poison hypothesis and erasures (R256, R257, R363,
R426). -/

namespace Sys2Proof.Machine

/-- A field GF(2^w) of a code RS(136,128): w, and the field polynomial. -/
structure Gf where
  w : Nat
  poly : Nat
  deriving DecidableEq, Repr

/-- GF(2^8) of the line code, by x^8 + x^4 + x^3 + x^2 + 1 (R256). -/
def lineGf : Gf := ⟨8, 0x11D⟩

/-- GF(2^10) of the landings, by x^10 + x^3 + 1 (R363). -/
def linkGf : Gf := ⟨10, 0x409⟩

/-- A field element times x. -/
def gfX (F : Gf) (a : Nat) : Nat := if a < 2 ^ (F.w - 1) then 2 * a else (2 * a) ^^^ F.poly

/-- The product of two field elements. -/
def gfMul (F : Gf) (a b : Nat) : Nat :=
  ((List.range F.w).foldl (fun (e : Nat × Nat) i => (if b.testBit i then e.1 ^^^ e.2 else e.1, gfX F e.2)) (0, a)).1

/-- A power of a field element. -/
def gfPow (F : Gf) (a : Nat) : Nat → Nat
  | 0 => 1
  | n + 1 => gfMul F a (gfPow F a n)

/-- The inverse of a field element other than 0: the product of its squares of squares, a^2 a^4 … a^(2^(w-1)). -/
def gfInv (F : Gf) (a : Nat) : Nat :=
  ((List.range (F.w - 1)).foldl (fun (e : Nat × Nat) _ => let q := gfMul F e.2 e.2; (gfMul F e.1 q, q)) (1, a)).1

/-- A power of the primitive element 0x02 (R256, R363). -/
def gfAlpha (F : Gf) : Nat → Nat
  | 0 => 1
  | n + 1 => gfX F (gfAlpha F n)

/-- The sum of two polynomials, lowest coefficient first. -/
def gpAdd : List Nat → List Nat → List Nat
  | [], q => q
  | p, [] => p
  | a :: p, b :: q => (a ^^^ b) :: gpAdd p q

/-- A polynomial times a field element. -/
def gpScale (F : Gf) (c : Nat) (p : List Nat) : List Nat := p.map (gfMul F c)

/-- The product of two polynomials. -/
def gpMul (F : Gf) : List Nat → List Nat → List Nat
  | [], _ => []
  | a :: p, q => gpAdd (gpScale F a q) (0 :: gpMul F p q)

/-- The value of a polynomial. -/
def gpEval (F : Gf) (p : List Nat) (x : Nat) : Nat := p.foldr (fun c r => c ^^^ gfMul F x r) 0

/-- The formal derivative of a polynomial: its odd coefficients, one place lower. -/
def gpDeriv (p : List Nat) : List Nat := (List.range (p.length - 1)).map fun i => if i % 2 = 0 then p.getD (i + 1) 0 else 0

/-- The generator (x - α^0) … (x - α^7) (R256, R363). -/
def rsGen (F : Gf) : List Nat := (List.range 8).foldl (fun g i => gpMul F g [gfAlpha F i, 1]) [1]

/-- One data symbol enters the encoder, whose register holds the remainder, highest coefficient first. -/
def rsStep (F : Gf) (g r : List Nat) (d : Nat) : List Nat :=
  let f := d ^^^ r.headD 0
  (List.range 8).map fun i => r.getD (i + 1) 0 ^^^ gfMul F f (g.getD (7 - i) 0)

/-- The check symbols c0 to c7 of data symbols d0 upward (R256, R363). -/
def rsCheck (F : Gf) (d : List Nat) : List Nat := d.foldl (rsStep F (rsGen F)) (List.replicate 8 0)

/-- The value that an error pattern holds at a symbol: 0 to 127 are the data symbols, 128 to 135 the check symbols. -/
def errAt (e : List (Nat × Nat)) (p : Nat) : Nat := e.foldl (fun v x => if x.1 = p then v ^^^ x.2 else v) 0

/-- The sum of two error patterns: rising symbols, no zero. -/
def errMix (a b : List (Nat × Nat)) : List (Nat × Nat) :=
  (List.range 136).filterMap fun p =>
    let v := errAt a p ^^^ errAt b p
    if v = 0 then none else some (p, v)

/-- The locator of a symbol: symbol p is the coefficient of x^(135-p). -/
def rsLoc (F : Gf) (p : Nat) : Nat := gfAlpha F (135 - p)

/-- The syndrome of an error pattern: its value at α^0 to α^7. -/
def rsSyn (F : Gf) (e : List (Nat × Nat)) : List Nat :=
  (List.range 8).map fun j => e.foldl (fun v x => v ^^^ gfMul F x.2 (gfPow F (rsLoc F x.1) j)) 0

/-- The poison check pattern: every check byte XORed with 0x5A (R257). -/
def rsPoison : List (Nat × Nat) := (List.range 8).map fun i => (128 + i, 0x5A)

/-- Berlekamp and Massey's register: connection polynomial, length, and those before its last change of length. -/
structure Lfsr where
  c : List Nat
  l : Nat
  b : List Nat
  m : Nat
  d : Nat
  deriving DecidableEq, Repr

/-- One syndrome enters the register. -/
def Lfsr.step (F : Gf) (s : List Nat) (r : Lfsr) (n : Nat) : Lfsr :=
  let d := (List.range (r.l + 1)).foldl (fun v i => v ^^^ gfMul F (r.c.getD i 0) (s.getD (n - i) 0)) 0
  let c := gpAdd r.c (gpScale F (gfMul F d (gfInv F r.d)) (List.replicate r.m 0 ++ r.b))
  if d = 0 then { r with m := r.m + 1 }
  else if 2 * r.l ≤ n then ⟨c, n + 1 - r.l, r.c, 1, d⟩
  else { r with c := c, m := r.m + 1 }

/-- The pattern of at most t symbol errors beside some erased symbols that has a syndrome, if there is one: error locator by
Berlekamp and Massey over the erasures' syndromes, roots by search, values by Forney (R256, R363, R426). -/
def rsFind (F : Gf) (s : List Nat) (erased : List Nat) (t : Nat) : Option (List (Nat × Nat)) :=
  if s.all fun v => v == 0 then some []
  else
    let f := erased.length
    let g := erased.foldl (fun p q => gpMul F p [1, rsLoc F q]) [1]
    let r := (List.range (8 - f)).foldl (Lfsr.step F (((gpMul F s g).take 8).drop f)) ⟨[1], 0, [1], 1, 1⟩
    let roots := (List.range 136).filter fun p => !erased.contains p && gpEval F r.c (gfInv F (rsLoc F p)) == 0
    if r.l ≤ min t ((8 - f) / 2) ∧ roots.length = r.l then
      let y := gpMul F r.c g
      let o := (gpMul F s y).take 8
      let e := errMix [] ((erased ++ roots).map fun p =>
        let x := gfInv F (rsLoc F p)
        (p, gfMul F (rsLoc F p) (gfMul F (gpEval F o x) (gfInv F (gpEval F (gpDeriv y) x)))))
      if rsSyn F e = s then some e else none
    else none

/-- What a decoder makes of a line (R257): good data or poison, with the symbol errors it removes, or uncorrectable. -/
inductive Verdict where
  | good (fix : List (Nat × Nat))
  | poison (fix : List (Nat × Nat))
  | bad
  deriving DecidableEq, Repr

/-- Decode a line by its deviation from a codeword, given whether it is stored with the poison check pattern: the poison
hypothesis comes first, with at most 2 symbol errors and no erasures (log entry 146), then the ordinary code (R256, R257). -/
def judgeLine (poison : Bool) (e : List (Nat × Nat)) (erased : List Nat) : Verdict :=
  let d := errMix e (if poison then rsPoison else [])
  match rsFind lineGf (rsSyn lineGf (errMix d rsPoison)) [] 2 with
  | some f => .poison f
  | none =>
    match rsFind lineGf (rsSyn lineGf d) erased 4 with
    | some f => .good f
    | none => .bad

end Sys2Proof.Machine
end

