-- ==== Sys2Proof/Machine/Stored.lean ====
section
/-! DEFINITION. Lines where they are stored: the controllers of the near-bank channels and the banks of the heartwoods with their
codewords and symbol errors, rows and check lines, corrections and poison; the far-bank ports and the host port; recoveries in
progress; and what a failing channel leads to (R121, R122, R256-R272, R390, R424-R432, R439). These operations lie below the
error collector, whose own writes they carry, so that they hand on what they raise instead of raising it. -/

namespace Sys2Proof.Machine

/-- The monad of these operations: a state, and what they raise, in order. -/
abbrev N := StateM (State × List Note)

/-- The state. -/
def nGet : N State := fun p => (p.1, p)

/-- Change the state. -/
def nSet (f : State → State) : N Unit := fun p => ((), f p.1, p.2)

/-- Hand on an incident or event. -/
def nNote (f : State → Note) : N Unit := fun p => ((), p.1, p.2 ++ [f p.1])

/-- Do nothing. -/
def nSkip : N Unit := pure ()

/-- Perform an action when a condition holds. -/
def nWhen (c : Bool) (m : N Unit) : N Unit := if c then m else nSkip

/-- Perform an action for each element of a list, in order. -/
def nEach {α : Type} : List α → (α → N Unit) → N Unit
  | [], _ => nSkip
  | a :: r, f => do f a; nEach r f

/-- The index of the record of a recovery that is in progress in a domain (R439); 0xFFFF_FFFF while it has none. -/
def State.handling (s : State) (d : Dom) : Option Nat :=
  (s.handled.find? fun h => h.dom = d && (match h.until_ with | some u => decide (s.now < u) | none => true)).map
    fun h => h.primary.getD 0xFFFF_FFFF

/-- A state in which a domain's recovery is in progress, reported by a record of a class, code and unit; it ends in a cycle of
TIDE_REF, or at an event (R439). A recovery that is in progress goes on. -/
def State.handle (s : State) (d : Dom) (cls code unit : Nat) (until_ : Option Nat) : State :=
  let old := s.handled.filter fun h => match h.until_ with | some u => decide (s.now < u) | none => true
  if (old.any fun h => h.dom = d) || until_ == some s.now then { s with handled := old }
  else { s with handled := old ++ [⟨d, cls, code, unit, none, until_⟩] }

/-- A state in which the recovery that is in progress in a domain ends in a cycle of TIDE_REF, or at an event. -/
def State.handledUntil (s : State) (d : Dom) (u : Option Nat) : State :=
  { s with handled := s.handled.map fun h => if h.dom = d then { h with until_ := u } else h }

/-- A state in which a domain's recovery has ended. -/
def State.endHandling (s : State) (d : Dom) : State := { s with handled := s.handled.filter fun h => h.dom != d }

/-- Hand on an incident record: secondary in a domain that is being handled (R434, R439). DETAIL1 is what a register holds. -/
def nReport (d : Option Dom) (cls sev code unit : Nat) (d0 : W64) (r : Reg) : N Unit :=
  nNote fun s =>
    let p := d.bind s.handling
    .incident cls sev code unit d0 (s.reg r) 0 p.isSome (p.getD 0xFFFF_FFFF)

/-- RECOV_STAT after a recovery of a class that took some µs (R424). -/
def State.recovery (s : State) (cls us : Nat) : State :=
  let m := max (s.fld .recovStat 24 16) us
  let c := satInc 24 (s.fld .recovStat 40 24)
  s.setReg .recovStat (BitVec.ofNat 64 (cls + us <<< 8 + m <<< 24 + c <<< 40))

/-- The duration of a recovery in µs: a free value within its bound (R424; log entry 20). -/
def State.someUs (s : State) (bound : Nat) : Nat := (Config.freeW s.fresh).toNat % (bound + 1)

/-- The recovery of a domain, whose fault a record of a class, code and unit reports, takes at most some µs (R424, R439). -/
def nRecover (d : Dom) (bound cls code unit : Nat) : N Unit := nSet fun s =>
  let us := s.someUs bound
  ({ s with fresh := s.fresh + 1 }.recovery cls us).handle d cls code unit (some (s.now + 100 * us))

/-- A fault of a class that the part survives: its record, and the recovery of its domain. -/
def nSurvive (d : Dom) (bound cls sev code unit : Nat) (d0 : W64) (r : Reg) : N Unit := do
  nReport (some d) cls sev code unit d0 r
  nRecover d bound cls code unit

/-- STATE of a queue: 0 stopped, 1 running, 2 held for tide start. -/
def State.qState (s : State) (q : Nat) : Nat := s.fld (.qctxBase q) 56 2

/-- QCTX_BASE of a queue with the BASE, LOG2N and WORLD in effect: those written while STATE is not 0 wait until it is
(R240). -/
def State.qctx (s : State) (q : Nat) : W64 :=
  let v := s.reg (.qctxBase q)
  match aget s.inEffect (Reg.qctxBase q).addr with
  | some e => setField (setField v 12 44 (field e 12 44)) 58 1 (field e 58 1)
  | none => v

/-- The world of a queue (R19). -/
def State.qWorld (s : State) (q : Nat) : Bool := bit (s.qctx q) 58

/-- Queues that are not stopped, in ascending order. -/
def State.liveQueues (s : State) : List Nat :=
  s.regs.filterMap fun e =>
    if devBase + 0x10_0000 ≤ e.1 ∧ e.1 < devBase + 0x14_0000 ∧ (e.1 - devBase) % 0x20 = 0 ∧ field e.2 56 2 ≠ 0 then
      some ((e.1 - devBase - 0x10_0000) / 0x20)
    else none

/-- A state in which a register's shadow values are in effect (R46). -/
def State.inForce (s : State) (r : Reg) : State := { s with inEffect := adel s.inEffect r.addr }

/-- A state with STATE of a queue set; at 0 the BASE, LOG2N and WORLD written meanwhile take effect (R240). -/
def State.setQState (s : State) (q n : Nat) : State :=
  let t := s.setFld (.qctxBase q) 56 2 n
  if n = 0 then t.inForce (.qctxBase q) else t

/-- A state in which JSTATE is LOST (R340): nothing of the journal is sent or awaited any more, the next record takes the number of the
oldest one that was not answered (log entry 162), and a commit that waited for the partner has lost it. -/
def State.loseJournal (s : State) : State :=
  { s.setFld .epStatus 37 2 2 with
    journal := ⟨[], [], ((s.journal.unacked ++ s.journal.queue).head?.map (·.num)).getD s.journal.next⟩
    links := s.links.map fun e => (e.1, { e.2 with jnl := [] })
    commit := if s.commit.step = 4 then { s.commit with lost := true } else s.commit }

/-- The part withdraws on a fatal fault (R432), which also stops a scrub (R461). It already is withdrawn after an earlier
one. -/
def nWithdraw (d : Option Dom) (cls code unit : Nat) (d0 : W64) (r : Reg) : N Unit := do
  nReport d cls 4 code unit d0 r
  nSet fun s =>
    if s.flag .partState 0 then s
    else
      let s := s.setReg .partState (BitVec.ofNat 64 (1 + cls <<< 8 + code <<< 16))
      let s := (s.liveQueues.filter fun q => 0x800 ≤ q && q < 0x1C00 && !s.qWorld q).foldl (fun s q => s.setQState q 0) s
      s.loseJournal.setFld .scrubStatus 0 1 0

/-- NB_HEALTH of a channel. -/
def nbHealthOf (c : Nat) : Reg := .nbHealth (c / 6) (c % 6)

/-- NB_ERR of a channel. -/
def nbErrOf (c : Nat) : Reg := .nbErr (c / 6) (c % 6)

/-- Channel c fails (R426). -/
def nFailChannel (c : Nat) : N Unit := do
  nSet fun s => s.setFld (nbHealthOf c) 7 1 1
  nWithdraw (some (.channel c)) 0x05 7 (unitWord 5 c) 0 (nbErrOf c)

/-- A correction with a pin: the sixteenth in 100 µs marks the pin failed; a second failed pin fails the channel (R426, R440). -/
def nPin (c pin : Nat) : N Unit := do
  let s ← nGet
  if s.flag (nbHealthOf c) 6 ∧ s.fld (nbHealthOf c) 0 6 = pin then nSkip
  else
    let k := c * 32 + pin
    let ts := s.now :: (aread [] s.pins k).filter fun u => s.now < u + 10000
    if ts.length < 16 then nSet fun s => { s with pins := awrite [] s.pins k ts }
    else
      nSet fun s => { s with pins := awrite [] s.pins k [] }
      if s.flag (nbHealthOf c) 6 then nFailChannel c
      else
        nSet fun s => (s.setFld (nbHealthOf c) 0 6 pin).setFld (nbHealthOf c) 6 1 1
        nSurvive (.channel c) 10 0x05 2 6 (unitWord 5 c) 0 (nbErrOf c)

/-- NB_LAST of a channel. -/
def State.noteLast (s : State) (c row slot : Nat) (ue : Bool) : State :=
  s.setReg (.nbLast (c / 6) (c % 6)) (BitVec.ofNat 64 (row + slot <<< 21 + b2n ue <<< 25))

/-- The last heartwood event (HW_ERR). -/
def State.noteHw (s : State) (t bank row : Nat) (ue : Bool) : State :=
  (((s.satFld (.hwErr t) (if ue then 16 else 0) 16).setFld (.hwErr t) 32 5 bank).setFld (.hwErr t) 37 10 row).setFld
    (.hwErr t) 47 1 (b2n ue)

/-- What a line's stored codeword deviates by from the one that its bytes and its poison mark call for. -/
def State.lineFlaw (s : State) (l : Nat) : LineFlaw := aread .none s.flaws l

/-- A state with the deviation of a line set. -/
def State.setFlaw (s : State) (l : Nat) (f : LineFlaw) : State := { s with flaws := awrite .none s.flaws l f }

/-- A state in which symbol errors have come about in a stored line. -/
def State.strike (s : State) (l : Nat) (e : List (Nat × Nat)) : State :=
  s.setFlaw l { s.lineFlaw l with errs := errMix (s.lineFlaw l).errs e }

/-- A state with an error pattern's data symbols added into the bytes of a line. -/
def State.xorLine (s : State) (l : Nat) (e : List (Nat × Nat)) : State :=
  e.foldl (fun s x => if x.1 < 128 then s.setByte (l * 128 + x.1) (s.byte (l * 128 + x.1) ^^^ BitVec.ofNat 8 x.2) else s) s

/-- The part of an error pattern that lies in check bytes, once the data bytes are taken as they are stored. -/
def checkErrs (e : List (Nat × Nat)) : List (Nat × Nat) :=
  let c := rsCheck lineGf ((List.range 128).map fun p => errAt e p)
  errMix (e.filter fun x => 128 ≤ x.1) ((List.range 8).map fun i => (128 + i, c.getD i 0))

/-- A state in which a line is read as its decoder makes of it: its bytes are the decoded ones, or those stored where nothing
decodes, and its deviation is what is left. The stored codeword is the same. -/
def State.judged (s : State) (l : Nat) (e : List (Nat × Nat)) : Verdict → State
  | .good f => { (s.xorLine l (errMix e f)).setFlaw l ⟨f, false⟩ with poison := awrite false s.poison l false }
  | .poison f => { (s.xorLine l (errMix e f)).setFlaw l ⟨f, false⟩ with poison := awrite false s.poison l true }
  | .bad => (s.xorLine l e).setFlaw l ⟨checkErrs e, true⟩

/-- The symbols of a line of a channel that a failed pin carries: 4 bytes of the slot, and with them those check bytes of the
slot that lie in the pin's bytes of the check line (R426; log entry 133). -/
def pinSymbols (pin slot : Nat) : List Nat :=
  (List.range 4).map (4 * pin + ·) ++ (if slot = pin / 2 then (List.range 4).map (128 + 4 * (pin % 2) + ·) else [])

/-- The pin that carries a symbol of a line in a slot. -/
def pinOf (slot sym : Nat) : Nat := if sym < 128 then sym / 4 else (8 * slot + (sym - 128)) / 4

/-- The symbols that a channel decodes as erasures: those of its failed pin (R426). -/
def State.erased (s : State) (c slot : Nat) : List Nat :=
  if s.flag (nbHealthOf c) 6 then pinSymbols (s.fld (nbHealthOf c) 0 6) slot else []

/-- The row tag of row r: r, and the CRC32C of its bytes (R260). -/
def rowTag (r : Nat) : BitVec 64 := BitVec.ofNat 64 (r + crc32c 0 (toLE r 4) <<< 32)

/-- The row tag that the check line of a row of a channel holds. -/
def State.storedTag (s : State) (c row : Nat) : BitVec 64 := rowTag row ^^^ aread 0 s.badTags (c * 2 ^ 21 + row)

/-- A row tag names its row and its CRC32C matches (R260). -/
def tagOk (row : Nat) (t : BitVec 64) : Bool := field t 0 32 == row && field t 32 32 == crc32c 0 (toLE (field t 0 32) 4)

/-- The place of the bank of a row among the check-line buffers. -/
def rowBank (c row : Nat) : Nat := c * 16 + row % 16

/-- The buffer that holds the check line of a row. -/
def State.buffered (s : State) (c row : Nat) : Option OpenRow :=
  (aget s.openRows (rowBank c row)).filter fun o => o.row = row

/-- A state in which a row tag of a channel takes an error. -/
def State.strikeTag (s : State) (c row : Nat) (x : BitVec 64) : State :=
  { s with badTags := awrite 0 s.badTags (c * 2 ^ 21 + row) (aread 0 s.badTags (c * 2 ^ 21 + row) ^^^ x) }

/-- A state in which a row of a channel is closed: its check line is written back where a check byte has changed, and covers what
came about in the device meanwhile (R262). -/
def State.closeRow (s : State) (c : Nat) (o : OpenRow) : State :=
  if o.changed then s
  else (o.late.foldl (fun s x => s.strike (s.nearAddr c o.row x.1 / 128) [x.2]) s).strikeTag c o.row o.lateTag

/-- A controller opens a row: it reads the row's check line into the buffer of the row's bank, once the row before it is closed,
and checks the row tag; true when it matched at that read (R260, R262; log entry 134). -/
def nOpenRow (c row : Nat) : N Bool := do
  let s ← nGet
  match s.buffered c row with
  | some o => return o.ok
  | none =>
    nSet fun s => match aget s.openRows (rowBank c row) with
      | some o => s.closeRow c o
      | none => s
    let s ← nGet
    let ok := aread 0 s.badTags (c * 2 ^ 21 + row) == 0 || tagOk row (s.storedTag c row)
    nSet fun s => { s with openRows := aput s.openRows (rowBank c row) ⟨row, ok, false, [], 0⟩ }
    if ok then return true
    else
      nSet fun s => (s.setFld (nbErrOf c) 56 1 1).noteLast c row 15 true
      nReport (some (.channel c)) 0x05 2 3 (unitWord 5 c) 0 (nbErrOf c)
      return false

/-- A state in which check bytes of a row have changed in its buffer (R262). -/
def State.changeRow (s : State) (c row : Nat) : State :=
  match s.buffered c row with
  | some o => { s with openRows := aput s.openRows (rowBank c row) { o with changed := true } }
  | none => s

/-- A channel counts and reports a line that cannot be corrected (R266). -/
def nNearUE (c row slot l : Nat) : N Unit := do
  nSet fun s => (s.noteLast c row slot true).satFld (nbErrOf c) 16 16
  nReport (some (.channel c)) 0x05 2 2 (unitWord 5 c) (BitVec.ofNat 64 (l * 128)) (nbErrOf c)

/-- A near-bank controller reads a line; true when it forwards it marked poisoned. Poison stays as stored; a correctable line is
corrected, written back and counted by its pins; any other line, and every line of a row whose tag does not match, is counted
and reported (R257, R260, R266, R426). -/
def nNearLine (l : Nat) : N Bool := do
  let s ← nGet
  let (c, row, slot) := s.nearLoc (l * 128)
  if s.flag (nbHealthOf c) 7 then return true
  else
    let ok ← nOpenRow c row
    let s ← nGet
    let e := (s.lineFlaw l).errs
    if ¬ ok then
      nNearUE c row slot l
      return true
    else if e.isEmpty then return s.linePoison l
    else
      let v := judgeLine (aread false s.poison l) e (s.erased c slot)
      nSet fun s => s.judged l e v
      match v with
      | .poison _ => return true
      | .bad =>
        nNearUE c row slot l
        return true
      | .good f =>
        nSet fun s => (((if f.any fun x => 128 ≤ x.1 then s.changeRow c row else s).setFlaw l .none).noteLast c row slot
          false).satFld (nbErrOf c) 0 16
        nSurvive (.channel c) 0 0x05 1 1 (unitWord 5 c) (BitVec.ofNat 64 (l * 128)) (nbErrOf c)
        nEach ((f.map fun x => pinOf slot x.1).eraseDups) (nPin c)
        return false

/-- The tree, bank and bank row of a heartwood line (R118). -/
def heartLoc (l : Nat) : Nat × Nat × Nat :=
  let h := l - heartBase / 128
  (h / 32768, h % 32, h % 32768 / 32)

/-- A heartwood bank decodes a line; true when it delivers it marked poisoned. A corrected codeword waits for its write-back, and
a line that cannot be corrected waits for its remap there, with whether the bank was copying into a spare (R121, R122, R427,
R440; log entry 135). -/
def nHeartLine (l : Nat) : N Bool := do
  let s ← nGet
  let (t, bank, row) := heartLoc l
  let e := (s.lineFlaw l).errs
  if e.isEmpty then return s.linePoison l
  else
    let v := judgeLine (aread false s.poison l) e []
    nSet fun s => s.judged l e v
    match v with
    | .poison _ => return true
    | v =>
      let ue : Bool := decide (v = .bad)
      nSet fun s => (s.noteHw t bank row ue).setTree t { s.tree t with
        writebacks := (s.tree t).writebacks.filter (fun e => e.1 != bank || e.2.1 != row) ++
          [(bank, row, (s.handling (.bank t bank)).isSome)] }
      let d0 := BitVec.ofNat 64 (l * 128)
      if ue then nReport (some (.bank t bank)) 0x04 2 2 (unitWord 2 t) d0 (.hwErr t)
      else nSurvive (.bank t bank) 0 0x04 1 1 (unitWord 2 t) d0 (.hwErr t)
      return ue

/-- A line is decoded where it is stored; true when it is delivered marked poisoned. -/
def nStoredLine (l : Nat) : N Bool := do
  if inNear (l * 128) then nNearLine l
  else if heartBase ≤ l * 128 ∧ l * 128 < heartOf 64 then nHeartLine l
  else return (← nGet).linePoison l

/-- The bytes of a stored codeword as they decode where they are used, and whether they are poisoned; nothing is counted: a whole
line passes through a heartwood's trunk port as stored (R121, R258). -/
def State.codeword (s : State) (l : Nat) : List Byte × Bool :=
  let e := (s.lineFlaw l).errs
  if e.isEmpty then (s.bytes (l * 128) 128, s.linePoison l)
  else
    let v := judgeLine (aread false s.poison l) e []
    ((s.judged l e v).bytes (l * 128) 128, match v with | .good _ => false | _ => true)

/-- A state in which bytes of one line are written, and the line is encoded anew, with the poison check pattern or as good
data. -/
def State.putLine (s : State) (a : Nat) (bs : List Byte) (p : Bool) : State := (s.setBytes a bs).setLinePoison (a / 128) p

/-- A write of bytes of one line reaches the place where the line is stored, with whether they are poisoned: into the check line of
its row for the near bank (R262), and over the decoded line for a partial write, which leaves a poisoned or uncorrectable line
poisoned (R122, R263). -/
def nStoreLine (a : Nat) (bs : List Byte) (p : Bool) : N Unit := do
  let l := a / 128
  let (c, row, _) := (← nGet).nearLoc a
  nWhen (inNear a) (do
    let _ ← nOpenRow c row
    nSkip)
  let old ← (if bs.length < 128 then nStoredLine l else pure false)
  nSet fun s =>
    let t := s.putLine a bs (p || old)
    if inNear a then t.changeRow c row else t

/-- The host link is up and the function may master it (R390). -/
def State.hostUp (s : State) : Bool := s.fld .pciestat 0 3 != 0 && !s.pcie.inReset

/-- A far-bank port's link is up (R272). -/
def State.portUp (s : State) (p : Nat) : Bool := s.fld (.fbPort p) 32 3 = 2

/-- A host-window request ends under R390: counted, and reported with CODE 1 or 2. -/
def nHostEnd (a code : Nat) : N Unit := do
  nSet fun s => s.satFld .pciestat 32 16
  nReport none 0x0E 2 code (unitWord 0 0) (BitVec.ofNat 64 a) .pciestat

/-- A request that a far-bank port ends (R272). -/
def nPortEnd (p a : Nat) : N Unit := do
  nSet fun s => s.satFld (.fbErr p) 16 16
  nReport none 0x06 2 2 (unitWord 6 p) (BitVec.ofNat 64 a) (.fbErr p)

/-- A line that reads poisoned and takes no writes: of a failed channel (R426) or in a fenced tree's heartwood (R428). -/
def State.lost (s : State) (a : Nat) : Bool :=
  if inNear a then s.flag (nbHealthOf (s.nearLoc a).1) 7
  else if heartBase ≤ a && a < heartOf 64 then s.flag (.treeHealth ((a - heartBase) / 0x40_0000)) 0
  else false

/-- Write bytes of one line below the canopies, with whether they are poisoned; false when the write is dropped. A write for a
far-bank port that is not up waits there (R272). Requests to the host go line by line, so that none exceeds Max Payload Size or
crosses a 4 KiB boundary (R390). -/
def nRawWrite (a : Nat) (bs : List Byte) (p : Bool) : N Bool := do
  let s ← nGet
  if s.lost a then return false
  else if inHost a then
    if s.hostUp then
      nSet fun s => s.putLine a bs (p || (bs.length < 128 && s.linePoison (a / 128)))
      return true
    else
      nHostEnd a 2
      return false
  else
    match s.farLoc a with
    | some (q, _) =>
      if aread false s.dead (a / 128) then
        nSet fun s => { s with dead := awrite false s.dead (a / 128) false }
        return false
      else if s.portUp q then
        nSet fun s => s.putLine a bs (p || (bs.length < 128 && s.linePoison (a / 128)))
        return true
      else
        nSet fun s => { s with posted := s.posted ++ [⟨⟨0, true⟩, a, bs, p⟩] }
        return true
    | none =>
      nStoreLine a bs p
      return true

end Sys2Proof.Machine
end

