-- ==== Sys2Proof/Machine/Collector.lean ====
section
/-! DEFINITION. The error collector, the event queues and denials, which raise one another (R244, R311, R436-R438), and the checks
of accesses, which report what they deny. -/

namespace Sys2Proof.Machine

/-- The MSI-X message of a vector, or its pending bit while it may not be sent (R389); in D3hot the port sends none (R393). -/
def State.sendMsix (s : State) (v : Nat) : State :=
  if ¬ s.flag .pciestat 10 ∧ s.pcie.msix ∧ s.pcie.busMaster ∧ ¬ s.pcie.funcMask ∧ aread false s.pcie.unmasked v then
    let e := aread (0, 0) s.pcie.table v
    { s with out := .msix v e.1 e.2 :: s.out }
  else { s with pcie := { s.pcie with pba := awrite false s.pcie.pba v true } }

/-- The 32 bytes of an event record (Table: Event record). -/
def evBytes (index : Nat) (e : Ev) : List Byte :=
  toLE index 4 ++ toLE e.src 2 ++ toLE e.code 2 ++ toLE e.tide.toNat 8 ++ toLE e.lo.toNat 8 ++ toLE e.hi.toNat 8

/-- Entries that a queue may still take. -/
def State.qRoom (s : State) (q : Nat) : Nat :=
  2 ^ field (s.qctx q) 52 4 - (s.fld (.qctxPtr q) 32 32 + 2 ^ 32 - s.fld (.qctxPtr q) 0 32) % 2 ^ 32

/-- Write an event at TAIL of its queue as the device queue manager (R244), or stop the queue when the write is denied
(R311); with what is raised by that. -/
def writeEvent (s : State) (e : Nat) (ev : Ev) : State × List Note :=
  let q := 0x1C00 + e
  let tail := s.fld (.qctxPtr q) 32 32
  let log := field (s.qctx q) 52 4
  let a := field (s.qctx q) 12 40 * 4096 + tail % 2 ^ log * 32
  let r : Req := ⟨0x198, bit (s.qctx q) 58⟩
  match s.denial r .wr a 32 with
  | some (c, sel) =>
    let s := s.denyLog r true a sel c
    let n := denyNote s r a c
    let s := { (s.setFld (.qctxBase q) 56 2 0).setFld (.qctxBase q) 61 3 5 with
      inEffect := adel s.inEffect (Reg.qctxBase q).addr }
    (s, [n, .event (s.fld (.qctxStat q) 11 10) 0x0005 5 (BitVec.ofNat 64 q) (BitVec.ofNat 64 (s.fld (.qctxPtr q) 0 32))])
  | none =>
    let lost := s.fld (.qctxStat q) 52 12
    let (_, s, l) := nRawWrite a (evBytes tail (if ev.src = 6 then { ev with code := 0x8000 + lost } else ev)) false (s, [])
    let s := s.setFld (.qctxPtr q) 32 32 (tail + 1)
    let s := if ev.src = 6 then s.setFld (.qctxStat q) 52 12 0 else s
    (if s.flag (.qctxBase q) 60 then s.sendMsix (s.fld (.qctxStat q) 0 11) else s, l)

/-- The EVENTS_LOST event of a queue (R244); its CODE is the value of EVLOST when it is written. -/
def lostEvent (s : State) (q : Nat) : Ev := ⟨0x0006, 0, s.reg .tideNow, BitVec.ofNat 64 q, 0⟩

/-- A state in which an event is held for a full queue. After a drop the EVENTS_LOST event is held ahead of it, once (R244). -/
def State.holdEvent (s : State) (q : Nat) (ev : Ev) : State :=
  let held := aread [] s.heldEvents q
  { s with heldEvents := awrite [] s.heldEvents q (held ++
      if s.fld (.qctxStat q) 52 12 = 0 ∨ (held.any fun h => h.src = 6) then [ev] else [lostEvent s q, ev]) }

/-- A state in which a queue of STATE 0 starts: with EVLOST not 0 its EVENTS_LOST event comes before every event still held (R244;
log entry 160). -/
def State.startEvents (s : State) (q : Nat) : State :=
  let held := (aread [] s.heldEvents q).filter fun h => h.src != 6
  if s.fld (.qctxStat q) 52 12 = 0 ∨ held.isEmpty then s
  else { s with heldEvents := awrite [] s.heldEvents q (lostEvent s q :: held) }

/-- An event for event queue e (R244). -/
def takeEvent (s : State) (e src code : Nat) (lo hi : W64) : State × List Note :=
  let q := 0x1C00 + e
  let ev : Ev := ⟨src, code, s.reg .tideNow, lo, hi⟩
  let held := aread [] s.heldEvents q
  if s.fld (.qctxBase q) 56 2 = 0 then (s.satFld (.qctxStat q) 52 12, [])
  else if held.isEmpty ∧ 0 < s.qRoom q then
    if s.fld (.qctxStat q) 52 12 = 0 then writeEvent s e ev
    else
      let (s, n) := writeEvent s e (lostEvent s q)
      if s.fld (.qctxBase q) 56 2 = 0 then (s.satFld (.qctxStat q) 52 12, n)
      else if 0 < s.qRoom q then
        let (s, m) := writeEvent s e ev
        (s, n ++ m)
      else ({ s with heldEvents := awrite [] s.heldEvents q [ev] }, n)
  else if (held.filter fun h => h.src != 6).length < 16 then (s.holdEvent q ev, [])
  else (s.satFld (.qctxStat q) 52 12, [])

/-- The 64 bytes of an incident record (Table: Incident record). -/
def recBytes (idx : Nat) (final dropped : Bool) (r : Rec) : List Byte :=
  let b := toLE idx 4 ++ toLE r.cls 1 ++
    toLE (r.sev + b2n r.secondary <<< 3 + b2n final <<< 4 + b2n dropped <<< 5) 1 ++ toLE r.code 2 ++
    toLE r.first.toNat 8 ++ toLE r.last.toNat 8 ++ toLE r.count 4 ++ toLE r.unit 4 ++ toLE r.primary 4 ++ toLE 0 4 ++
    toLE r.d0.toNat 8 ++ toLE r.d1.toNat 8 ++ toLE r.d2.toNat 4
  b ++ toLE (crc32c 0 b) 4

/-- Write a record in its ring slot as the error collector: done, or denied with the denial logged and no record raised
(R311, R436). -/
def writeRec (s : State) (idx : Nat) (final dropped : Bool) (r : Rec) : State × Bool × List Note :=
  let a := s.fld .incRing 18 34 * 2 ^ 18 + idx % 4096 * 64
  let rq : Req := ⟨0x1A0, true⟩
  match s.denial rq .wr a 64 with
  | none =>
    let p := nRawWrite a (recBytes idx final dropped r) false (s, [])
    (p.2.1, true, p.2.2)
  | some d => (s.denyLog rq true a d.2 d.1, false, [])

/-- A record is dropped (R436). -/
def State.dropRec (s : State) (sev : Nat) : State :=
  { s.setFld .incOvf (12 * sev) 12 (satInc 12 (s.fld .incOvf (12 * sev) 12)) with
    collector := { s.collector with lost := true } }

/-- INC_STAT.OPEN and HELD follow the collector. -/
def State.setOpened (s : State) (l : List OpenRec) : State :=
  (({ s with collector := { s.collector with opened := l } }).setFld .incStat 0 7 l.length).setFld .incStat 8 7
    ((l.filter fun (o : OpenRec) => o.idx.isNone).length)

/-- HEAD has passed a ring entry. -/
def headPassed (s : State) (idx : Nat) : Bool :=
  let d := (s.fld .incPtr 0 32 + 2 ^ 32 - idx % 2 ^ 32) % 2 ^ 32
  0 < d && d < 2 ^ 31

/-- The ring has room for a record of a severity (R436). -/
def ringRoom (s : State) (sev : Nat) : Bool :=
  let n := (s.fld .incPtr 32 32 + 2 ^ 32 - s.fld .incPtr 0 32) % 2 ^ 32
  n < 4096 && (3 ≤ sev || n < 4032)

/-- Rewrite a record in its slot; a denied rewrite counts the record as dropped (R311, R436). Answers whether it was written. -/
def rewriteRec (s : State) (idx : Nat) (final dropped : Bool) (r : Rec) : State × Bool × List Note :=
  let p := writeRec s idx final dropped r
  (if p.2.1 then p.1 else p.1.dropRec r.sev, p.2)

/-- Finalise an open record (R437): a last rewrite with FINAL = 1 unless HEAD has passed it. One that was never written stays held,
final, until INC_RING.EN is 1 (R436). Answers what is left of it. -/
def finalise (s : State) (o : OpenRec) : State × Option OpenRec × List Note :=
  match o.idx with
  | some i =>
    if headPassed s i then (s, none, [])
    else
      let p := rewriteRec s i true o.dropped o.rc
      (p.1, none, p.2.2)
  | none => (s, some { o with final := true }, [])

/-- A state in which the recoveries that a record reports know its index (R439). -/
def State.notePrimary (s : State) (r : Rec) (idx : Nat) : State :=
  { s with handled := s.handled.map fun h =>
      if h.cls = r.cls ∧ h.code = r.code ∧ h.unit = r.unit ∧ h.primary = none then { h with primary := some (idx % 2 ^ 32) } else h }

/-- TAIL advances past a record written there, and from the severity INC_CTRL names the incident interrupt and event are
raised (R436, R438). -/
def placed (s : State) (o : OpenRec) (tail : Nat) : State × List Note :=
  let s := (({ s with collector := { s.collector with lost := false } }).notePrimary o.rc tail).setFld .incPtr 32 32 (tail + 1)
  if o.rc.sev < s.fld .incCtrl 11 3 then (s, [])
  else
    (s.setFld (.intPend (s.fld .incCtrl 14 6) (s.fld .incCtrl 20 2)) 10 1 1,
      if s.flag .incCtrl 10 then
        [.event (s.fld .incCtrl 0 10) 0x0050 (o.rc.cls + o.rc.sev <<< 8) (BitVec.ofNat 64 (tail + o.rc.unit <<< 32)) 0]
      else [])

/-- Write a record at TAIL, final or to stay open, and notify (R436, R438). Answers the record where it was written. -/
def placeRec (s : State) (final : Bool) (r : Rec) : State × Option OpenRec × List Note :=
  if ¬ ringRoom s r.sev then (s.dropRec r.sev, none, [])
  else
    let tail := s.fld .incPtr 32 32
    let o : OpenRec := ⟨some tail, s.collector.lost, final, r⟩
    match writeRec s tail final s.collector.lost r with
    | (s, true, l) =>
      let p := placed s o tail
      (p.1, some o, l ++ p.2)
    | (s, false, l) => (s.dropRec r.sev, none, l)

/-- One step of writing the held records: a record already written stays, a held one is written now, and stays open unless it is
final. -/
def placeOne (p : State × List OpenRec × List Note) (o : OpenRec) : State × List OpenRec × List Note :=
  match o.idx with
  | some _ => (p.1, p.2.1 ++ [o], p.2.2)
  | none =>
    let q := placeRec p.1 o.final o.rc
    (q.1, p.2.1 ++ q.2.1.toList.filter (fun x => !x.final), p.2.2 ++ q.2.2)

/-- Write the held records in order once INC_RING.EN is 1 (R436). -/
def placeHeld (s : State) (l : List OpenRec) : State × List OpenRec × List Note := l.foldl placeOne (s, [], [])

/-- Two records coalesce (R437). -/
def Rec.same (a b : Rec) : Bool := a.cls == b.cls && a.code == b.code && a.unit == b.unit && a.secondary == b.secondary

/-- The collector needs the slot of its oldest open record when 64 are open: it is finalised (R437). -/
def makeRoom (s : State) (l : List OpenRec) : State × List OpenRec × List Note :=
  if 64 ≤ l.length then
    match l with
    | o :: t =>
      let p := finalise s o
      (p.1, p.2.1.toList ++ t, p.2.2)
    | [] => (s, [], [])
  else (s, l, [])

/-- Write a new record and open it beside those of a list (R436); a record that is dropped needs no slot. -/
def openNew (s : State) (l : List OpenRec) (r : Rec) : State × List Note :=
  let q := placeRec s false r
  match q.2.1 with
  | none => (q.1.setOpened l, q.2.2)
  | some o =>
    let p := makeRoom q.1 l
    (p.1.setOpened (p.2.1 ++ [o]), q.2.2 ++ p.2.2)

/-- Hold a new record while INC_RING.EN is 0; with 64 held it is dropped (R436). One that was written earlier gives up its slot
for it when 64 are open (R437). -/
def holdRec (s : State) (l : List OpenRec) (r : Rec) : State × List Note :=
  if 64 ≤ (l.filter fun o => o.idx.isNone).length then ((s.dropRec r.sev).setOpened l, [])
  else
    let p := makeRoom s l
    (p.1.setOpened (p.2.1 ++ [⟨none, false, false, r⟩]), p.2.2)

/-- An occurrence that coalesces with an open record (R437): the record counts it, or INC_OVF does where the rewrite is denied
(R311; log entry 84). -/
def coalesce (s : State) (o : OpenRec) (r : Rec) : State × List Note :=
  let rc := { o.rc with count := satInc 32 o.rc.count, last := r.first }
  let counted (s : State) : State := s.setOpened (s.collector.opened.map fun p => if p = o then { o with rc := rc } else p)
  match o.idx with
  | none => (counted s, [])
  | some i =>
    let p := rewriteRec (s.notePrimary r i) i false o.dropped rc
    (if p.2.1 then counted p.1 else p.1, p.2.2)

/-- An open record that an occurrence coalesces with: the same class, code, unit and mark, not final, not passed by HEAD, and its
first occurrence less than 2^20 units before (R437). -/
def State.openFor (s : State) (r : Rec) : Option OpenRec :=
  s.collector.opened.find? fun o => o.rc.same r && !o.final && !(match o.idx with | some i => headPassed s i | none => false)
      && decide (r.first.toNat < o.rc.first.toNat + 2 ^ 20)

/-- One step of finalising the open records that an occurrence may no longer join. -/
def closeOne (r : Rec) (p : State × List OpenRec × List Note) (o : OpenRec) : State × List OpenRec × List Note :=
  if o.rc.same r && !o.final then
    let q := finalise p.1 o
    (q.1, p.2.1 ++ q.2.1.toList, p.2.2 ++ q.2.2)
  else (p.1, p.2.1 ++ [o], p.2.2)

/-- Finalise the open records that an occurrence may no longer join (R437). -/
def closeSame (s : State) (r : Rec) : State × List OpenRec × List Note := s.collector.opened.foldl (closeOne r) (s, [], [])

/-- An occurrence of an incident (R436, R437). -/
def takeIncident (s : State) (r : Rec) : State × List Note :=
  let s := s.addFld .incStat 32 32 1
  match s.openFor r with
  | some o => coalesce s o r
  | none =>
    let p := closeSame s r
    let q := if s.flag .incRing 0 then openNew p.1 p.2.1 r else holdRec p.1 p.2.1 r
    (q.1, p.2.2 ++ q.2)

/-- Take one incident or event, with what it raises in turn. -/
def takeNote (s : State) : Note → State × List Note
  | .incident cls sev code unit d0 d1 d2 sec pri =>
    takeIncident s ⟨cls, sev, code, unit, sec, pri, d0, d1, d2, s.reg .tideNow, s.reg .tideNow, 1⟩
  | .event e src code lo hi => takeEvent s e src code lo hi

/-- Handle what was raised, in order, and what that raises in turn. Every event that a denial raises stops a further queue,
so the bound is never reached (log entry 14). -/
def settle : Nat → List Note → State → State
  | 0, _, s => s
  | _, [], s => s
  | n + 1, e :: r, s => settle n ((takeNote s e).2 ++ r) (takeNote s e).1

/-- Raise incidents and events, in order. -/
def raise (l : List Note) : M Unit := modify (settle 5000 l)

/-- Perform an operation below the collector and raise what it hands on. -/
def told {α : Type} (m : N α) : M α := do
  let (x, s, l) := m (← get, [])
  set s
  raise l
  return x

/-- Raise an incident record with no secondary mark (R434). -/
def incident (cls sev code unit : Nat) (d0 d1 : W64) : M Unit :=
  raise [.incident cls sev code unit d0 d1 0 false 0xFFFF_FFFF]

/-- Raise an event on event queue 0x1C00 + e (R244). -/
def event (e src code : Nat) (lo hi : W64) : M Unit := raise [.event e src code lo hi]

/-- Report a denied access (R311). -/
def deny (r : Req) (write : Bool) (a sel cause : Nat) : M Unit := do
  modify fun s => s.denyLog r write a sel cause
  raise [denyNote (← get) r a cause]

/-- Check an access to n bytes behind one target; a denial is reported, and its cause returned. -/
def checkLine (r : Req) (k : Acc) (a n : Nat) : M (Option Nat) := do
  match (← get).denial r k a n with
  | none => return none
  | some (c, t) => deny r k.writes a t c; return some c

/-- The parts of n bytes from an address that lie in one line each. -/
def lineParts (a n : Nat) : List (Nat × Nat) :=
  (linesOf a n).map fun l =>
    let lo := max a (l * 128)
    (lo, min (a + n) (l * 128 + 128) - lo)

/-- Check the parts of an access in ascending order: the first denial's cause and address. -/
def checkParts (r : Req) (k : Acc) : List (Nat × Nat) → M (Option (Nat × Nat))
  | [] => return none
  | (a, n) :: rest => do
    match ← checkLine r k a n with
    | some c => return some (c, a)
    | none => checkParts r k rest

/-- Consecutive parts of an access that one target serves are one access to its table (R308; log entry 52). -/
def State.joined (s : State) : List (Nat × Nat) → List (Nat × Nat)
  | [] => []
  | (a, n) :: r =>
    match s.joined r with
    | [] => [(a, n)]
    | (b, m) :: r => if s.target a = s.target b then (a, n + m) :: r else (a, n) :: (b, m) :: r

/-- Check an access of any length. -/
def checkAcc (r : Req) (k : Acc) (a n : Nat) : M (Option (Nat × Nat)) := do
  checkParts r k ((← get).joined (lineParts a n))

end Sys2Proof.Machine
end

