-- ==== Sys2Proof/Machine/Controllers.lean ====
section
/-! DEFINITION. The operations on stored lines, queues and recoveries as units perform them, with what they raise (R121, R122,
R256-R272, R390, R424-R432). -/

namespace Sys2Proof.Machine

/-- Put a register's shadow values into effect (R46). -/
def applyPending (r : Reg) : M Unit := modify fun s => s.inForce r

/-- Set STATE of a queue; at 0 the BASE, LOG2N and WORLD written meanwhile take effect (R240). -/
def setQState (q n : Nat) : M Unit := modify fun s => s.setQState q n

/-- A recovery of a class, of at most some µs, has ended (R424). -/
def recovered (cls bound : Nat) : M Unit := modify fun s =>
  ({ s with fresh := s.fresh + 1 } : State).recovery cls (s.someUs bound)

/-- A fault that the part survives, with the recovery of its domain (R424, R439). -/
def survive (d : Dom) (bound cls sev code unit : Nat) (d0 : W64) (r : Reg) : M Unit :=
  told (nSurvive d bound cls sev code unit d0 r)

/-- An incident record, secondary while its domain is being handled (R439). -/
def reportIn (d : Option Dom) (cls sev code unit : Nat) (d0 : W64) (r : Reg) : M Unit := told (nReport d cls sev code unit d0 r)

/-- The recovery of a domain begins (R424, R439). -/
def recovers (d : Dom) (bound cls code unit : Nat) : M Unit := told (nRecover d bound cls code unit)

/-- Journalling stops: JSTATE becomes LOST (R340), where it is ACTIVE. -/
def journalLost : M Unit := modify fun s => if s.fld .epStatus 37 2 = 1 then s.loseJournal else s

/-- The part withdraws on a fatal fault (R432). -/
def withdraw (d : Option Dom) (cls code unit : Nat) (d0 : W64) (r : Reg) : M Unit := told (nWithdraw d cls code unit d0 r)

/-- Channel c fails (R426). -/
def failChannel (c : Nat) : M Unit := told (nFailChannel c)

/-- The last heartwood event (HW_ERR). -/
def noteHw (t bank row : Nat) (ue : Bool) : M Unit := modify fun s => s.noteHw t bank row ue

/-- A near-bank controller reads a line; true when it forwards it marked poisoned (R266). -/
def nearLine (l : Nat) : M Bool := told (nNearLine l)

/-- A heartwood bank decodes a line; true when it delivers it marked poisoned (R121). -/
def heartLine (l : Nat) : M Bool := told (nHeartLine l)

/-- A line is decoded where it is stored; true when it is delivered marked poisoned. -/
def storedLine (l : Nat) : M Bool := told (nStoredLine l)

/-- A host-window request ends under R390. -/
def hostEnd (a code : Nat) : M Unit := told (nHostEnd a code)

/-- A request that a far-bank port ends (R272). -/
def portEnd (p a : Nat) : M Unit := told (nPortEnd p a)

/-- Write bytes of one line below the canopies, with whether they are poisoned; false when the write is dropped. -/
def rawWrite (a : Nat) (bs : List Byte) (p : Bool) : M Bool := told (nRawWrite a bs p)

end Sys2Proof.Machine
end

