-- ==== Sys2Proof/Machine/Canopy.lean ====
section
/-! DEFINITION. The paths to memory: near bank, heartwood, far bank and host window below the canopies, and the canopies
with their write policies, fills, evictions and maintenance (R271-R282, R390). -/

namespace Sys2Proof.Machine

/-- The canopy of a grove. -/
def State.canopy (s : State) (g : Nat) : CanopySt := aread .empty s.canopies g

/-- A state with a canopy set. -/
def State.setCanopy (s : State) (g : Nat) (c : CanopySt) : State :=
  { s with canopies := awrite .empty s.canopies g c }

/-- What a decoder makes of the codeword of a sector. -/
def Sector.verdict (x : Sector) : Verdict :=
  if x.errs.isEmpty then (if x.poison then .poison [] else .good []) else judgeLine x.poison x.errs []

/-- Bytes of a line with an error pattern's data symbols added in. -/
def xorBytes (bs : List Byte) (e : List (Nat × Nat)) : List Byte :=
  (List.range bs.length).map fun p => bs.getD p 0 ^^^ BitVec.ofNat 8 (errAt e p)

/-- A sector as its decoder makes of it: the decoded bytes, and whether they are poisoned; its codeword is the same. -/
def Sector.decoded (x : Sector) : Sector :=
  match x.verdict with
  | .good f => { x with data := xorBytes x.data (errMix x.errs f), errs := f, poison := false }
  | .poison f => { x with data := xorBytes x.data (errMix x.errs f), errs := f, poison := true }
  | .bad => { x with data := xorBytes x.data x.errs, errs := [], poison := true }

/-- A read of a line of a far-bank port that is up: one that completes with poison is counted and reported (R271). -/
def portRead (p a n : Nat) : M Bool := do
  let x := (← get).poisoned a n
  if x then
    bump (.fbErr p) 0 16
    incident 0x06 2 1 (unitWord 6 p) (BitVec.ofNat 64 a) ((← get).reg (.fbErr p))
  return x

/-- Read n bytes of one line from below the canopies: the bytes, and whether they are poisoned. A read of a master that keeps
no record of waiting is ended at once by a far-bank port that is not up (R272; log entry 43). -/
def rawRead (a n : Nat) : M (List Byte × Bool) := do
  let s ← get
  if aread false s.dead (a / 128) then
    set { s with dead := awrite false s.dead (a / 128) false }
    return (s.bytes a n, true)
  if inHost a ∧ ¬ s.hostUp then
    hostEnd a 2
    return (s.bytes a n, true)
  match s.farLoc a with
  | some (p, _) =>
    if s.portUp p then
      let x ← portRead p a n
      return (s.bytes a n, x)
    else
      portEnd p a
      return (s.bytes a n, true)
  | none =>
    if s.lost a then return (s.bytes a n, true)
    else
      let x ← storedLine (a / 128)
      return ((← get).bytes a n, x)

/-- Write a whole line below the canopies as a codeword: with its poison mark and symbol errors into the near bank, which stores it
as received; the ports decode it, and write what cannot be corrected with poison (R258, R271, R281). -/
def rawLine (l : Nat) (x : Sector) : M Unit := do
  if inNear (l * 128) then
    whenM (← rawWrite (l * 128) x.data x.poison) (modify fun s => s.setFlaw l ⟨x.errs, false⟩)
  else
    let y := x.decoded
    let _ ← rawWrite (l * 128) y.data y.poison
    skip

/-- The home canopy of a far-bank address (R271). -/
def farHome (a : Nat) : Nat := ((a - farBase) / 512) % 8

/-- The sector of a canopy that holds an address, if it is present. -/
def State.sector (s : State) (g a : Nat) : Option Sector :=
  match (s.canopy g).lines.find? fun l => l.base = a / 512 with
  | some l => aget l.sects (a / 128 % 4)
  | none => none

/-- A line without a sector. -/
def CanLine.drop (l : CanLine) (q : Nat) : CanLine := { l with sects := adel l.sects q }

/-- A state with a sector put into its present line, which becomes the most recently used. -/
def State.putSector (s : State) (g a : Nat) (x : Sector) : State :=
  let c := s.canopy g
  match c.lines.find? fun l => l.base = a / 512 with
  | some l => s.setCanopy g { c with lines :=
      { l with sects := aput l.sects (a / 128 % 4) x } :: (c.lines.filter fun m => m.base != l.base) }
  | none => s

/-- A state with a sector discarded. -/
def State.dropSector (s : State) (g a : Nat) : State :=
  let c := s.canopy g
  let ls := c.lines.map fun l => if l.base = a / 512 then l.drop (a / 128 % 4) else l
  s.setCanopy g { c with lines := ls.filter fun l => !l.sects.isEmpty }

/-- Clean a sector: a dirty one is written to memory and stays valid (R279). -/
def cleanSector (g a : Nat) : M Unit := do
  match (← get).sector g a with
  | some x =>
    if x.dirty then
      rawLine (a / 128) x
      modify fun s => s.putSector g a { x with dirty := false }
  | none => skip

/-- Act on a sector with a maintenance operation: 1 CLEAN, 2 INVAL, 3 CLINV (R279). -/
def actSector (op g a : Nat) : M Unit := do
  if op ≠ 2 then cleanSector g a
  if op ≠ 1 then modify fun s => s.dropSector g a

/-- Insert a number into a rising list. -/
def insNat (n : Nat) : List Nat → List Nat
  | [] => [n]
  | m :: r => if n ≤ m then n :: m :: r else m :: insNat n r

/-- A list of numbers in rising order. -/
def sortNat (l : List Nat) : List Nat := l.foldr insNat []

/-- The sectors that all canopies hold, by address and canopy, in ascending order of address. -/
def State.sectorsHeld (s : State) : List (Nat × Nat) :=
  let l := (List.range 8).flatMap fun g => (s.canopy g).lines.flatMap fun l => l.sects.map fun e => (l.base * 512 + e.1 * 128) * 8 + g
  (sortNat l).map fun n => (n / 8, n % 8)

/-- The sectors that a maintenance operation of grove g's registers acts on: its own canopy or all with SCOPE, and far-bank
lines always in their home canopy (R279). -/
def Cmo.sel (o : Cmo) (g h a : Nat) : Bool := decide (o.first < a + 128 ∧ a < o.stop) && (o.scope || h == g || inFar a)

/-- The next sector of a maintenance operation, in ascending address (R279). -/
def State.cmoNext (s : State) (g : Nat) (o : Cmo) : Option (Nat × Nat) :=
  s.sectorsHeld.find? fun e => decide (o.next ≤ e.1 * 8 + e.2) && o.sel g e.2 e.1

/-- The write of a dirty sector to memory would wait for a far-bank port that is not up (R272). -/
def State.portAway (s : State) (a : Nat) : Bool :=
  match s.farLoc a with
  | some (p, _) => !s.portUp p && !aread false s.dead (a / 128)
  | none => false

/-- A maintenance operation goes on to its next sector; false when it has none, or waits there: for a fill in flight, which is
doomed, or until memory accepts a dirty sector (R279, R280). -/
def cmoStep (g : Nat) : M Bool := do
  let s ← get
  match aget s.cmos g with
  | none => return false
  | some o =>
    match s.cmoNext g o with
    | none => return false
    | some (a, h) =>
      match s.sector h a with
      | none => return false
      | some x =>
        if x.filling || (o.op != 2 && x.dirty && s.portAway a) then return false
        else
          actSector o.op h a
          modify fun s => { s with cmos := aput s.cmos g { o with next := a * 8 + h + 1 } }
          return true

/-- A maintenance operation goes on while it can. -/
def cmoRun (g : Nat) : Nat → M Unit
  | 0 => skip
  | n + 1 => do if ← cmoStep g then cmoRun g n

/-- Every maintenance operation goes on while it can. -/
def cmoGo : M Unit := do
  forAll ((← get).cmos.map (·.1)) fun g => do cmoRun g ((← get).sectorsHeld.length + 1)

/-- A fill lands: requests that joined it have been served, and a maintenance operation that waits for it acts (R280). -/
def landFill (g a : Nat) : M Unit := do
  match (← get).sector g a with
  | some x =>
    if x.filling then
      modify fun s => s.putSector g a { x with filling := false }
      cmoGo
  | none => skip

/-- Addresses of the sectors of a canopy whose fills are in flight, the latest first. -/
def State.filling (s : State) (g : Nat) : List Nat :=
  (s.canopy g).lines.flatMap fun l => (l.sects.filter fun e => e.2.filling).map fun e => l.base * 512 + e.1 * 128

/-- A line's dirty sectors can be written to memory: none is of a far-bank port that is not up. -/
def State.yields (s : State) (v : CanLine) : Bool :=
  v.sects.all fun e => !e.2.dirty || (match s.farLoc (v.base * 512) with
    | some (p, _) => s.portUp p || aread false s.dead (v.base * 4 + e.1)
    | none => true)

/-- Lines of a canopy in the set of a line. -/
def State.setOf (s : State) (g base : Nat) : List CanLine := (s.canopy g).lines.filter fun l => l.base % 2048 = base % 2048

/-- Ways of a canopy that are in use. -/
def State.waysOf (s : State) (g : Nat) : List Nat := (List.range (s.ways g)).filter fun w => !(s.canopy g).excluded.contains w

/-- A free way for a line, if there is one. -/
def State.freeWay (s : State) (g base : Nat) : Option Nat :=
  (s.waysOf g).find? fun w => !((s.setOf g base).any fun l => l.way = w)

/-- Make room for a line that is absent: the way it takes. With no way free, a line of the set is taken by a free choice among those
whose dirty sectors memory accepts (R273 names pseudo-LRU and gives no tree; log entry 15): its fills land, and its dirty sectors
are written to memory before the new line's fill issues (R277). -/
def takeWay (g base : Nat) : M Unit := do
  let s ← get
  let c := s.canopy g
  if (c.lines.find? fun l => l.base = base).isSome then skip
  else
    match s.freeWay g base with
    | some w => set (s.setCanopy g { c with lines := ⟨base, w, []⟩ :: c.lines })
    | none =>
      let r ← draw
      let used := s.setOf g base
      let l := if used.any s.yields then used.filter s.yields else used
      match l[r.toNat % max l.length 1]? with
      | none => skip
      | some v =>
        forAll v.sects fun e => do
          landFill g (v.base * 512 + e.1 * 128)
          cleanSector g (v.base * 512 + e.1 * 128)
        modify fun s =>
          let c := s.canopy g
          s.setCanopy g { c with lines := ⟨base, v.way, []⟩ :: (c.lines.filter fun l => l.base != v.base) }

/-- The address of a dirty sector that an allocation waits for: no way of the set is free, and every line of it holds dirty sectors
for far-bank ports that are not up (R272, R276, R277). -/
def State.allocWait (s : State) (g a : Nat) : Option Nat :=
  if ((s.canopy g).lines.any fun l => l.base = a / 512) || (s.freeWay g (a / 512)).isSome then none
  else
    let used := s.setOf g (a / 512)
    if used.any s.yields then none
    else used.findSome? fun v => v.sects.findSome? fun e => if e.2.dirty then some (v.base * 512 + e.1 * 128) else none

/-- Put a sector into its line; with 64 fills in flight the oldest lands first (R276). -/
def install (g a : Nat) (x : Sector) : M Unit := do
  if x.filling ∧ 64 ≤ ((← get).filling g).length then
    match ((← get).filling g).getLast? with
    | some o => landFill g o
    | none => skip
  modify fun s => s.putSector g a x

/-- A sector of a canopy, filled from memory when it is absent, after its line has its way (R276, R277); hits and misses are
counted. -/
def needSector (g a : Nat) : M Sector := do
  match (← get).sector g a with
  | some x =>
    modify fun s => s.addFld (.canStat g) 0 32 1
    return x
  | none =>
    modify fun s => s.addFld (.canStat g) 32 32 1
    takeWay g (a / 512)
    let (bs, p) ← rawRead (a / 128 * 128) 128
    let x : Sector := ⟨false, p, bs, [], true⟩
    install g a x
    return x

/-- The canopy events that CAN_ERR counts: 0 CE, 1 UE, 2 TAGERR (R281, Table: Incident classes). -/
def canopyEvent (g k a : Nat) : M Unit := do
  bump (.canErr g) (16 * k) 16
  incident 0x07 (if k = 0 then 1 else 2) (k + 1) (unitWord 1 g) (BitVec.ofNat 64 a) ((← get).reg (.canErr g))

/-- A sector as a canopy delivers it: decoded. What is corrected, or cannot be, on its way to a crew thread is counted
(R258, R281). -/
def deliver (crew : Bool) (g a : Nat) (x : Sector) : M Sector := do
  if ¬ x.errs.isEmpty ∧ crew then
    match x.verdict with
    | .good _ => canopyEvent g 0 a
    | .bad => canopyEvent g 1 a
    | .poison _ => skip
  return x.decoded

/-- Bytes of a sector from an address. -/
def Sector.part (x : Sector) (a n : Nat) : List Byte := (x.data.drop (a % 128)).take n

/-- A sector with bytes merged in, which are poisoned or not: a partial write into a poisoned one leaves it so (R263, R425). -/
def Sector.merge (x : Sector) (a : Nat) (bs : List Byte) (p : Bool) : Sector :=
  let x := x.decoded
  { x with
    data := x.data.take (a % 128) ++ bs ++ x.data.drop (a % 128 + bs.length)
    poison := p || (x.poison && bs.length != 128)
    errs := [] }

/-- Read through a canopy under a write policy: 0 WB, 1 WT, 2 WA, 3 UC (R275); for a crew thread or another master. -/
def canRead (crew : Bool) (g pol a n : Nat) : M (List Byte × Bool) := do
  if pol = 3 then
    if inFar a then
      match (← get).sector g a with
      | some x =>
        let x ← deliver crew g a x
        return (x.part a n, x.poison)
      | none => rawRead a n
    else rawRead a n
  else
    let x ← deliver crew g a (← needSector g a)
    return (x.part a n, x.poison)

/-- Write memory, with whether the bytes are poisoned, whether or not the write is dropped. -/
def rawPut (a : Nat) (bs : List Byte) (p : Bool) : M Unit := do
  let _ ← rawWrite a bs p
  skip

/-- Write through a canopy under a write policy, with whether the bytes are poisoned (R275, R289). -/
def canWrite (g pol a : Nat) (bs : List Byte) (p : Bool) : M Unit := do
  let s ← get
  match s.sector g a with
  | some x =>
    if pol = 0 then modify fun s => s.putSector g a { x.merge a bs p with dirty := true }
    else if pol = 1 ∨ (pol = 3 ∧ inFar a) then
      modify fun s => s.putSector g a (x.merge a bs p)
      rawPut a bs p
    else if pol = 2 then
      modify fun s => s.dropSector g a
      rawPut a bs p
    else rawPut a bs p
    whenM (pol ≠ 3) (modify fun s => s.addFld (.canStat g) 0 32 1)
  | none =>
    if pol = 0 then
      if bs.length = 128 then
        modify fun s => s.addFld (.canStat g) 32 32 1
        takeWay g (a / 512)
        install g a ⟨true, p, bs, [], false⟩
      else
        let x ← needSector g a
        modify fun s => s.putSector g a { x.merge a bs p with dirty := true }
    else
      rawPut a bs p
      whenM (pol ≠ 3) (modify fun s => s.addFld (.canStat g) 32 32 1)

/-- Read n bytes of one line of memory (not a register) for a crew thread of grove g under a page's policy (R274). -/
def crewRead (g pol a n : Nat) : M (List Byte × Bool) := do
  if inFar a then canRead true (farHome a) pol a n
  else if inNear a ∨ inHost a then canRead true g pol a n
  else rawRead a n

/-- Write bytes of one line of memory for a crew thread of grove g, with whether they are poisoned. -/
def crewWrite (g pol a : Nat) (bs : List Byte) (p : Bool) : M Unit := do
  if inFar a then canWrite (farHome a) pol a bs p
  else if inNear a ∨ inHost a then canWrite g pol a bs p
  else rawPut a bs p

/-- A whole line of a heartwood whose tree is not fenced. -/
def State.heartWhole (s : State) (a n : Nat) : Bool := heartBase ≤ a && a < heartOf 64 && n = 128 && !s.lost a

/-- Read n bytes of one line for any other master: it bypasses the canopies but for far-bank lines (R271, R274). A whole line
passes a heartwood's trunk port undecoded (R121). -/
def busRead (pol a n : Nat) : M (List Byte × Bool) := do
  if inFar a then canRead false (farHome a) pol a n
  else if (← get).heartWhole a n then return (← get).codeword (a / 128)
  else rawRead a n

/-- Write bytes of one line for any other master, with whether they are poisoned. -/
def busWrite (pol a : Nat) (bs : List Byte) (p : Bool) : M Unit := do
  if inFar a then canWrite (farHome a) pol a bs p else rawPut a bs p

/-- Read any number of bytes for a master that is no crew thread. -/
def busReadAll (pol : Nat) : List (Nat × Nat) → M (List Byte × Bool)
  | [] => return ([], false)
  | (a, n) :: r => do
    let (b, p) ← busRead pol a n
    let (bs, q) ← busReadAll pol r
    return (b ++ bs, p || q)

/-- Write any number of bytes for a master that is no crew thread, with whether they are poisoned (R289). -/
def busWriteAll (pol : Nat) (poisoned : Bool) (bs : List Byte) (a0 : Nat) : List (Nat × Nat) → M Unit
  | [] => skip
  | (a, n) :: r => do
    busWrite pol a ((bs.drop (a - a0)).take n) poisoned
    busWriteAll pol poisoned bs a0 r

/-- Maintenance of every sector that a condition on the address selects, in ascending address, by a unit of the part: 1 CLEAN,
2 INVAL, 3 CLINV. A fill in flight lands first (R279, R280). -/
def maintain (op : Nat) (sel : Nat → Bool) : M Unit := do
  forAll ((← get).sectorsHeld.filter fun e => sel e.1) fun e => do
    landFill e.2 e.1
    actSector op e.2 e.1

/-- Fills in flight that a condition on the address selects land in every canopy. -/
def landFills (sel : Nat → Bool) : M Unit :=
  forAll (List.range 8) fun g => do forAll (((← get).filling g).filter sel) (landFill g)

end Sys2Proof.Machine
end

