-- ==== Sys2Proof/Machine/Directory.lean ====
section
/-! DEFINITION. The version directory: entries, page sets, access classes, the version that an access sees (R318-R329), and
the record of EPOCH faults. -/

namespace Sys2Proof.Machine

/-- First address of the directory entries. -/
def epBase : Nat := devBase + 0x4_0000

/-- The valid directory entries, by ascending index, with word 0 of each (R318). -/
def State.entries (s : State) : List (Nat × W64) :=
  s.regs.filterMap fun (a, v) =>
    if epBase ≤ a ∧ a < epBase + 0x20 * 24576 ∧ (a - epBase) % 0x20 = 0 ∧ bit v 0 then some ((a - epBase) / 0x20, v)
    else none

/-- STATE of an entry: 0 CLEAN, 1 OPEN, 2 SEALED. -/
def epState (w : W64) : Nat := field w 5 2

/-- SET of an entry. -/
def epSet (w : W64) : Nat := field w 8 6

/-- FRAME0 or FRAME1 of entry i as an address. -/
def State.epFrame (s : State) (i k : Nat) : Nat := s.fld (.epEntry i k) 21 31 * 2 ^ 21

/-- The committed frame of an entry, and its shadow (R318). -/
def State.epFrames (s : State) (i : Nat) : Nat × Nat :=
  if s.flag (.epEntry i 0) 4 then (s.epFrame i 1, s.epFrame i 0) else (s.epFrame i 0, s.epFrame i 1)

/-- A set is done: it holds a page and every one of its pages is SEALED (R323), and no page of it has been discarded since the
last was sealed (R334). -/
def State.setDone (s : State) (k : Nat) : Bool :=
  let l := s.entries.filter fun e => epState e.2 != 0 && epSet e.2 == k
  !l.isEmpty && (l.all fun e => epState e.2 == 2) && !aread false s.undone k

/-- A read of entry i under WAIT is held: its page is declared and its set not done (R324, R326). -/
def State.setWaits (s : State) (i : Nat) : Bool :=
  let w := s.reg (.epEntry i 0)
  epState w != 0 && !s.setDone (epSet w)

/-- EP_STATUS.STATE: 0 OFF, 1 OPEN, 2 COMMITTING, 3 HALTED. -/
def State.epMode (s : State) : Nat := s.fld .epStatus 32 3

/-- E, the committed epoch. -/
def State.epoch (s : State) : Nat := s.fld .epEpoch 0 32

/-- Access classes (R321). -/
inductive EpCls where
  | c | n | w
  deriving DecidableEq, Repr

/-- The class of a tag at committed epoch e, or the fault code (R321). -/
def epClass (e t : Nat) (w : Bool) : Except Nat EpCls :=
  let d := sInt 32 ((t + 2 ^ 32 - e % 2 ^ 32) % 2 ^ 32)
  if d < 0 then .error 1
  else if d = 0 ∧ ¬ w then .ok .c
  else if d = 1 then .ok (if w then .w else .n)
  else .error 2

/-- What an access to a versioned page gets: a frame, a fault of a code with the entry, a wait on an entry, or no class. -/
inductive VerRes where
  | frame (a : Nat)
  | fault (code idx : Nat)
  | wait (idx : Nat)
  | noClass
  deriving DecidableEq, Repr

/-- A read unit that has chosen nothing. -/
def EpUnit.empty : EpUnit := ⟨[], [], []⟩

/-- The version that a read unit has chosen for entry i of set k. -/
def EpUnit.choice (u : EpUnit) (i k : Nat) : Option Bool :=
  match u.choices.find? fun c => c.1 = 64 + i with
  | some c => some c.2
  | none => (u.choices.find? fun c => c.1 = k).map (·.2)

/-- What an access of a class to entry i sees (R324, R325, R336). -/
def State.verEntry (s : State) (u : EpUnit) (cls : EpCls) (write : Bool) (i : Nat) : VerRes × EpUnit :=
  let w := s.reg (.epEntry i 0)
  let st := epState w
  let k := epSet w
  let (com, sh) := s.epFrames i
  let old : VerRes × EpUnit := (.frame com, { u with used := i :: u.used })
  if u.cut.contains i then (.fault 1 i, u)
  else if write then
    if s.epMode = 2 ∧ st = 2 then (.wait i, u)
    else
    match cls with
    | .w => if st = 1 then (.frame sh, u) else (.fault 4 i, u)
    | _ => (.fault 3 i, u)
  else
    match u.choice i k with
    | some b => if st = 0 ∧ (u.choices.find? fun c => c.1 = 64 + i).isNone then old else if b then (.frame sh, u) else old
    | none =>
      if s.epMode = 2 ∧ st = 2 ∧ ¬ u.used.contains i then (.wait i, u)
      else
        match cls with
        | .c => old
        | .w => if st = 0 then old else (.frame sh, u)
        | .n =>
          if st = 0 then old
          else if s.setDone k then (.frame sh, { u with choices := (k, true) :: u.choices })
          else if bit w 1 then (.frame com, { u with choices := (k, false) :: u.choices, used := i :: u.used })
          else (.wait i, u)

/-- What an access with a tag to the versioned page of an address sees (R320-R324, R341). The order of the checks is the
model's (log entry 17). -/
def State.verPage (s : State) (u : EpUnit) (tag : Option (Nat × Bool)) (write : Bool) (page : Nat) : VerRes × EpUnit :=
  if s.epMode = 3 then (.fault 0x0B 0xFFFF_FFFF, u)
  else
    match s.entries.find? fun e => field e.2 21 31 * 2 ^ 21 = page with
    | none => (.fault 5 0xFFFF_FFFF, u)
    | some (i, _) =>
      match tag with
      | none => (.noClass, u)
      | some (t, w) =>
        match epClass s.epoch t w with
        | .error c => (.fault c i, u)
        | .ok cls => s.verEntry u cls write i

/-- Record an EPOCH fault (EP_FAULT_LAST). -/
def noteEpFault (code master idx : Nat) : M Unit := modify fun s =>
  let c := satInc 16 (s.fld .epFaultLast 48 16)
  s.setReg .epFaultLast (BitVec.ofNat 64 (code + master <<< 8 + (idx % 2 ^ 15) <<< 18 + c <<< 48))

/-- The directory is HALTED: STATE 3, and an EPOCH record (R341; log entry 130). -/
def epHalt : M Unit := do
  wrf .epStatus 32 3 3
  incident 0x0A 3 0xFF (unitWord 0 0) 0 ((← get).reg .epStatus)

/-- Entries are read: an uncorrectable error in one halts the directory (R341). -/
def epCheckAll (l : List Nat) : M Unit := do
  let s ← get
  whenM (s.epMode != 3 && l.any fun i => aread false s.epFlaws i) epHalt

/-- The entry of a page is read, by its FRAME0 (R341). -/
def epCheck (page : Nat) : M Unit := do
  match (← get).entries.find? fun e => field e.2 21 31 * 2 ^ 21 = page with
  | some (i, _) => epCheckAll [i]
  | none => skip

/-- What an untranslated landing transfer gets: an address, an EPOCH fault, or a wait in COMMITTING. -/
inductive LandRes where
  | go (a : Nat)
  | fault
  | wait
  deriving DecidableEq, Repr

/-- An untranslated landing transfer inside a registered frame is resolved against that frame's entry, a read as class C
and a write as class W; other addresses stand (R329). An EPOCH fault is reported as a denied access of the near bank, with a
CAUSE that the spec does not number (log entry 126). -/
def landVer (r : Req) (write : Bool) (a : Nat) : M LandRes := do
  let s ← get
  let page := a / 2 ^ 21 * 2 ^ 21
  match s.entries.find? fun e => s.epFrame e.1 0 = page ∨ s.epFrame e.1 1 = page with
  | none => return .go a
  | some (i, e) =>
    epCheck (field e 21 31 * 2 ^ 21)
    let s ← get
    let no (c i : Nat) : M LandRes := do
      noteEpFault c r.master.toNat i
      deny r write a ((s.nearLoc a).1 / 6) ((← draw).toNat % 16)
      return .fault
    if s.epMode = 3 then no 0x0B i
    else
      match (s.verEntry .empty (if write then .w else .c) write i).1 with
      | .frame f => return .go (f + a % 2 ^ 21)
      | .fault c i => no c i
      | _ => return .wait

/-- The epoch counters follow the entries (EP_COUNT, EP_STATUS.STATE). -/
def epCount : M Unit := modify fun (s : State) =>
  let l := s.entries
  let d := (l.filter fun e => epState e.2 != 0).length
  let z := (l.filter fun e => epState e.2 == 2).length
  let s := s.setReg .epCount (BitVec.ofNat 64 (l.length + d <<< 16 + z <<< 32))
  if s.epMode < 2 then s.setFld .epStatus 32 3 (if l.isEmpty then 0 else 1) else s

end Sys2Proof.Machine
end

