-- ==== Sys2Proof/Machine/RegBus.lean ====
section
/-! DEFINITION. Reads of registers over the bus, and what every register access is checked for before it takes effect (R6,
R245, R405, R306). -/

namespace Sys2Proof.Machine

/-- Registers of the Service world alone (R405). -/
def Reg.serviceOnly : Reg → Bool
  | .vbarS _ _ => true
  | .kspS _ _ => true
  | .dfstackS _ _ => true
  | .intTcmpS _ _ => true
  | .gateBase _ => true
  | .gateMask _ => true
  | _ => false

/-- Interrupt registers that hold bits of both worlds (R405). -/
def Reg.bothWorlds : Reg → Bool
  | .intPend _ _ => true
  | .intEn _ _ => true
  | .intSet _ _ => true
  | _ => false

/-- The checks of a register access, in order: R6, R405, the block's access table. Answers the register, nothing for
reserved space, or the cause of a denial, which has been reported. An aligned access to reserved space that the block's table
denies is reported as every denial is: R6 says that reserved space is not reported, R306 that every access is checked (log entry
139). -/
def regCheck (r : Req) (k : Acc) (a n : Nat) : M (Except Nat (Option (Blk × Reg))) := do
  match blkOfAddr a with
  | none =>
    deny r k.writes a 0xFFFF 5
    return .error 5
  | some b =>
    match regHit b (a - b.base) n with
    | .misaligned =>
      deny r k.writes a b.sel 6
      return .error 6
    | .reserved =>
      match ← checkLine r k a n with
      | some c => return .error c
      | none => return .ok none
    | .reg g =>
      if g.serviceOnly ∧ ¬ r.world then
        deny r k.writes a b.sel 1
        return .error 1
      else
        match ← checkLine r k a n with
        | some c => return .error c
        | none => return .ok (some (b, g))

/-- Accesses held in the replica of grove g under WAIT, of its threads and its ferries (VD_STAT.HELD, R326; log entry 127). -/
def State.heldIn (s : State) (g : Nat) : Nat :=
  let held : Hold → Bool := fun h => match h with | .epoch _ i _ => s.setWaits i | _ => false
  (s.threads.filter fun e => e.1 / 32 = g && held e.2.hold).length +
    (s.ferries.filter fun e => e.1 / 8 = g && e.2.any fun m => held m.hold).length

/-- What a register reads as: write-only fields read 0, the V and M windows show the vector unit, VD_STAT the accesses held now,
SB_STATUS the scoreboard entries in use, and the Service-world bits of an interrupt register read 0 to the Job world (R5, R86,
R214, R233, R326, R405). -/
def State.regRead (s : State) (world : Bool) : Reg → W64
  | .doorbell _ => 0
  | .vwin t v w => ((aread 0 s.vregs (t * 32 + v)) >>> (64 * w)).setWidth 64
  | .mwin t m w => ((aread 0 s.mregs (t * 8 + m)) >>> (64 * w)).setWidth 64
  | .vdStat g => setField (s.reg (.vdStat g)) 8 16 (s.heldIn g)
  | .sbStatus t => setField (s.reg (.sbStatus t)) 0 6 (s.tree t).sb.length
  | r =>
    let v := s.reg r &&& ~~~ fmask (r.fields.filter fun f => f.ty = .wo)
    if r.bothWorlds ∧ ¬ world then v &&& 0xFF else v

/-- Read a register over the bus: a denied read returns its cause. -/
def regBusRead (r : Req) (a n : Nat) : M (Except Nat (List Byte)) := do
  match ← regCheck r .rd a n with
  | .error c => return .error c
  | .ok none => return .ok (toLE 0 n)
  | .ok (some (_, g)) => return .ok (toLE ((← get).regRead r.world g).toNat n)

/-- An address lies in a register block. -/
def inRegs (a : Nat) : Bool := (blkOfAddr a).isSome

/-- The device physical address that a BAR0 offset reaches (R17, Table: Register regions in BAR0). -/
def bar0 (o : Nat) : Option Nat :=
  if o < 0x400_0000 then some (devBase + o)
  else if o < 0xC00_0000 then some (0xF8_1000_0000 + (o - 0x400_0000))
  else if o < 0x1000_0000 then some (0xF8_8000_0000 + (o - 0xC00_0000))
  else none

/-- The port takes no request from the host: a host reset or D3hot (R391, R393), or a halted ROM (R448). -/
def State.hostMute (s : State) (r : Req) : Bool :=
  r.master = 0x140 && (s.pcie.inReset || s.flag .pciestat 10 || s.sec.halted)

/-- A host read of n bytes at a BAR0 offset, as the port answers it (R17, R311, R391): nothing while the port takes no request,
but a halted ROM, where BAR0 decodes BOOT_STATUS alone and every other read returns 0 (R448). The table has no command for it;
the model gives it as the operation that REGISTER_WRITE is for writes (log entry 121). -/
def bar0Read (o n : Nat) : M (Option (List Byte)) := do
  let s ← get
  let r : Req := ⟨0x140, true⟩
  if s.pcie.inReset ∨ s.flag .pciestat 10 then return none
  else
    match bar0 o with
    | none => return some (toLE 0 n)
    | some a =>
      if s.sec.halted ∧ a / 8 ≠ Reg.bootStatus.addr / 8 then return some (toLE 0 n)
      else
        match ← regBusRead r a n with
        | .ok b => return some b
        | .error _ => return some (toLE 0 n)

end Sys2Proof.Machine
end

