-- ==== Sys2Proof/Machine/RegWrite.lean ====
section
/-! DEFINITION. How a register write is judged and what it stores: types and change classes (R5, R7, R45-R50), refusals
(R49), and the values that field tables call reserved encodings. The actions of writes are elsewhere. -/

namespace Sys2Proof.Machine

/-- A field lies outside a range that its table gives, so that the value is a reserved encoding. -/
def outside (v : W64) (lo n a b : Nat) : Bool := field v lo n < a || b < field v lo n

/-- A rule body is invalid (R307): reserved bits set, or START above LIMIT while enabled. -/
def badRule (w0 w1 : W64) : Bool :=
  field w0 0 7 != 0 || field w0 52 12 != 0 || field w1 0 7 != 0x7F || field w1 52 11 != 0
    || (bit w1 63 && decide (field w1 0 52 < field w0 0 52))

/-- Words 0 to 2 of the bodies of ACC_RULE and TT_ENTRY as a write of word 3 would commit them (R310, R352). -/
def State.shadowWord (s : State) (r : Reg) : W64 := (aget s.wordShadow r.addr).getD (s.reg r)

/-- An entry of the tide table is invalid (R350); an unused entry, of ACTION 0, is valid with its reserved bits 0. -/
def badTide (w1 w3 : W64) : Bool :=
  let act := field w1 0 8
  let arg0 := field w1 16 16
  let code := field w3 16 16
  8 < act || bit w1 8 || field w1 11 5 != 0 || field w3 10 6 != 0 || field w3 32 32 != 0
    || (if act = 8 then 0x8000 ≤ code else code != 0)
    || ((act = 3 || act = 7) && field w1 32 32 != 0)
    || (act = 1 && 0x1C00 ≤ arg0)
    || (act = 5 && (arg0 < 1 || 250 < arg0))
    || (act = 7 && 3 ≤ arg0 / 2 ^ 13)

/-- The value holds a reserved encoding in some field of the register. -/
def State.reserved (s : State) (r : Reg) (v : W64) : Bool :=
  match r with
  | .numcfg => outside v 0 5 8 24
  | .qctxBase _ => outside v 52 4 4 15 || field v 56 2 == 3
  | .fbCtrl _ => outside v 0 10 100 900
  | .nbScrub _ => outside v 1 5 10 20
  | .tlbInvCmd => field v 0 2 == 3
  | .priCtrl => outside v 0 14 100 10000
  | .accGroup _ => (List.range 8).any fun b => outside v (8 * b) 8 0 31 && field v (8 * b) 8 != 0xFF
  | .accRule b k i 3 => badRule (s.shadowWord (.accRule b k i 0)) (s.shadowWord (.accRule b k i 1))
  | .ttEntry i 3 => badTide (s.shadowWord (.ttEntry i 1)) v
  | .epCtrl => outside v 12 12 100 4000 || outside v 24 10 10 1000 || outside v 34 10 20 1000
  | .tideCfg => field v 0 2 == 3 || outside v 23 8 1 200
  | .landGctrl => outside v 0 10 10 1000 || field v 10 6 == 0
  | .incCtrl => outside v 11 3 0 4
  | .wdCtrl => outside v 0 16 100 60000
  | .pwrCtrl => outside v 0 11 1000 1900 || outside v 16 11 800 1500 || outside v 32 7 85 105
  | _ => false

/-- Registers that a write reaches during a re-rig: CFG_CLEAR, the error collector, and JOB_CTRL, which answers under R248
(R41). -/
def Reg.duringRerig : Reg → Bool
  | .cfgClear _ => true
  | .incRing => true
  | .incPtr => true
  | .incCtrl => true
  | .incOvf => true
  | .incStat => true
  | .incClr => true
  | .jobCtrl => true
  | _ => false

/-- A write would change a field of a kind that a condition selects. -/
def changes (r : Reg) (old v : W64) (p : Fld → Bool) : Bool :=
  (r.fields.filter p).any fun f => field old f.lo f.n != field v f.lo f.n

/-- The first refusal cause of a write, if it has one (R49). -/
def State.refusal (s : State) (r : Reg) (v : W64) : Option Nat :=
  if s.pstate = 2 ∧ ¬ r.duringRerig then some 4
  else if changes r (s.reg r) v fun f => f.cls = .rig then some 1
  else if s.jobRuns ∧ changes r (s.reg r) v fun f => f.ty = .rwl then some 2
  else if s.reserved r v then some 3
  else none

/-- The UNIT word of a register block. -/
def blkUnit : Blk → Nat
  | .dev => unitWord 0 0
  | .grove g => unitWord 1 g
  | .tree t => unitWord 2 t

/-- Refuse a register write (R49). -/
def refuse (b : Blk) (a code : Nat) : M Unit := do
  modify fun s =>
    let c := satInc 16 (s.fld (.cfgStatus b) 48 16)
    s.setReg (.cfgStatus b) (BitVec.ofNat 64 (code + ((a - b.base) % 2 ^ 26) <<< 8 + c <<< 48))
  incident 2 0 code (blkUnit b) (BitVec.ofNat 64 a) ((← get).reg (.cfgStatus b))

/-- The sub-block that owns a register's quiescent fields (R46, CFG_PENDING). -/
def Reg.subBlock : Reg → Option (Blk × Nat)
  | .srCtx t i => some (.tree ⟨t % 64, Nat.mod_lt _ (by decide)⟩, i)
  | .dispCtrl g => some (.grove ⟨g % 8, Nat.mod_lt _ (by decide)⟩, 15)
  | .tideCfg => some (.dev, 37)
  | _ => none

/-- The value that a register holds after an accepted write: RW and RWL fields take the value, a 1 in a W1C field clears it,
other fields stand (R5). -/
def written (r : Reg) (old v : W64) : W64 :=
  let m := fmask (r.fields.filter fun f => f.ty = .rw ∨ f.ty = .rwl)
  let c := fmask (r.fields.filter fun f => f.ty = .w1c)
  (old &&& ~~~ m &&& ~~~ (v &&& c)) ||| (v &&& m)

/-- Store an accepted write. A quiescent field takes effect at its sub-block's quiescent point and is pending until then
(R46); BASE, LOG2N and WORLD of a queue that is not stopped wait until it is (R240), and a queue that starts orders its held events
(R244). -/
def storeReg (r : Reg) (v : W64) : M Unit := modify fun (s : State) =>
  let old := s.stored r
  let t := s.setReg r (written r old v)
  match r.subBlock with
  | some (b, n) =>
    let t := t.setReg (.cfgPending b) (t.reg (.cfgPending b) ||| (1#64 <<< n))
    if (aget s.inEffect r.addr).isSome then t else { t with inEffect := aput s.inEffect r.addr old }
  | none =>
    match r with
    | .qctxBase q =>
      if field old 56 2 = 0 then (if t.fld r 56 2 = 0 then t else t.startEvents q)
      else if t.fld r 56 2 = 0 then { t with inEffect := adel t.inEffect r.addr }
      else { t with inEffect := aput s.inEffect r.addr (s.qctx q) }
    | _ => t

/-- QACTIVE clears when the block has no pending bit (R48). -/
def endQuiesce (b : Blk) : M Unit := do
  if (← get).reg (.cfgPending b) = 0 then wrf (.cfgCtrl b) 2 1 0

end Sys2Proof.Machine
end

