-- ==== Sys2Proof/Machine/Translate.lean ====
section
/-! DEFINITION. Translation: page-table walks, range caches, grove TLBs and walk caches (R294-R300), permissions (R297), the
host's translations (R303, R305), and the part's own look at each (R301, R302). -/

namespace Sys2Proof.Machine

/-- A master that translates: its pair (R18), whether it acts at user level, its grove, its tree for a crew thread, who
waits, and its epoch tag. -/
structure Port where
  req : Req
  user : Bool
  grove : Nat
  tree : Option Nat
  who : Waiter
  tag : Option (Nat × Bool)
  deriving DecidableEq, Repr

/-- Kinds of translated access (R297). -/
inductive Use where
  | read | write | atomic | fetch
  deriving DecidableEq, Repr

/-- Whether a kind of access writes. -/
def Use.writes : Use → Bool
  | .write => true
  | .atomic => true
  | _ => false

/-- The result of a translation: an address with its write policy, a code of Table: Address fault codes, an EPOCH fault, a
wait, or a manifest whose queue has class NONE. -/
inductive Tr where
  | ok (pa pol : Nat)
  | addr (code : Nat)
  | epoch (code idx : Nat)
  | wait (h : Hold)
  deriving DecidableEq, Repr

/-- A virtual address is canonical: bits [63:57] equal bit 56 (R90). -/
def canonical (va : Nat) : Bool :=
  let h := (va % 2 ^ 64) / 2 ^ 56
  h = 0 || h = 0xFF

/-- Bytes that a leaf of a level maps (R295). -/
def pageSize (level : Nat) : Nat := 2 ^ (12 + 9 * level)

/-- The physical address field of an entry. -/
def ptePA (e : W64) : Nat := field e 12 40 * 4096

/-- What an entry of a level is (R295, R296): not present, malformed, a table's address, or a leaf. -/
inductive Pte where
  | absent
  | bad
  | table (a : Nat)
  | leaf (pa attrs : Nat)
  deriving DecidableEq, Repr

/-- Judge an entry (R296). -/
def judgePte (level : Nat) (e : W64) : Pte :=
  if ¬ bit e 0 then .absent
  else if field e 9 3 ≠ 0 ∨ field e 52 12 ≠ 0 then .bad
  else if bit e 1 then
    if 3 ≤ level ∨ (bit e 3 ∧ ¬ bit e 2) ∨ ptePA e % pageSize level ≠ 0 ∨ (bit e 8 ∧ level ≠ 1) then .bad
    else .leaf (ptePA e) (field e 2 7)
  else if level = 0 ∨ field e 2 7 ≠ 0 ∨ ¬ inNear (ptePA e) then .bad
  else .table (ptePA e)

/-- Read one entry of a table, checked as a read by the requester; none ends the walk with WALK_ERROR (R298). -/
def readPte (r : Req) (a : Nat) : M (Option W64) := do
  match ← checkLine r .rd a 8 with
  | some _ => return none
  | none =>
    if (← get).lost a then return none
    else
      let bad ← storedLine (a / 128)
      let s ← get
      return if bad then none else some (BitVec.ofNat 64 (s.le a 8))

/-- The walk cache of a grove. -/
def State.walkCache (s : State) (g : Nat) : List WalkEnt := aread [] s.walks g

/-- Whether a running invalidation meets a range of a world, so that a walk installs nothing (R301). -/
def State.invMeets (s : State) (world : Bool) (lo hi : Nat) : Bool :=
  match s.tlbInv with
  | some (op, w, a, b) => op = 2 || (w = world && (op = 1 || (a ≤ hi && lo ≤ b)))
  | none => false

/-- Put an entry into a walk cache of 64 entries, the least recently used leaving (R300). -/
def noteWalk (g : Nat) (w : WalkEnt) : M Unit := modify fun s =>
  if s.invMeets w.world (w.tag * pageSize w.level) (w.tag * pageSize w.level + pageSize w.level - 1) then s
  else { s with walks := awrite [] s.walks g ((w :: (s.walkCache g).filter (· != w)).take 64) }

/-- Entry n of the aligned run of 16 entries of a line, as a leaf (R300). -/
def State.lineLeaf (s : State) (table level n : Nat) : Option (Nat × Nat) :=
  match judgePte level (BitVec.ofNat 64 (s.le (table + 8 * n) 8)) with
  | .leaf pa at_ => some (pa, at_)
  | _ => none

/-- How many entries below n, at most k, continue the run downward. -/
def State.runDown (s : State) (table level pa at_ : Nat) : Nat → Nat → Nat
  | 0, _ => 0
  | k + 1, n =>
    match s.lineLeaf table level (n - 1) with
    | some (q, b) =>
      if 0 < n ∧ b = at_ ∧ q + pageSize level = pa then 1 + s.runDown table level q at_ k (n - 1) else 0
    | none => 0

/-- How many entries above n, at most k, continue the run upward. -/
def State.runUp (s : State) (table level pa at_ : Nat) : Nat → Nat → Nat
  | 0, _ => 0
  | k + 1, n =>
    match s.lineLeaf table level (n + 1) with
    | some (q, b) => if b = at_ ∧ q = pa + pageSize level then 1 + s.runUp table level q at_ k (n + 1) else 0
    | none => 0

/-- The merged entry around entry n of a table (R300). -/
def State.mergeRun (s : State) (world : Bool) (table level n va pa at_ : Nat) : TlbEntry :=
  let z := pageSize level
  let d := s.runDown table level pa at_ (n % 16) n
  let u := s.runUp table level pa at_ (15 - n % 16) n
  ⟨world, false, va / z * z - d * z, (1 + d + u) * z, pa - d * z, at_, z⟩

/-- Walk from a table at a level down (R295, R296, R298). -/
def walkFrom (p : Port) (va : Nat) : Nat → Nat → M (Except Nat TlbEntry)
  | level, table => do
    let n := va / pageSize level % 512
    let tag := va / pageSize level
    let s ← get
    match (s.walkCache p.grove).find? fun w => w.world = p.req.world ∧ w.level = level ∧ w.tag = tag with
    | some w =>
      noteWalk p.grove w
      match level with
      | 0 => return .error 8
      | l + 1 => walkFrom p va l w.next
    | none =>
      match ← readPte p.req (table + 8 * n) with
      | none => return .error 8
      | some e =>
        match judgePte level e with
        | .absent => return .error 2
        | .bad => return .error 3
        | .leaf pa at_ => return .ok ((← get).mergeRun p.req.world table level n va pa at_)
        | .table a =>
          noteWalk p.grove ⟨p.req.world, level, tag, a⟩
          match level with
          | 0 => return .error 3
          | l + 1 => walkFrom p va l a

/-- The root of a world (R294). -/
def rootOf (world : Bool) : Reg := if world then .ptRootS else .ptRootJ

/-- The grove TLB's entries. -/
def State.tlb (s : State) (g : Nat) : List TlbEntry := aread [] s.tlbs g

/-- Entries that a grove TLB holds of a page size (R300). -/
def tlbCap (page : Nat) : Nat := if page = 4096 then 2048 else if page = 2 ^ 21 then 256 else 32

/-- An address range lies in an entry. -/
def TlbEntry.holds (e : TlbEntry) (a n : Nat) : Bool := e.va ≤ a && a + n ≤ e.va + e.len

/-- Ways of a grove TLB for a page size (R300). -/
def tlbWays (page : Nat) : Nat := if page < 2 ^ 30 then 8 else 32

/-- The set of an entry: that of the aligned run of 16 pages that it lies in, so that a merged run lies in one (R300; DESIGN
CHOICE, log entry 18). -/
def TlbEntry.set (e : TlbEntry) : Nat := e.va / (16 * e.page) % (tlbCap e.page / tlbWays e.page)

/-- Install an entry in a grove TLB as the most recently used of its set; the least recently used of the set leaves (R300; log
entry 18). -/
def installTlb (g : Nat) (e : TlbEntry) : M Unit := modify fun s =>
  let l := (s.tlb g).filter (· != e)
  let mate (x : TlbEntry) : Bool := x.page == e.page && x.set == e.set
  let same := (l.filter mate).take (tlbWays e.page - 1)
  { s with tlbs := awrite [] s.tlbs g (e :: (l.filter fun x => !mate x || same.contains x)) }

/-- The grove TLB's entry for an address, walking on a miss (R300). -/
def lookTlb (p : Port) (va : Nat) : M (Except Nat TlbEntry) := do
  let s ← get
  match (s.tlb p.grove).find? fun e => e.world = p.req.world ∧ ¬ e.ats ∧ e.holds va 1 with
  | some e =>
    installTlb p.grove e
    return .ok e
  | none =>
    let r := s.reg (rootOf p.req.world)
    if ¬ inNear (ptePA r) then return .error 8
    else
      match ← walkFrom p (va % 2 ^ 57) 4 (ptePA r) with
      | .error c => return .error c
      | .ok e =>
        let e := { e with va := e.va + (va - va % 2 ^ 57) }
        unless (← get).invMeets e.world (e.va % 2 ^ 57) (e.va % 2 ^ 57 + e.len - 1) do installTlb p.grove e
        return .ok e

/-- Put an entry into a range cache of 32 entries (R299). -/
def installRc (t : Nat) (e : TlbEntry) : M Unit := modify fun s =>
  if s.invMeets e.world (e.va % 2 ^ 57) (e.va % 2 ^ 57 + e.len - 1) then s
  else
    let x := s.tree t
    s.setTree t { x with rc := (e :: x.rc.filter (· != e)).take 32 }

/-- The entry that translates an address of an operand [o, o + n): from the range cache of a crew thread when the whole
operand lies in it, else from the grove TLB (R97, R299). -/
def lookup (p : Port) (far : Bool) (o n va : Nat) : M (Except Nat TlbEntry) := do
  match p.tree, far with
  | some t, false =>
    match ((← get).tree t).rc.find? fun e => e.world = p.req.world ∧ e.holds o n with
    | some e =>
      installRc t e
      return .ok e
    | none =>
      match ← lookTlb p va with
      | .ok e =>
        installRc t e
        return .ok e
      | .error c => return .error c
  | _, _ => lookTlb p va

/-- The first permission that an access lacks, in the order R, W, X, U (R297). -/
def permFault (at_ : Nat) (u : Use) (user : Bool) : Option Nat :=
  if (u = .read ∨ u = .atomic) ∧ ¬ at_.testBit 0 then some 4
  else if u.writes ∧ ¬ at_.testBit 1 then some 5
  else if u = .fetch ∧ ¬ at_.testBit 2 then some 6
  else if user ∧ ¬ at_.testBit 3 then some 7
  else none

/-- Send an ATS Translation Request (R303); with 2,048 outstanding the access waits (R386). -/
def sendAts (q : AtsReq) : M Nat := do
  let s ← get
  if 2048 ≤ s.atsReqs.length then throw (.hold .issue)
  let k := s.pageNext
  set { s with pageNext := k + 1, atsReqs := aput s.atsReqs k q }
  modify fun s => s.addFld .atsStat 32 32 1
  send (.atsRequest k q.addr q.noWrite)
  return k

/-- The bus address of a host-window access: untranslated while ATS is off, a cached translation, or one asked for (R303,
R305). An access whose translation has failed is told so, whatever ATS is by then. -/
def hostTr (p : Port) (write noWrite : Bool) (pol pa : Nat) : M Tr := do
  let s ← get
  let a := pa - hostBase
  if s.hostFails.contains (p.who, a / 4096) then
    set { s with hostFails := s.hostFails.erase (p.who, a / 4096) }
    return .addr 9
  if ¬ s.pcie.ats then return .ok pa pol
  match s.onces.find? fun o => o.1 = p.who ∧ o.2.1 = a / 4096 with
  | some o =>
    set { s with onces := s.onces.erase o }
    return .ok (hostBase + o.2.2 * 4096 + a % 4096) pol
  | none =>
    match (s.tlb p.grove).find? fun e => e.ats ∧ e.world = p.req.world ∧ e.holds a 1 ∧ (¬ write ∨ e.attrs.testBit 1) with
    | some e =>
      installTlb p.grove e
      return .ok (hostBase + e.pa + (a - e.va)) pol
    | none =>
      match s.atsReqs.find? fun q => q.2.who = some p.who ∧ q.2.addr = a / 4096 * 4096 with
      | some q => return .wait (.ats q.1)
      | none =>
        match s.pageReqs.find? fun q => q.2.who = some p.who ∧ q.2.addr = a / 4096 * 4096 with
        | some q => return .wait (.page q.1)
        | none =>
          let k ← sendAts ⟨some p.who, a / 4096 * 4096, noWrite, p.req.world, p.grove, write, false, []⟩
          return .wait (.ats k)

/-- The number of a waiter's read unit: a ferry's descriptor, or from 64 on a thread's instruction (R325). -/
def unitOf : Waiter → Nat
  | .ferry f => f.val
  | .thread t => 64 + t.tree.val * 4 + t.th.val

/-- Resolve a versioned page (R320-R326): its frame, a fault, or a wait. -/
def resolve (p : Port) (u : Use) (va page : Nat) : M (Except Tr Nat) := do
  epCheck page
  let s ← get
  let (res, un) := s.verPage (aread .empty s.epUnits (unitOf p.who)) p.tag u.writes page
  set { s with epUnits := awrite .empty s.epUnits (unitOf p.who) un }
  match res with
  | .frame a => return .ok a
  | .fault c i =>
    noteEpFault c p.req.master.toNat i
    return .error (.epoch c i)
  | .wait i => return .error (.wait (.epoch va i false))
  | .noClass => return .error (.epoch 0 0xFFFF_FFFF)

/-- The entry and the physical address of a virtual address after the permission check, before its page is resolved. An access
in a world whose root is not in use finds nothing, whatever is cached (R294). -/
def trLeaf (p : Port) (u : Use) (far : Bool) (o n va : Nat) : M (Except Nat (TlbEntry × Nat)) := do
  if ¬ canonical va then return .error 1
  else if ¬ (← get).flag (rootOf p.req.world) 0 then return .error 2
  else
    match ← lookup p far o n va with
    | .error c => return .error c
    | .ok e =>
      match permFault e.attrs u p.user with
      | some c => return .error c
      | none => return .ok (e, e.pa + (va - e.va))

/-- Translate one address of an operand [o, o + n) (R293-R305). -/
def translate (p : Port) (u : Use) (far : Bool) (o n va : Nat) : M Tr := do
  match ← trLeaf p u far o n va with
  | .error c => return .addr c
  | .ok (e, pa) =>
    let pol := e.attrs / 16 % 4
    let pa' ← (if e.attrs.testBit 6 then resolve p u va (pa / 2 ^ 21 * 2 ^ 21) else return .ok (pa / 2 ^ 21 * 2 ^ 21))
    match pa' with
    | .error t => return t
    | .ok f =>
      let a := f + pa % 2 ^ 21
      if inHost a then hostTr p u.writes (!e.attrs.testBit 1) pol a else return .ok a pol

/-- The parts of n bytes from a virtual address that lie in one 4 KiB page each. -/
def pageParts (va n : Nat) : List (Nat × Nat) :=
  if n = 0 then []
  else (List.range ((va + n - 1) / 4096 - va / 4096 + 1)).map fun i =>
    let lo := max va ((va / 4096 + i) * 4096)
    (lo, min (va + n) ((va / 4096 + i + 1) * 4096) - lo)

end Sys2Proof.Machine
end

