-- ==== Sys2Proof/Machine/Queues.lean ====
section
/-! DEFINITION. Hardware queues: rings, doorbells, event queues, the dispatchers' records and the ends of work items
(R239-R252). -/

namespace Sys2Proof.Machine

/-- HEAD of a queue. -/
def State.qHead (s : State) (q : Nat) : Nat := s.fld (.qctxPtr q) 0 32

/-- TAIL of a queue. -/
def State.qTail (s : State) (q : Nat) : Nat := s.fld (.qctxPtr q) 32 32

/-- Bytes of an entry of a queue (Table: Hardware queues). -/
def entrySize (q : Nat) : Nat := if 0x1C00 ≤ q then 32 else 64

/-- The address of entry i of a queue (R240). -/
def State.qAddr (s : State) (q i : Nat) : Nat :=
  field (s.qctx q) 12 40 * 4096 + i % 2 ^ field (s.qctx q) 52 4 * entrySize q

/-- The master that consumes a queue, or writes its events (R19). -/
def State.qMaster (s : State) (q : Nat) : Nat :=
  if q < 0x800 then 0x190 + s.owner q % 8
  else if q < 0x1800 then 0x100 + (q - 0x800) / 64
  else if q < 0x1C00 then 0x150 + (q - 0x1800) / 64
  else 0x198

/-- The pair of a queue's consumer (R18, R19). -/
def State.qReq (s : State) (q : Nat) : Req := ⟨BitVec.ofNat 10 (s.qMaster q), s.qWorld q⟩

/-- The running queues that hold entries, among those of a consumer (R251, R283). -/
def State.waitingQueues (s : State) (p : Nat → Bool) : List Nat :=
  s.liveQueues.filter fun q => p q && s.qState q == 1 && s.qHead q != s.qTail q

/-- The queue that a consumer visits next: its waiting queues are visited in rotating order, from the one above the last (R251,
R283). Consumer n < 8 is the dispatcher of grove n, and 8 + f is ferry f. -/
def State.visits (s : State) (n : Nat) (p : Nat → Bool) : Option Nat :=
  let l := s.waitingQueues p
  match l.find? fun q => aread 0 s.turns n ≤ q with
  | some q => some q
  | none => l.head?

/-- The queue that the dispatcher of a grove visits next. -/
def State.dispTurn (s : State) (g : Nat) : Option Nat := s.visits g fun q => q < 0x800 && s.owner q == g

/-- A consumer's visit of a queue is over. -/
def visited (n q : Nat) : M Unit := modify fun s => { s with turns := awrite 0 s.turns n (q + 1) }

/-- Stop a queue with an error and raise its QUEUE_ERROR event: CODE is ERR, and the payload the queue ID and HEAD (R241;
log entry 19). -/
def stopQueue (q err : Nat) : M Unit := do
  setQState q 0
  wrf (.qctxBase q) 61 3 err
  let s ← get
  event (s.fld (.qctxStat q) 11 10) 0x0005 err (BitVec.ofNat 64 q) (BitVec.ofNat 64 (s.qHead q))

/-- Read n bytes of memory as a master that is no crew thread, line by line: nothing when an access is denied, with the
denied address; else the bytes, and whether any is poisoned. -/
def readPhys (r : Req) (a n : Nat) : M (Except Nat (List Byte × Bool)) := do
  match ← checkAcc r .rd a n with
  | some (_, d) => return .error d
  | none => return .ok (← busReadAll 3 (lineParts a n))

/-- n bytes from an address lie in the near bank, or where the flag says so in the host window. -/
def inFetch (host : Bool) (a n : Nat) : Bool :=
  (inNear a && inNear (a + n - 1)) || (host && inHost a && inHost (a + n - 1))

/-- Bytes that the boot processor fetches from the near bank, or from the host window too, and whether they cannot be used:
poisoned, or elsewhere. An address that the map does not hold is reported (R14). -/
def bootFetch (host : Bool) (a n : Nat) : M (List Byte × Bool) := do
  let r : Req := ⟨0x180, true⟩
  if inFetch host a n then
    match ← readPhys r a n with
    | .error _ => return ([], true)
    | .ok x => return x
  else
    let _ ← checkAcc r .rd a n
    return ([], true)

/-- Write bytes as a master that is no crew thread: the address denied, or nothing. A write that names a register waits as a register
write, which the command that causes it ends with (R5, R6). -/
def writePhys (r : Req) (a : Nat) (bs : List Byte) : M (Option Nat) := do
  if inRegs a then
    match ← regCheck r .wr a bs.length with
    | .error _ => return some a
    | .ok _ =>
      modify fun s => { s with posted := s.posted ++ [⟨r, a, bs, false⟩] }
      return none
  else
  match ← checkAcc r .wr a bs.length with
  | some (_, d) => return some d
  | none =>
    busWriteAll 3 false bs a (lineParts a bs.length)
    return none

/-- HEAD of a queue takes a value, and is written to the shadow address where SHADOW is enabled (R240). -/
def setHead (q v : Nat) : M Unit := do
  wrf (.qctxPtr q) 0 32 v
  let s ← get
  if s.flag (.qctxBase q) 59 then
    match ← writePhys (s.qReq q) (s.fld (.qctxShadow q) 2 50 * 4) (toLE (v % 2 ^ 32) 4) with
    | some _ => stopQueue q 5
    | none => skip

/-- The bus address of a queue's consumer for its own ring: a ferry's grove TLB translates one in the host window while ATS is on
(R300, R303); every other address stands. -/
def ringAt (q : Nat) (write : Bool) (a : Nat) : M Tr := do
  let s ← get
  if h : 0x800 ≤ q ∧ q < 0x1800 ∧ inHost a = true then
    let f : Fin 64 := ⟨(q - 0x800) / 64, by omega⟩
    hostTr ⟨s.qReq q, false, f / 8, none, .ferry f, none⟩ write false 3 a
  else return .ok a 3

/-- Read the entry at HEAD of a queue: its bytes and whether they are poisoned, nothing while its translation is awaited, or the
address denied. A translation that fails gives poison (DESIGN CHOICE, log entry 161). -/
def readHead (q : Nat) : M (Except Nat (Option (List Byte × Bool))) := do
  let s ← get
  match ← ringAt q false (s.qAddr q (s.qHead q)) with
  | .wait _ => return .ok none
  | .ok a _ =>
    match ← readPhys (s.qReq q) a (entrySize q) with
    | .error d => return .error d
    | .ok x => return .ok (some x)
  | _ => return .ok (some ([], true))

/-- The entry at HEAD of a running queue that holds entries: nothing when there is none to take or its SEQ does not match
yet. A denied read stops the queue (R311); a poisoned entry holds no SEQ (R241). -/
def headEntry (q : Nat) : M (Option (List Byte)) := do
  let s ← get
  if s.qState q ≠ 1 ∨ s.qHead q = s.qTail q then return none
  else
    match ← readHead q with
    | .error _ =>
      stopQueue q 5
      return none
    | .ok none => return none
    | .ok (some (bs, p)) => return if p ∨ leAt bs 0 2 ≠ s.qHead q % 2 ^ 16 then none else some bs

/-- The SEQ at HEAD mismatches, so that the queue stops after 2 µs (R241). -/
def seqMismatch (q : Nat) : M Bool := do
  let s ← get
  if s.qState q ≠ 1 ∨ s.qHead q = s.qTail q ∨ 0x1C00 ≤ q then return false
  else
    match ← readHead q with
    | .error _ =>
      stopQueue q 5
      return false
    | .ok none => return false
    | .ok (some (bs, p)) => return p || leAt bs 0 2 != s.qHead q % 2 ^ 16

/-- Write the events held for a queue while it has room (R244). -/
def writeHeld (q : Nat) : Nat → M Unit
  | 0 => skip
  | n + 1 => do
    let s ← get
    match aread [] s.heldEvents q with
    | [] => skip
    | e :: r =>
      if s.qState q = 0 ∨ s.qRoom q = 0 then skip
      else
        let (t, l) := writeEvent { s with heldEvents := awrite [] s.heldEvents q r } (q - 0x1C00) e
        set t
        raise l
        writeHeld q n

/-- The EVENTS_LOST event of an event queue, once the held events are written and space remains (R244). -/
def writeLost (q : Nat) : M Unit := do
  writeHeld q 32
  let s ← get
  if (aread [] s.heldEvents q).isEmpty ∧ s.qState q ≠ 0 ∧ 0 < s.qRoom q ∧ s.fld (.qctxStat q) 52 12 ≠ 0 then
    let (t, l) := writeEvent s (q - 0x1C00) (lostEvent s q)
    set t
    raise l

/-- Raise an incident of class QUEUE with a code. -/
def queueIncident (q code : Nat) : M Unit := do
  incident 0x08 0 code (unitWord 9 q) 0 ((← get).reg (.qctxStat q))

/-- A doorbell write is refused (R247). -/
def State.bellRefused (s : State) (world : Bool) (q : Nat) : Bool :=
  s.qState q = 0 || ((q < 0x800 || 0x1C00 ≤ q) && s.owner q = 0xFF) || (q < 0x800 && !s.jobRuns)
    || (!world && s.qWorld q)

/-- A doorbell write of 8 bytes (R245-R247). -/
def ringBell (r : Req) (q : Nat) (v : W64) : M Unit := do
  let s ← get
  let n := v.toNat
  if 2 ^ 32 ≤ n ∨ s.bellRefused r.world q then queueIncident q 1
  else
    let head := s.qHead q
    let tail := s.qTail q
    let cur := if 0x1C00 ≤ q then head else tail
    let d := (n + 2 ^ 32 - cur) % 2 ^ 32
    let past :=
      if 0x1C00 ≤ q then decide ((tail + 2 ^ 32 - head) % 2 ^ 32 < d)
      else decide (2 ^ field (s.qctx q) 52 4 < (n + 2 ^ 32 - head) % 2 ^ 32)
    if d = 0 then skip
    else if 2 ^ 31 ≤ d then bump (.qctxStat q) 32 12
    else if past then
      bump (.qctxStat q) 44 8
      queueIncident q 2
    else if 0x1C00 ≤ q then
      setHead q n
      writeHeld q 32
    else wrf (.qctxPtr q) 32 32 n

/-- A command record holds only zeros in its reserved bytes (R242). -/
def recordOk (b : List Byte) : Bool :=
  let z (lo n : Nat) := ((b.drop lo).take n).all (· == 0)
  let op := leAt b 2 1
  z 5 3 && z 0x2A 22 && (op == 1 || op == 2 || op == 3)

/-- The dispatcher of a grove takes no new work: its quiescent fields are asked for (R48). -/
def State.dispHeld (s : State) (g : Nat) : Bool :=
  let b : Blk := .grove ⟨g % 8, Nat.mod_lt _ (by decide)⟩
  s.flag (.cfgCtrl b) 2 && s.flag (.cfgPending b) 15

/-- A dispatcher's visit of a command queue, for a record of an OP: the record at HEAD, if it may be taken (R243, R251). A bad
record stops the queue with ERR 0x3 (R242). A visit that finds a barrier, or an entry whose SEQ does not match yet, passes on to
the next queue (log entry 123). -/
def takeRecord (q op : Nat) : M (Option (List Byte)) := do
  let s ← get
  let g := s.owner q
  if 8 ≤ g ∨ ¬ s.jobRuns ∨ s.flag .partState 0 ∨ s.dispHeld g ∨ s.dispTurn g ≠ some q then return none
  else if aread false s.barriers q then
    visited g q
    return none
  else
    match ← headEntry q with
    | none =>
      visited g q
      return none
    | some b =>
      if ¬ recordOk b then
        visited g q
        stopQueue q 3
        return none
      else if leAt b 2 1 ≠ op then return none
      else
        visited g q
        return some b

/-- The crew threads that run a work item of a queue. -/
def State.itemsOf (s : State) (q : Nat) : List Nat :=
  (s.threads.filter fun e => match e.2.item with | some (p, _) => p = q | none => false).map (·.1)

/-- A thread runs a work item (DISP_STATUS.ITEMS). -/
def State.busy (s : State) (k : Nat) : Bool := s.flag (.dispStatus (k / 32)) (k % 32)

/-- A thread that a RUN may start on: parked, without a work item, in a tree that is not fenced (R250, R412, R428). -/
def State.free (s : State) (k : Nat) : Bool :=
  !s.busy k && s.flag (.excStatus (k / 4) (k % 4)) 1 && !s.flag (.treeHealth (k / 4)) 0

/-- Local trees of a grove in the order of the default placement: fewest running work items, then lowest (R250). -/
def State.placement (s : State) (g : Nat) (allowed : Nat → Bool) : Option Nat :=
  let load (l : Nat) := ((List.range 4).filter fun t => s.busy (g * 32 + l * 4 + t)).length
  let ls := (List.range 8).filter fun l => allowed l && (List.range 4).any fun t => s.free (g * 32 + l * 4 + t)
  let best := ls.foldl (fun m l => match m with | none => some l | some b => if load l < load b then some l else some b)
    (none : Option Nat)
  match best with
  | none => none
  | some l => ((List.range 4).find? fun t => s.free (g * 32 + l * 4 + t)).map fun t => g * 32 + l * 4 + t

/-- Give a thread the state that a RUN record names (R250). -/
def startThread (k q : Nat) (b : List Byte) : M Unit := do
  let t := k / 4
  let h := k % 4
  let w (sel v : Nat) : M Unit := wr (.thr t h sel) (BitVec.ofNat 64 v)
  forAll (List.range 15) fun n => w n 0
  w 0 (leAt b 0x10 8)
  w 0xF (leAt b 0x20 8)
  w 0x1B (leAt b 8 8)
  w 0x10 (1 <<< 32)
  w 0x15 0
  w 0x16 1
  w 0x17 0
  w 0x18 0
  w 0x19 0
  applyPending (.srCtx t h)
  wr (.srCtx t h) (BitVec.ofNat 64 (leAt b 4 1 % 64))
  wrf (.cfgPending (.tree ⟨t % 64, Nat.mod_lt _ (by decide)⟩)) h 1 0
  endQuiesce (.tree ⟨t % 64, Nat.mod_lt _ (by decide)⟩)
  wr (.srStream t h) (BitVec.ofNat 64 (leAt b 0x18 8))
  wrf (.excStatus t h) 1 2 0
  wrf (.intPend t h) 0 8 0
  modify fun s =>
    let s := s.setFld (.dispStatus (k / 32)) (k % 32) 1 1
    let s := s.addFld (.dispStatus (k / 32)) 32 32 1
    s.setThread k { s.thread k with item := some (q, leAt b 0 2), hold := .none, arithConds := 0 }

/-- The ITEM_STATUS event of a work item that ends with a status other than 0: the status, the queue ID and SEQ in 32 bits
each, CODE 0 (R252; log entry 19). -/
def itemStatus (g q seq : Nat) (status : W64) : M Unit := do
  event ((← get).fld (.dispCtrl g) 0 10) 0x0004 0 (BitVec.ofNat 64 (status.toNat % 2 ^ 32 + q <<< 32)) (BitVec.ofNat 64 seq)

/-- The dispatcher takes a RUN at HEAD of a command queue (R250, R251): it waits while the dispatcher is paused, the job is
ending (R248), or no allowed thread is free; a RUN whose AFFINITY allows only fenced trees ends at once (R428). -/
def dispatchRun (q : Nat) : M Unit := do
  match ← takeRecord q 1 with
  | none => skip
  | some b =>
    let s ← get
    let g := s.owner q
    let aff := leAt b 3 1
    if bit (s.effReg (.dispCtrl g)) 10 ∨ s.flag .jobStatus 8 then skip
    else
      let fenced := (List.range 8).all fun l => !(aff = 0 || aff.testBit l) || s.flag (.treeHealth (8 * g + l)) 0
      match s.placement g fun l => aff = 0 || aff.testBit l with
      | none =>
        if fenced then
          itemStatus g q (leAt b 0 2) 0xFFFF_FFFD
          setHead q (s.qHead q + 1)
      | some k =>
        startThread k q b
        setHead q (s.qHead q + 1)

/-- The dispatcher takes a BARRIER at HEAD: later records wait while an earlier RUN has not ended (R243). -/
def dispatchBarrier (q : Nat) : M Unit := do
  match ← takeRecord q 2 with
  | none => skip
  | some _ =>
    let s ← get
    set { s with barriers := awrite false s.barriers q (!(s.itemsOf q).isEmpty) }
    setHead q (s.qHead q + 1)

/-- A BARRIER's earlier RUNs have all ended (R243). -/
def clearBarrier (q : Nat) : M Unit := modify fun s =>
  if (s.itemsOf q).isEmpty then { s with barriers := awrite false s.barriers q false } else s

/-- The dispatcher takes a SIGNAL at HEAD once every earlier RUN has ended, and writes its event with CODE 0 (R243; log
entry 19). -/
def dispatchSignal (q : Nat) : M Unit := do
  match ← takeRecord q 3 with
  | none => skip
  | some b =>
    let s ← get
    if ¬ (s.itemsOf q).isEmpty then skip
    else
      event (leAt b 0x28 2 % 1024) 0x0003 0 (BitVec.ofNat 64 (leAt b 0x10 8)) 0
      setHead q (s.qHead q + 1)

/-- A thread's work item ends with a status (R252). -/
def endItem (k : Nat) (status : W64) : M Unit := do
  let s ← get
  match (s.thread k).item with
  | none => skip
  | some (q, seq) =>
    set ((s.setThread k { s.thread k with item := none }).setFld (.dispStatus (k / 32)) (k % 32) 1 0)
    whenM (status ≠ 0) (itemStatus (k / 32) q seq status)

/-- Start a queue that is held for tide start: STATE 2 becomes 1 (R247); false when its STATE is not 2. -/
def tideStart (q : Nat) : M Bool := do
  if (← get).qState q = 2 then
    setQState q 1
    return true
  else return false

end Sys2Proof.Machine
end

