-- ==== Sys2Proof/Machine/Recover.lean ====
section
/-! DEFINITION. Recoveries: thread reset, containment, fencing, withdrawal, channel failure and heartwood spares (R424-R432). -/

namespace Sys2Proof.Machine

/-- FLAGS of a parked thread: WORLD 1, LEVEL 1, IE 1 (R412). -/
def parkedFlags : W64 := 0x7_0000_0000

/-- Park a thread (R412). -/
def park (k : Nat) : M Unit := modify fun (s : State) =>
  (s.setReg (.thr (k / 4) (k % 4) 0x10) parkedFlags).setFld (.excStatus (k / 4) (k % 4)) 1 1 1

/-- A state in which the read unit of a waiter has ended (R325). -/
def State.endUnit (s : State) (w : Waiter) : State := { s with epUnits := adel s.epUnits (unitOf w) }

/-- Requests that a waiter made answer to nobody any more, and its read unit has ended (R305, R325, R430). -/
def State.forget (s : State) (w : Waiter) : State :=
  { s.endUnit w with
    atsReqs := s.atsReqs.map fun e => (e.1, if e.2.who = some w then { e.2 with who := none } else e.2)
    pageReqs := s.pageReqs.map fun e => (e.1, if e.2.who = some w then { e.2 with who := none } else e.2)
    onces := s.onces.filter fun o => o.1 != w
    hostFails := s.hostFails.filter fun o => o.1 != w }

/-- The waiter of a thread, by tree * 4 + thread. -/
def waiterOf (k : Nat) : Waiter :=
  .thread ⟨⟨k / 4 % 64, Nat.mod_lt _ (by decide)⟩, ⟨k % 4, Nat.mod_lt _ (by decide)⟩⟩

/-- A state in which thread k gives up the engine instruction that waits before its fault point (R115, R228). -/
def State.unissue (s : State) (k : Nat) : State :=
  let x := s.tree (k / 4)
  if x.sb.any fun e => e.th = k && e.early then s.setTree (k / 4) { x with sb := x.sb.filter fun e => !(e.th = k && e.early) }
  else s

/-- A state in which a double fault of thread k is over: its handling, which no time ends (R422, R439). -/
def State.endDouble (s : State) (k : Nat) : State :=
  { s with handled := s.handled.filter fun h => !(h.dom == .thread k && h.until_.isNone) }

/-- A thread reset (R430). A pending ARITH is discarded with the deliveries (log entry 21). -/
def resetThread (k : Nat) : M Unit := do
  let t := k / 4
  let h := k % 4
  endItem k 0xFFFF_FFFF
  modify fun s => (s.unissue k).endDouble k
  modify fun s => (s.setThread k { ThreadSt.idle with
    starts := (s.thread k).starts, pastJ := (s.thread k).pastJ, pastS := (s.thread k).pastS }).forget (waiterOf k)
  forAll (List.range 16 ++ [0x11, 0x12, 0x13, 0x14, 0x17, 0x18, 0x19]) fun n => wr (.thr t h n) 0
  wr (.epTag t h) 0
  wrf (.intPend t h) 0 8 0
  wrf (.excStatus t h) 0 1 0
  wrf (.excStatus t h) 2 1 0
  bump (.treeHealth t) 16 16
  park k

/-- Pending tallies whose instruction read one of some tiles do not find it as it was (R162). -/
def TreeSt.stale (x : TreeSt) (hit : List Nat → Bool) : TreeSt :=
  { x with tallies := x.tallies.map fun (e : Nat × List Tally) =>
      (e.1, e.2.map fun (y : Tally) => if hit y.tiles then { y with stale := true } else y) }

/-- The vector registers, mask registers and tile file of a tree become zero. -/
def zeroTree (t : Nat) : M Unit := modify fun (s : State) =>
  let s := { s with
    vregs := s.vregs.filter fun e => e.1 / 32 != t
    mregs := s.mregs.filter fun e => e.1 / 8 != t
    tiles := s.tiles.filter fun e => e.1 / (8 * 65536) != t }
  s.setTree t ((s.tree t).stale fun _ => true)

/-- Fence a tree (R428); its record is secondary where a domain is being handled (R439). -/
def fenceTree (d : Option Dom) (t : Nat) : M Unit := do
  forAll (List.range 4) fun h => resetThread (4 * t + h)
  zeroTree t
  forAll (List.range 16) fun n => wrf (.mxArray t n) 22 1 0
  wrf (.treeHealth t) 0 1 1
  wrf .structStatus 18 1 1
  reportIn d 0x10 3 3 (unitWord 2 t) 0 (.treeHealth t)

/-- A thread is being reset (R430, R439). -/
def State.inReset (s : State) (k : Nat) : Bool :=
  s.handled.any fun h => h.dom == .thread k && h.until_.any fun u => decide (s.now < u)

/-- A thread of a tree that is being reset (R439). -/
def State.resetting (s : State) (t : Nat) : Option Dom :=
  ((List.range 4).find? fun h => s.inReset (4 * t + h)).map fun h => .thread (4 * t + h)

/-- Containment of a tree that poison at an address would have entered (R425). A trigger while it is under containment fences it, and
one while a thread of it is being reset is secondary (R440). -/
def contain (t a : Nat) : M Unit := do
  let s ← get
  if (s.handling (.tree t)).isSome then fenceTree (some (.tree t)) t
  else
    forAll (List.range 4) fun h => resetThread (4 * t + h)
    zeroTree t
    forAll (List.range 8) fun n => wr (.tshape t n) 0
    bump (.treeHealth t) 8 8
    reportIn (s.resetting t) 0x10 2 2 (unitWord 2 t) (BitVec.ofNat 64 a) (.treeHealth t)
    recovers (.tree t) 100 0x10 2 (unitWord 2 t)

/-- The address of a bank row of a heartwood. -/
def rowAt (t bank row : Nat) : Nat := heartOf t + (row * 32 + bank) * 128

/-- A heartwood bank fails, which fences its tree (R427, R440). -/
def failBank (t bank row : Nat) : M Unit := do
  reportIn (some (.bank t bank)) 0x04 3 4 (unitWord 2 t) (BitVec.ofNat 64 (rowAt t bank row)) (.hwErr t)
  fenceTree none t

/-- Take a spare line for a bank row of a tree (R427). The bank fails when it has none left, when the copy fails, or when the error was
found while it was copying into another spare (R440). -/
def remap (t bank row : Nat) (inCopy copied : Bool) : M Unit := do
  let s ← get
  let used := ((s.tree t).spares.filter fun e => e.1 = bank).length
  if 16 ≤ used ∨ inCopy ∨ ¬ copied then failBank t bank row
  else
    modify fun (s : State) =>
      let s := s.setTree t { s.tree t with spares := (bank, row) :: (s.tree t).spares }
      let s := (s.setFld (.hwSpare t) 0 5 bank).setFld (.hwSpare t) 5 10 row
      let s := s.setFld (.hwSpare t) 15 10 (s.fld (.hwSpare t) 15 10 + 1)
      if used = 15 then s.setFld (.hwSpare t) (25 + bank) 1 1 else s
    survive (.bank t bank) 5 0x04 2 3 (unitWord 2 t) (BitVec.ofNat 64 (rowAt t bank row)) (.hwErr t)

end Sys2Proof.Machine
end

