-- ==== Sys2Proof/Machine/Tiers.lean ====
section
/-! DEFINITION. The memory tiers' own events: refresh, patrol scrubs, retraining, heartwood write-backs, canopy fills and
maintenance, and the far-bank ports (R121-R123, R264-R282). -/

namespace Sys2Proof.Machine

/-- A controller issues a refresh (R264): one of those that a hint asked for, while some are left. -/
def refreshNb (c : Nat) : M Unit := modify fun (s : State) =>
  { s with hints := awrite 0 s.hints c (aread 0 s.hints c - 1) }

/-- Passes of the patrol scrub over all six channels of a grove. -/
def State.nbPasses (s : State) (g : Nat) : Nat :=
  ((List.range 6).map fun l => aread 0 s.nbScrubbed (6 * g + l) / 2 ^ 21).foldl min (2 ^ 64)

/-- A state after channel c has scrubbed a row. -/
def State.scrubbedRow (s : State) (c : Nat) : State :=
  let t := { s with nbScrubbed := awrite 0 s.nbScrubbed c (aread 0 s.nbScrubbed c + 1) }
  if s.nbPasses (c / 6) = t.nbPasses (c / 6) then t else t.addFld (.nbScrub (c / 6)) 32 32 1

/-- A symbol error comes about in a line of a channel (R266; log entry 136): in the device. A check byte that the buffer of its row
holds is not struck, and the device's copy takes the error until the row is closed (R262). -/
def State.strikeNear (s : State) (c : Nat) (e : NearErr) : State :=
  match s.buffered c e.row with
  | some o =>
    let o := { o with late := o.late ++ [(e.slot.val, e.sym.val, e.flip.toNat)] }
    if 128 ≤ e.sym.val then { s with openRows := aput s.openRows (rowBank c e.row) o }
    else s.strike (s.nearAddr c e.row e.slot / 128) [(e.sym, e.flip.toNat)]
  | none => s.strike (s.nearAddr c e.row e.slot / 128) [(e.sym, e.flip.toNat)]

/-- An error comes about in the row tag of a row, in the same way. -/
def State.strikeRow (s : State) (c : Nat) (e : TagErr) : State :=
  match s.buffered c e.row with
  | some o =>
    let o := { o with lateTag := o.lateTag ^^^ e.flip }
    { s with openRows := aput s.openRows (rowBank c e.row) o }
  | none => s.strikeTag c e.row e.flip

/-- A unit's state has an error that cannot be corrected: the part withdraws (R431, R432). The class tables number no such fault, so CLASS
and CODE are free values (log entry 166). -/
def fatalError : M Unit := do
  let c ← draw
  let d ← draw
  withdraw none (c.toNat % 256) (d.toNat % 65536) (unitWord 0 0) 0 .partState

/-- A channel scrubs its next row (R265): it reads every data line, which corrects and writes back what it can (R266). What has
come about meanwhile comes first (log entry 136): symbol errors, errors in row tags, repetitions of transfers whose data CRC failed,
which are counted while the channel uses that CRC (R260, R267, R426), directory entries with an error (R341), and a fatal error
(R431). -/
def patrolNb (c : Nat) (tags : List TagErr) (finds : NearFinds) : M Unit := do
  modify fun s => tags.foldl (fun s e => s.strikeRow c e) (finds.errs.foldl (fun s e => s.strikeNear c e) s)
  if ¬ (← get).flag (nbHealthOf c) 6 then
    forAll (List.range finds.retries) fun _ => do
      bump (nbErrOf c) 32 16
      reportIn (some (.channel c)) 0x05 1 4 (unitWord 5 c) 0 (nbErrOf c)
  modify fun s => { s with epFlaws := finds.dir.foldl (fun m i => awrite false m i.val true) s.epFlaws }
  if finds.fatal.isSome then fatalError
  let s ← get
  if s.flag (.nbScrub (c / 6)) 0 then
    let row := aread 0 s.nbScrubbed c % 2 ^ 21
    forAll (List.range 15) fun k => do
      let _ ← nearLine (s.nearAddr c row k / 128)
      skip
    modify fun s => s.scrubbedRow c

/-- A channel has retrained after four repetitions failed, or has failed to (R267, R426). One in erasure mode uses no data CRC and does
not retrain (R426). -/
def retrainNb (c : Nat) (ok : Bool) : M Unit := do
  let r := nbErrOf c
  if ¬ (← get).flag (nbHealthOf c) 6 then
    forAll (List.range 4) fun _ => do
      bump r 32 16
      reportIn (some (.channel c)) 0x05 1 4 (unitWord 5 c) 0 r
    if ok then
      bump r 48 8
      reportIn (some (.channel c)) 0x05 2 5 (unitWord 5 c) 0 r
    else failChannel c

/-- A bank's line takes a spare: the corrected line, or the line with the poison check pattern (R427). -/
def spareLine (t bank row : Nat) (poison inCopy copied : Bool) : M Unit := do
  modify fun s => s.setLinePoison (heartOf t / 128 + row * 32 + bank) poison
  remap t bank row inCopy copied

/-- A bank writes a corrected codeword back in its next idle ACLK; an error that recurs on the read that follows is remapped, and so
is a line that was read as uncorrectable (R121, R427). -/
def writebackHw (t bank row : Nat) (w : WriteBack) : M Unit := do
  let s ← get
  match (s.tree t).writebacks.find? fun e => e.1 = bank ∧ e.2.1 = row with
  | none => skip
  | some e =>
    set (s.setTree t { s.tree t with writebacks := (s.tree t).writebacks.erase e })
    let l := heartOf t / 128 + row * 32 + bank
    if (s.lineFlaw l).bad then spareLine t bank row true e.2.2 (w != .copyFails)
    else if w ≠ .clean then spareLine t bank row (s.linePoison l) e.2.2 (w == .again)
    else modify fun s => s.setLinePoison l (s.linePoison l)

/-- First line of a heartwood that its tree has lent (R118). -/
def State.lentFrom (s : State) (t : Nat) : Nat := (4 - s.lend t) * 8192

/-- The canopy and the address of the sector that lies in a lent line of a heartwood: sector q of set i is line 4i + q of the MiB
that is the way's; lent ways are numbered from 16 by tree, then by MiB (R273). -/
def State.lentSector (s : State) (t h : Nat) : Option (Nat × Nat) :=
  let r := h - s.lentFrom t
  let way := 16 + ((List.range (t % 8)).map fun u => s.lend (t / 8 * 8 + u)).sum + r / 8192
  match (s.canopy (t / 8)).lines.find? fun l => l.way = way && l.base % 2048 = r % 8192 / 4 with
  | some l => if (aget l.sects (r % 4)).isSome then some (t / 8, l.base * 512 + r % 4 * 128) else none
  | none => none

/-- A symbol error comes about in a heartwood: in a stored line, or in the canopy's sector that a lent line holds. -/
def State.strikeHeart (s : State) (t h : Nat) (x : List (Nat × Nat)) : State :=
  if h < s.lentFrom t then s.strike (heartOf t / 128 + h) x
  else
    match s.lentSector t h with
    | none => s
    | some (g, a) => match s.sector g a with
      | some y => s.putSector g a { y with errs := errMix y.errs x }
      | none => s

/-- What has come about in a heartwood happens to it (log entry 136). -/
def strikeHeart (t : Nat) : HeartErr → M Unit
  | .sym bank row p v => modify fun s => s.strikeHeart t (row * 32 + bank.val) [(p.val, v.toNat)]
  | .mute bank => failBank t bank 0

/-- A bank scrubs the sector in a lent line (R123, R273): corrected, left as poison, or remapped as poison. -/
def scrubLent (t bank row g a : Nat) (x : Sector) : M Unit := do
  let d0 := BitVec.ofNat 64 (rowAt t bank row)
  match x.verdict with
  | .poison _ => skip
  | .good _ =>
    modify fun s => s.putSector g a { x.decoded with errs := [] }
    noteHw t bank row false
    survive (.bank t bank) 0 0x04 1 1 (unitWord 2 t) d0 (.hwErr t)
  | .bad =>
    let inCopy := ((← get).handling (.bank t bank)).isSome
    modify fun s => s.putSector g a x.decoded
    noteHw t bank row true
    reportIn (some (.bank t bank)) 0x04 2 2 (unitWord 2 t) d0 (.hwErr t)
    remap t bank row inCopy true

/-- A bank scrubs a bank row (R123): a line found uncorrectable is remapped (R427). -/
def scrubBank (t bank row : Nat) : M Unit := do
  let s ← get
  let h := row * 32 + bank
  if h < s.lentFrom t then
    let _ ← heartLine (heartOf t / 128 + h)
    whenM ((← get).lineFlaw (heartOf t / 128 + h)).bad (writebackHw t bank row .clean)
  else
    match s.lentSector t h with
    | none => skip
    | some (g, a) => match s.sector g a with
      | some x => if x.errs.isEmpty then skip else scrubLent t bank row g a x
      | none => skip

/-- Each bank of a heartwood scrubs its next bank row (R123). What has come about in the heartwood meanwhile comes first (log
entry 136). -/
def patrolHw (t : Nat) (errs : List HeartErr) : M Unit := do
  forAll errs (strikeHeart t)
  let s ← get
  if s.flag (.hwCfg t) 2 then
    let row := aread 0 s.hwScrubbed t % 1024
    forAll (List.range 32) fun b => scrubBank t b row
    modify fun s => { s with hwScrubbed := awrite 0 s.hwScrubbed t ((row + 1) % 1024) }

/-- A tag parity error of a canopy line: a clean line is invalidated; of a line with dirty sectors each is written back with the
poison check pattern (R281). -/
def tagError (g base : Nat) : M Unit := do
  forAll (((← get).filling g).filter fun a => a / 512 = base) (landFill g)
  match ((← get).canopy g).lines.find? fun l => l.base = base with
  | none => skip
  | some v =>
    let dirty := v.sects.filter fun e => e.2.dirty
    forAll dirty fun e => rawLine (base * 4 + e.1) { e.2 with poison := true }
    modify fun s => s.setCanopy g { s.canopy g with lines := (s.canopy g).lines.filter fun l => l.base != base }
    if dirty.isEmpty then bump (.canErr g) 32 16 else canopyEvent g 2 (base * 512)

/-- What has come about in the sectors and tags that a canopy stores (R281; log entry 136). -/
def strikeCanopy (g : Nat) : CanErr → M Unit
  | .sym a p v => modify fun s => match s.sector g (a * 128) with
    | some x => s.putSector g (a * 128) { x with errs := errMix x.errs [(p.val, v.toNat)] }
    | none => s
  | .tag base => tagError g base

/-- A canopy fill lands (R276), after what has come about in the canopy. -/
def fillCanopy (g : Nat) (fill : CanFill) : M Unit := do
  forAll fill.errs (strikeCanopy g)
  landFill g (fill.sector * 128)

/-- CMO_CMD.GO of a grove (R279): OP 0 CLEAN, 1 INVAL, 2 CLINV, 3 CLINV_ALL, which ignores the address and the length. -/
def startCmo (g op : Nat) (scope : Bool) : M Unit := do
  let s ← get
  if s.flag (.cmoStatus g) 0 then bump (.cmoStatus g) 8 8
  else
    let a := s.fld (.cmoAddr g) 7 45 * 128
    let n := s.fld (.cmoLen g) 0 44
    if op < 3 ∧ n = 0 then skip
    else
      wrf (.cmoStatus g) 0 1 1
      let o : Cmo := if op = 3 then ⟨3, scope, 0, 2 ^ 52, 0⟩ else ⟨op + 1, scope, a, a + n, 0⟩
      modify fun s => { s with cmos := aput s.cmos g o }
      cmoGo

/-- A maintenance operation goes on, and ends once it has processed every sector (R279, R280). -/
def endCmo (g : Nat) : M Unit := do
  cmoGo
  let s ← get
  match aget s.cmos g with
  | none => skip
  | some o =>
    if (s.cmoNext g o).isNone then
      set { s with cmos := adel s.cmos g }
      wrf (.cmoStatus g) 0 1 0

/-- The far-bank port that a waiting write is for. -/
def State.postedAt (s : State) (w : Posted) : Option Nat := (s.farLoc w.addr).map (·.1)

/-- The writes that wait at a port reach memory, in their order (R272). -/
def servePosted (p : Nat) : M Unit := do
  let s ← get
  set { s with posted := s.posted.filter fun w => s.postedAt w != some p }
  forAll (s.posted.filter fun w => s.postedAt w == some p) fun w => do
    let _ ← rawWrite w.addr w.bytes w.poison
    skip

/-- A far-bank port's link comes up with devices of some capacities in bytes (R270): what waits is served, and maintenance goes on. -/
def upFb (p : Nat) (caps : List Nat) : M Unit := do
  let s ← get
  if s.farWord p % 4 ≠ 0 then
    let l := caps.take (if (s.farWord p).testBit 2 then 4 else 1)
    wrf (.fbPort p) 32 3 2
    wrf (.fbPort p) 35 3 l.length
    wrf (.fbPort p) 38 15 ((l.map fun c => c / 2 ^ 28).sum)
    servePosted p
    cmoGo

/-- A far-bank port loses its link and retrains (R272). -/
def lossFb (p : Nat) : M Unit := do
  if (← get).portUp p then
    wrf (.fbPort p) 32 3 1
    bump (.fbErr p) 32 16
    incident 0x06 2 3 (unitWord 6 p) 0 ((← get).reg (.fbErr p))

/-- A CXL viral indication takes a port down (R272). -/
def viralFb (p : Nat) : M Unit := do
  wrf (.fbPort p) 32 3 3
  wrf (.fbErr p) 48 1 1
  incident 0x06 3 4 (unitWord 6 p) 0 ((← get).reg (.fbErr p))

/-- Addresses of the requests that wait for a port: of threads, then of ferries, of landings, and the writes that wait there. -/
def State.waitingOn (s : State) (p : Nat) : List Nat :=
  (s.threads.filterMap fun e => match e.2.hold with
    | .port q a => if q = p then some a else none
    | .fetch q a => if q = p then some a else none
    | _ => none)
    ++ (s.ferries.filterMap fun e =>
      match e.2 with
      | some m => (match m.hold with | .port q a => if q = p then some a else none | _ => none)
      | none => none)
    ++ (s.links.flatMap fun e => e.2.held.toList ++ e.2.inq.filterMap (·.2)).filter fun a =>
      (s.farLoc a).any fun x => x.1 = p

/-- The k-th request that waits for a port that is not up is ended (R272): a write that waits there is dropped, and any other ends when
its unit makes it again. Maintenance that waits for the port goes on too, its write dropped. -/
def timeoutFb (p k : Nat) : M Unit := do
  let s ← get
  let w := s.posted.filter fun w => s.postedAt w == some p
  let m := s.cmos.filterMap fun e => match s.cmoNext e.1 e.2 with
    | some (a, h) => if ((s.sector h a).any fun x => x.dirty) ∧ s.portAway a ∧ (s.farLoc a).any (fun x => x.1 = p) then some a else none
    | none => none
  if s.portUp p then skip
  else
    match (s.waitingOn p ++ m)[k]?, w[k - (s.waitingOn p ++ m).length]? with
    | some a, _ =>
      set { s with dead := awrite false s.dead (a / 128) true }
      portEnd p a
      cmoGo
    | none, some w =>
      set { s with posted := s.posted.erase w }
      portEnd p w.addr
    | none, none => skip

end Sys2Proof.Machine
end

