-- ==== Sys2Proof/Machine/Atc.lean ====
section
/-! DEFINITION. Invalidation of translations, the host's translation and page-request answers, and the PCIe port's
configuration, link and near-bank aperture (R301-R305, R385-R393). -/

namespace Sys2Proof.Machine

/-- A state with what a waiter waits on replaced. -/
def State.setHold (s : State) (w : Waiter) (h : Hold) : State :=
  match w with
  | .thread t => s.setThread (t.tree * 4 + t.th) { s.thread (t.tree * 4 + t.th) with hold := h }
  | .ferry f =>
    match aread none s.ferries f with
    | some m => { s with ferries := awrite none s.ferries f (some { m with hold := h }) }
    | none => s

/-- A waiter's hold is replaced where it is a given one. -/
def rehold (w : Option Waiter) (old new : Hold) : M Unit := modify fun (s : State) =>
  match w with
  | none => s
  | some (.thread t) => if (s.thread (t.tree * 4 + t.th)).hold = old then s.setHold (.thread t) new else s
  | some (.ferry f) =>
    if (aread none s.ferries f).any fun m => m.hold = old then s.setHold (.ferry f) new else s

/-- A state with the range caches' and grove TLBs' entries that a condition selects removed. -/
def State.dropTlb (s : State) (p : TlbEntry → Bool) : State :=
  { s with
    tlbs := s.tlbs.map fun (e : Nat × List TlbEntry) => (e.1, e.2.filter fun x => !p x)
    trees := s.trees.map fun (e : Nat × TreeSt) => (e.1, { e.2 with rc := e.2.rc.filter fun x => !p x }) }

/-- Every entry of the range caches and grove TLBs. -/
def State.allTlb (s : State) : List TlbEntry :=
  s.tlbs.flatMap (fun (e : Nat × List TlbEntry) => e.2) ++ s.trees.flatMap fun (e : Nat × TreeSt) => e.2.rc

/-- A state in which the engine instructions not yet performed whose operands some entries translated are marked (R301). -/
def State.markInval (s : State) (l : List TlbEntry) : State :=
  let hit (g : Seg) : Bool := l.any fun e => e.pa < g.pa + g.n && g.pa < e.pa + e.len
  { s with trees := s.trees.map fun (e : Nat × TreeSt) => (e.1, { e.2 with sb := e.2.sb.map fun (y : SbEntry) =>
      if !y.performed && (y.work.segs.any fun g => g.any hit) then { y with inval := true } else y }) }

/-- TLB_INV_CMD.GO (R301): OP 0 the range of a world, 1 a world, 2 both worlds. Entries whose range meets the operation's
leave, whole; walks install nothing until it is done. -/
def startInv (op : Nat) (world : Bool) : M Unit := do
  let s ← get
  if s.flag .tlbInvStatus 0 then bump .tlbInvStatus 8 8
  else
    let a := s.fld .tlbInvVa 12 45 * 4096
    let n := s.fld .tlbInvLen 12 45 * 4096
    if op = 0 ∧ n = 0 then skip
    else
      set { s with tlbInv := some (op, world, a, a + n - 1) }
      modify fun (s : State) =>
        let out (e : TlbEntry) : Bool := !e.ats && s.invMeets e.world (e.va % 2 ^ 57) (e.va % 2 ^ 57 + e.len - 1)
        let s := (s.markInval (s.allTlb.filter out)).dropTlb out
        { s with walks := s.walks.map fun (e : Nat × List WalkEnt) => (e.1, e.2.filter fun w =>
            !s.invMeets w.world (w.tag * pageSize w.level) (w.tag * pageSize w.level + pageSize w.level - 1)) }
      wrf .tlbInvStatus 0 1 1

/-- An invalidation is done once every access that a removed entry translated has been accepted: walks and scalar accesses end
within a command here, and engine instructions when they are performed (R301). -/
def endInv : M Unit := do
  let s ← get
  let waits := s.trees.any fun (e : Nat × TreeSt) => e.2.sb.any fun y => y.inval && !y.performed
  whenM (!waits) (do
    modify fun s => { s with tlbInv := none }
    wrf .tlbInvStatus 0 1 0)

/-- A host bus address range [a, a + n) meets an entry of ATS kind. -/
def TlbEntry.atsMeets (e : TlbEntry) (a n : Nat) : Bool := e.ats && decide (e.va < a + n) && decide (a < e.va + e.len)

/-- An ATS Invalidate Request for a range (R305). Requests that used an entry are issued within their command, so the
completion follows at once. -/
def atsInvalidate (base size : Nat) : M Unit := do
  modify fun (s : State) =>
    let s := (s.dropTlb fun e => e.atsMeets base size).addFld .atsStat 0 32 1
    { s with atsReqs := s.atsReqs.map fun (e : Nat × AtsReq) => (e.1, { e.2 with gone := (base, size) :: e.2.gone }) }
  send .invalidateCompletion

/-- An access to a host page ends with HOST_FAIL: its waiter is told when it is issued again (R305). -/
def hostFail (w : Option Waiter) (addr : Nat) : M Unit := do
  bump .priStat 16 16
  match w with
  | some w => modify fun s => { s with hostFails := (w, addr / 4096) :: s.hostFails }
  | none => skip

/-- PRI Outstanding Page Request Capacity (Table: ATS and PRI support). -/
def priCapacity : Nat := 256

/-- ATS Invalidate Queue Depth (Table: ATS and PRI support); each request is completed within its command. -/
def atsInvalidateDepth : Nat := 32

/-- ATS Page Aligned Request: every range that the host invalidates starts at a page (Table: ATS and PRI support). -/
def atsPageAligned : Bool := true

/-- PRG Response PASID Required: the part supports no PASID, so a response carries none (Table: ATS and PRI support). -/
def prgPasidRequired : Bool := false

/-- A Translation Completion denies an access: a page request, or HOST_FAIL (R305; with 256 page requests outstanding no
further one can be sent, log entry 33). -/
def atsDenied (k : Nat) (q : AtsReq) : M Unit := do
  let s ← get
  if q.who.isNone then skip
  else if q.second ∨ ¬ s.pcie.pri ∨ s.flag .priStat 32 ∨ priCapacity ≤ s.fld .priStat 0 9 then
    hostFail q.who q.addr
    rehold q.who (.ats k) .none
  else
    let n := s.pageNext
    set { s with pageNext := n + 1, pageReqs := aput s.pageReqs n ⟨q.who, q.addr, q.noWrite, q.world, q.grove, q.wr⟩ }
    wrf .priStat 0 9 (s.fld .priStat 0 9 + 1)
    send (.pageRequest n q.addr)
    rehold q.who (.ats k) (.page n)

/-- The largest of 1 GiB, 2 MiB and 4 KiB that a completion's size holds (R303). -/
def atsSize (size : Nat) : Nat := if 2 ^ 30 ≤ size then 2 ^ 30 else if 2 ^ 21 ≤ size then 2 ^ 21 else 4096

/-- A Translation Completion for request k: host address and size of the range, and the accesses it grants (R303, R305). -/
def atsDone (k hpa size : Nat) (r w : Bool) : M Unit := do
  let s ← get
  match aget s.atsReqs k with
  | none => skip
  | some q =>
    set { s with atsReqs := adel s.atsReqs k }
    if (if q.wr then w else r) then
      let n := max size 4096
      let h := hpa / n * n + q.addr % n
      let lo := q.addr / n * n
      if q.gone.any fun g => g.1 < lo + n && lo < g.1 + g.2 then
        match q.who with
        | some u => modify fun s => { s with onces := (u, q.addr / 4096, h / 4096) :: s.onces }
        | none => skip
      else
        let z := atsSize n
        installTlb q.grove ⟨q.world, true, q.addr / z * z, z, h / z * z, b2n r + 2 * b2n w, z⟩
      rehold q.who (.ats k) .none
    else atsDenied k q

/-- A PRG Response for page request k (R305). -/
def prgDone (k : Nat) (code : PrgCode) : M Unit := do
  let s ← get
  match aget s.pageReqs k with
  | none => skip
  | some q =>
    set { s with pageReqs := adel s.pageReqs k }
    wrf .priStat 0 9 (s.fld .priStat 0 9 - 1)
    whenM (code = .failure) (wrf .priStat 32 1 1)
    match code, q.who with
    | .success, some w =>
      if s.pcie.ats then
        let n ← sendAts ⟨some w, q.addr, q.noWrite, q.world, q.grove, q.wr, true, []⟩
        rehold (some w) (.page k) (.ats n)
      else rehold (some w) (.page k) .none
    | _, some w =>
      hostFail (some w) q.addr
      rehold (some w) (.page k) .none
    | _, none => skip

/-- The wait for the answer of page request k ends; the request itself stays outstanding (R305). -/
def prgExpired (k : Nat) : M Unit := do
  let s ← get
  match aget s.pageReqs k with
  | some q =>
    if q.who.isSome then
      set { s with pageReqs := aput s.pageReqs k { q with who := none } }
      hostFail q.who q.addr
      rehold q.who (.page k) .none
  | none => skip

/-- Send pending MSI-X messages whose vectors are unmasked (R389); none in D3hot (R393). -/
def sendPending : M Unit := modify fun (s : State) =>
  if s.flag .pciestat 10 then s
  else (s.pcie.pba.filter (·.2)).foldl (fun (s : State) e =>
    ({ s with pcie := { s.pcie with pba := awrite false s.pcie.pba e.1 false } }).sendMsix e.1) s

/-- ATS is disabled: nothing stays cached, and no translation is awaited (R303). -/
def atsOff : M Unit := do
  let l := (← get).atsReqs
  modify fun (s : State) => { s.dropTlb fun e => e.ats with pcie := { s.pcie with ats := false }, atsReqs := [], onces := [] }
  forAll l fun (e : Nat × AtsReq) => rehold e.2.who (.ats e.1) .none

/-- The interface number of the PCIe port in answers. -/
def pcieIface : Nat := 0

/-- The port answers configuration requests: out of a host reset (R391), and after a module reset once the boot firmware is verified, or
1 s after it (R394, R446, R448; log entry 168). -/
def State.portReady (s : State) : Bool :=
  !s.pcie.inReset && (decide (3 < s.fld .bootStatus 0 4) || decide (100_000_000 ≤ s.now))

/-- What a field of configuration space reads as (R385-R389, Table: PCIe options). -/
def State.cfgField (s : State) : CfgField → Nat
  | .vendorId => 0x1D7A
  | .deviceId => 0x0192
  | .classCode => 0x12_0000
  | .maxPayloadSupported => 512
  | .maxPayload => 128 * 2 ^ s.pcie.maxPayload
  | .maxReadRequest => 128 * 2 ^ s.pcie.maxRead
  | .tagBits => 14
  | .nonPosted => 2048
  | .timeoutRanges => 0b0111
  | .timeoutDisable => 0
  | .timeout => s.pcie.timeout
  | .aerStatus => s.pcie.aer.toNat
  | .aerHeader i => (s.pcie.aerLog.getD i 0).toNat
  | .ats => b2n s.pcie.ats
  | .pri => b2n s.pcie.pri
  | .busMaster => b2n s.pcie.busMaster
  | .bar2Size => s.pcie.bar2
  | .msixVectors => 2048
  | .msixEnable => b2n s.pcie.msix
  | .msixFunctionMask => b2n s.pcie.funcMask
  | .flr => 1

/-- What a configuration request changes (R303, R305, R386, R387, R389). Sizes beyond those that the port supports are taken as its
largest. -/
def cfgSet (c : CfgReq) : M Unit := do
  let s ← get
  match c with
  | .read _ => skip
  | .maxPayload n => set { s with pcie := { s.pcie with maxPayload := min n 2 } }
  | .maxReadRequest n => set { s with pcie := { s.pcie with maxRead := min n 5 } }
  | .timeout n => set { s with pcie := { s.pcie with timeout := n } }
  | .aerClear b =>
    let e := s.pcie.aer &&& ~~~b
    set { s with pcie := { s.pcie with aer := e, aerLog := if e = 0 then [] else s.pcie.aerLog } }
  | .atsEnable on => if on then set { s with pcie := { s.pcie with ats := true } } else atsOff
  | .priEnable on =>
    set { s with pcie := { s.pcie with pri := on } }
    whenM (on && !s.pcie.pri) (wrf .priStat 32 1 0)
  | .busMaster on =>
    set { s with pcie := { s.pcie with busMaster := on } }
    sendPending
  | .msixEnable on =>
    set { s with pcie := { s.pcie with msix := on } }
    sendPending
  | .msixFunctionMask on =>
    set { s with pcie := { s.pcie with funcMask := on } }
    sendPending
  | .msixVectorMask v => set { s with pcie := { s.pcie with unmasked := awrite false s.pcie.unmasked v false } }
  | .bar2Size n => set { s with pcie := { s.pcie with bar2 := n } }

/-- A configuration request is answered: code 0 with the value of a read, or code 2, Configuration Request Retry Status (R391, R394). -/
def configure (c : CfgReq) : M Unit := do
  let s ← get
  if ¬ s.portReady then send (.answer pcieIface 2 [])
  else
    cfgSet c
    send (.answer pcieIface 0 (match c with | .read f => [s.cfgField f] | _ => []))

/-- An error that AER records: its status bit, and for the first one the header of the request, which no command carries and is a free
value (R386; log entry 167). -/
def noteAer (i : Nat) : M Unit := do
  let h ← mapAll (List.range 4) fun _ => draw
  modify fun s => { s with pcie := { s.pcie with
    aer := s.pcie.aer ||| 1 <<< i
    aerLog := if s.pcie.aer = 0 then h.map fun w => w.setWidth 32 else s.pcie.aerLog } }

/-- The 16 bytes of a vector's entry in the MSI-X table (R387, R389). -/
def State.msixBytes (s : State) (v : Nat) : List Byte :=
  let e := aread (0, 0) s.pcie.table v
  toLE e.1.toNat 8 ++ toLE e.2.toNat 4 ++ toLE (b2n !(aread false s.pcie.unmasked v)) 4

/-- A byte of BAR4 from offset 0x1_0000: the MSI-X table, and the pending bits from 0x1_8000 (R387). Like `bar0Read` it is what the port
answers to reads for which the table has no command (log entry 121). -/
def State.bar4Byte (s : State) (o : Nat) : Byte :=
  if 0x1_0000 ≤ o ∧ o < 0x1_8000 then (s.msixBytes ((o - 0x1_0000) / 16)).getD (o % 16) 0
  else if 0x1_8000 ≤ o ∧ o < 0x1_8100 then
    BitVec.ofNat 8 ((List.range 8).foldl (fun v i => v + b2n (aread false s.pcie.pba ((o - 0x1_8000) * 8 + i)) <<< i) 0)
  else 0

/-- A vector becomes unmasked by a write of its entry (R389); the port discards the write in a host reset and in D3hot (R391, R393). -/
def unmaskMsix (e : MsixEntry) : M Unit := do
  let s ← get
  if ¬ s.pcie.inReset ∧ ¬ s.flag .pciestat 10 then
    set { s with pcie := { s.pcie with
      table := awrite (0, 0) s.pcie.table e.vec (e.addr, e.data)
      unmasked := awrite false s.pcie.unmasked e.vec true } }
    sendPending

/-- SPEED of PCIESTAT. -/
def speedCode : PcieSpeed → Nat
  | .gt8 => 3
  | .gt16 => 4
  | .gt32 => 5
  | .gt64 => 6

/-- WIDTH of PCIESTAT. -/
def widthCode : PcieWidth → Nat
  | .x4 => 4
  | .x8 => 8
  | .x16 => 16

/-- PCIESTAT.SPEED, WIDTH and FLIT. -/
def setPcieLink (speed width flit : Nat) : M Unit := do
  wrf .pciestat 0 3 speed
  wrf .pciestat 3 5 width
  wrf .pciestat 8 1 flit

/-- A host-window request for a line ends (R390): in failure it is counted and reported, and its line is read as poisoned; a completion
that arrives poisoned, or with an ECRC error, brings a poisoned line and nothing else (R258). -/
def hostFails (line : Nat) (e : HostEnd) : M Unit := do
  if inHost (line * 128) then
    modify fun s => { s with dead := awrite false s.dead line true }
    match e with
    | .poisoned => noteAer 12
    | .ecrc => skip
    | .timeout =>
      noteAer 14
      hostEnd (line * 128) 1
    | .linkDown => hostEnd (line * 128) 2
    | _ => hostEnd (line * 128) 1

/-- The host's access to bytes of the near bank behind one target (R388, R306, R311, R14): bytes read, 0 where denied. -/
def bar2Part (wr : Bool) (a n : Nat) (bs : List Byte) : M (List Byte) := do
  let r : Req := ⟨0x140, true⟩
  if ¬ inNear a then
    deny r wr a 0xFFFF 5
    return toLE 0 n
  else
    match ← checkLine r (if wr then .wr else .rd) a n with
    | some _ => return toLE 0 n
    | none =>
      let out ← mapAll (lineParts a n) fun (p : Nat × Nat) => do
        if wr then
          rawPut p.1 ((bs.drop (p.1 - a)).take p.2) false
          return []
        else return (← rawRead p.1 p.2).1
      return out.flatten

/-- A host access of n bytes at BAR2 offset off: answer code 0 with the bytes, or 1 for Unsupported Request (R387, R388,
R391, R393). -/
def bar2 (off : Nat) (wr : Bool) (n : Nat) (bs : List Byte) : M Unit := do
  let s ← get
  if s.pcie.inReset ∨ s.flag .pciestat 10 ∨ 2 ^ (30 + s.pcie.bar2) < off + n then
    whenM (!wr) (do
      noteAer 20
      send (.answer pcieIface 1 []))
  else
    let a0 := s.fld .hostapt 30 22 * 2 ^ 30 + off
    let out ← mapAll (s.joined (lineParts a0 n)) fun (p : Nat × Nat) => bar2Part wr p.1 p.2 ((bs.drop (p.1 - a0)).take p.2)
    whenM (!wr) (send (.answer pcieIface 0 (out.flatten.map BitVec.toNat)))

end Sys2Proof.Machine
end

