-- ==== Sys2Proof/Machine/Links.lean ====
section
/-! DEFINITION. The landings as links: packets and routes, the flit stream and its code, training, lane loss, DOWN and fencing, and
the ends of landing descriptors (R358-R378, R433). -/

namespace Sys2Proof.Machine

/-- A landing's hidden state. -/
def State.link (s : State) (l : Nat) : LinkSt := aread .idle s.links l

/-- A state with a landing's hidden state set; INFLIGHT follows the packets that await a reply. -/
def State.setLink (s : State) (l : Nat) (x : LinkSt) : State :=
  ({ s with links := awrite .idle s.links l x }).setFld (.landStatus l) 32 10 x.await.length

/-- STATE of a landing: 0 DISABLED, 1 TRAINING, 2 ACTIVE, 3 DEGRADED, 4 DOWN, 5 MISWIRED. -/
def State.landState (s : State) (l : Nat) : Nat := s.fld (.landStatus l) 0 3

/-- A landing carries traffic. -/
def State.landUp (s : State) (l : Nat) : Bool := s.landState l = 2 || s.landState l = 3

/-- The members of a landing's bundle (R33, R359). -/
def State.bundle (s : State) (l : Nat) : List Nat :=
  match s.landByte l / 4 % 4 with
  | 1 => (List.range 2).map (· + l / 2 * 2)
  | 2 => (List.range 4).map (· + l / 4 * 4)
  | _ => [l]

/-- The pair landing, if the structure has one (R33). -/
def State.pairLanding (s : State) : Option Nat := (List.range 16).find? fun l => (s.landByte l).testBit 4

/-- The part's own ID (R370). -/
def State.partId (s : State) : Nat := s.fld .landPartid 0 16

/-- The landing for a packet to another part (R359, R371): the bundle member that is next in rotation. -/
def State.route (s : State) (part : Nat) : Option Nat :=
  let e := s.fld (.route (part / 4)) (part % 4 * 16) 16
  let up (l : Nat) := (s.bundle l).filter s.landUp
  let pick (l : Nat) : Option Nat :=
    let m := up l
    m[(s.link ((s.bundle l).headD l)).turn % max m.length 1]?
  if e.testBit 8 ∧ ¬ (up (e % 16)).isEmpty then pick (e % 16)
  else if e.testBit 9 ∧ ¬ (up (e / 16 % 16)).isEmpty then pick (e / 16 % 16)
  else none

/-- The 32 header bytes of a packet (Table: Packet header). -/
def pktHeader (p : Packet) : List Byte :=
  toLE p.dpart.toNat 2 ++ toLE p.spart.toNat 2 ++ toLE p.type.toNat 1 ++ toLE (p.hops.toNat + b2n p.world <<< 6) 1 ++
    toLE p.len 2 ++ toLE p.addr.toNat 8 ++ toLE p.aux.toNat 8 ++ toLE p.tid.toNat 4 ++ toLE p.pmask.toNat 4

/-- The CRC64 of a packet (R368). -/
def pktCrc (p : Packet) : Nat :=
  crc64 0 (pktHeader p ++ p.data ++ List.replicate ((8 - p.data.length % 8) % 8) 0)

/-- A packet of this part with its CRC and its hops (R368, R372). -/
def State.mkPacket (s : State) (dpart type : Nat) (world : Bool) (addr aux tid pmask : Nat) (len : Nat)
    (data : List Byte) : Packet :=
  let p : Packet := ⟨BitVec.ofNat 16 dpart, BitVec.ofNat 16 s.partId, BitVec.ofNat 8 type,
    BitVec.ofNat 6 (s.fld .landGctrl 10 6), world, len, BitVec.ofNat 64 addr, BitVec.ofNat 64 aux, BitVec.ofNat 32 tid,
    BitVec.ofNat 32 pmask, data, 0⟩
  { p with crc := BitVec.ofNat 64 (pktCrc p) }

/-- The bytes of a packet on a landing (R368). -/
def pktWire (p : Packet) : List Byte :=
  pktHeader p ++ p.data ++ List.replicate ((8 - p.data.length % 8) % 8) 0 ++ toLE p.crc.toNat 8

/-- A flit: header and content (R364). -/
def flitBytes (kind seq ack : Nat) (content : List Byte) : List Byte :=
  toLE (seq % 4096 + ack % 4096 <<< 12 + kind % 8 <<< 24) 4 ++ (content ++ List.replicate 156 0).take 156

/-- The content of a BEACON flit (R365). -/
def beaconBytes (b : BeaconMsg) : List Byte :=
  toLE b.now.toNat 8 ++ toLE b.sender.toNat 2 ++ toLE b.master.toNat 2 ++ toLE b.hops.toNat 1 ++ toLE (b2n b.lock) 1

/-- The 160 bytes of a flit that is sent, where every flit of its landing names an ACK (R364-R366). The spec gives a TRAIN flit no
layout. -/
def Msg.flit (ack : Nat) : Msg → Option (List Byte)
  | .data _ seq ack c => some (flitBytes 1 seq ack c)
  | .idle _ ack => some (flitBytes 0 0 ack [])
  | .nak _ ack => some (flitBytes 2 0 ack [])
  | .beacon _ b => some (flitBytes 3 0 ack (beaconBytes b))
  | _ => none

/-- The 128 data symbols that carry a flit, ten bits each from the least significant end (R363; log entry 163). -/
def flitSymbols (b : List Byte) : List Nat :=
  let v := ofLE b
  (List.range 128).map fun i => v >>> (10 * i) % 1024

/-- The codeword of a flit: 128 data symbols and 8 check symbols (R363). -/
def linkWord (b : List Byte) : List Nat := flitSymbols b ++ rsCheck linkGf (flitSymbols b)

/-- Symbol errors as a pattern. -/
def linkErrs (e : List SymErr) : List (Nat × Nat) := e.map fun x => (x.sym.val, x.flip.toNat)

/-- What a landing's decoder leaves of a pattern of symbol errors, where it finds a codeword within 4 symbols (R363). -/
def linkJudge (e : List (Nat × Nat)) : Option (List (Nat × Nat)) := (rsFind linkGf (rsSyn linkGf e) [] 4).map (errMix e)

/-- Bytes of a flit with the errors that its decoder left. -/
def flitXor (b : List Byte) (f : List (Nat × Nat)) : List Byte :=
  toLE (ofLE b ^^^ f.foldl (fun v x => if x.1 < 128 then v ^^^ x.2 <<< (10 * x.1) else v) 0) 160

/-- The lanes in use. -/
def State.lanesIn (s : State) (l : Nat) : List Nat := (List.range 4).filter fun i => s.flag (.landStatus l) (5 + i)

/-- The lane of symbol i of a landing's stream: lane i mod n of those in use (R363). -/
def State.laneOf (s : State) (l i : Nat) : Nat := (s.lanesIn l).getD (i % max (s.lanesIn l).length 1) 0

/-- The SEQ of the next DATA flit (R366). -/
def LinkSt.next (x : LinkSt) : Nat := (x.acked + 1 + x.sent.length) % 4096

/-- The ACK that flits of a landing carry: the SEQ of the last DATA flit received in order (R364). -/
def LinkSt.ack (x : LinkSt) : Nat := (x.expect + 4095) % 4096

/-- The next packet to enter a landing's stream, whether it is of this part, and what waits then: journal packets and others take
turns, and among others those forwarded and those of this part do (R372, R382). -/
def LinkSt.pick (x : LinkSt) : Option (Packet × Bool × LinkSt) :=
  match x.jnl, x.fwd, x.own with
  | p :: j, f, o =>
    if !x.lastJnl || (f.isEmpty && o.isEmpty) then some (p, true, { x with jnl := j, lastJnl := true })
    else
      match f, o with
      | p :: f, o =>
        if !x.lastFwd || o.isEmpty then some (p, false, { x with fwd := f, lastFwd := true, lastJnl := false })
        else o.head?.map fun p => (p, true, { x with own := o.tail, lastFwd := false, lastJnl := false })
      | [], o => o.head?.map fun p => (p, true, { x with own := o.tail, lastFwd := false, lastJnl := false })
  | [], p :: f, o =>
    if !x.lastFwd || o.isEmpty then some (p, false, { x with fwd := f, lastFwd := true, lastJnl := false })
    else o.head?.map fun p => (p, true, { x with own := o.tail, lastFwd := false, lastJnl := false })
  | [], [], o => o.head?.map fun p => (p, true, { x with own := o.tail, lastFwd := false, lastJnl := false })

/-- A landing sends a DATA flit and holds it (R366). -/
def sendData (l : Nat) (c rest : List Byte) : M Unit := do
  let x := (← get).link l
  modify fun s => s.setLink l { x with sent := x.sent ++ [c], rest := rest }
  send (.data l x.next x.ack c)

/-- A landing sends what waits, as long as fewer than 256 DATA flits are held and it does not retrain: packets follow one another with
no gap, and the last flit is filled up with zeros when nothing else waits (R361, R364, R366; log entry 23). -/
def flow (l : Nat) : Nat → M Unit
  | 0 => skip
  | n + 1 => do
    let s ← get
    let x := s.link l
    if ¬ s.landUp l ∨ x.retrain ∨ 256 ≤ x.sent.length then skip
    else if 156 ≤ x.rest.length then
      sendData l (x.rest.take 156) (x.rest.drop 156)
      flow l n
    else
      match x.pick with
      | some (p, mine, y) =>
        set (s.setLink l { y with rest := x.rest ++ pktWire p })
        whenM mine (modify fun s => s.addFld (.landBytes l) 0 48 p.data.length)
        send (.packet l p)
        flow l n
      | none => whenM (!x.rest.isEmpty) (sendData l ((x.rest ++ List.replicate 156 0).take 156) [])

/-- A landing sends what it can. -/
def flows (l : Nat) : M Unit := do
  let x := (← get).link l
  flow l (300 + x.fwd.length + x.own.length + x.jnl.length)

/-- Which of a landing's packets a packet waits among. -/
inductive PktKind where
  | fwd | own | jnl
  deriving DecidableEq, Repr

/-- Hand a packet to a landing (R366); its bundle's rotation moves on (R359). -/
def sendOn (k : PktKind) (l : Nat) (p : Packet) : M Unit := do
  modify fun s =>
    let b := (s.bundle l).headD l
    let x := s.link l
    let s := s.setLink l (match k with
      | .fwd => { x with fwd := x.fwd ++ [p] }
      | .own => { x with own := x.own ++ [p] }
      | .jnl => { x with jnl := x.jnl ++ [p] })
    s.setLink b { s.link b with turn := (s.link b).turn + 1 }
  flows l

/-- Send a packet of this part by its route: the landing it was given, or none without a route (R371). -/
def sendPacket (p : Packet) : M (Option Nat) := do
  match (← get).route p.dpart.toNat with
  | none => return none
  | some l =>
    sendOn .own l p
    return some l

/-- Send a reply that has been sent some times before; a landing keeps its last 512 to send them again after a CRC failure (R369; log
entry 24). -/
def sendKept (p : Packet) (tries : Nat) : M Unit := do
  match ← sendPacket p with
  | none => skip
  | some l => modify fun s =>
      let x := s.link l
      s.setLink l { x with replies := (x.replies ++ [(p, tries)]).drop (x.replies.length - 511) }

/-- Send a reply. -/
def sendReply (p : Packet) : M Unit := sendKept p 0

/-- Send the kept replies again that a packet with code CRC answers, each at most three times (R369; log entry 24). -/
def resendReplies (p : Packet) : M Unit := do
  let mine (e : Packet × Nat) : Bool := e.1.tid == p.tid && e.1.dpart == p.spart
  let s ← get
  let hits := (List.range 16).flatMap fun l => (s.link l).replies.filter mine
  forAll (List.range 16) fun l => modify fun s =>
    s.setLink l { s.link l with replies := (s.link l).replies.filter fun e => !mine e }
  forAll (hits.filter fun e => e.2 < 3) fun e => sendKept e.1 (e.2 + 1)

/-- Answer a packet with an ACK of a code, sub-code and conditions (R369, R372, R375). -/
def sendAck (p : Packet) (code sub conds : Nat) : M Unit := do
  sendReply ((← get).mkPacket p.spart.toNat 5 p.world (code + sub <<< 8 + conds <<< 16) 0 p.tid.toNat 0 0 [])

/-- STATE of a landing changes, with its LAND_LINK event: CODE the new STATE, payload the landing (R362; log entry 19). -/
def setLandState (l n : Nat) : M Unit := do
  let s ← get
  if s.landState l ≠ n then
    wrf (.landStatus l) 0 3 n
    event (s.fld .landGctrl 16 10) 0x0042 n (BitVec.ofNat 64 l) 0

/-- A field of a landing descriptor. -/
def ldesc (d : List Byte) (off n : Nat) : Nat := leAt d off n

/-- The STATUS word of a descriptor (Table: Landing status). -/
def landWord (r : LRun) (code row sub : Nat) : Nat :=
  code + r.conds <<< 8 + b2n r.poisoned <<< 15 + row <<< 16 + sub <<< 32

/-- The descriptor of a queue that a landing runs. -/
def State.lrun (s : State) (l q : Nat) : Option LRun := (s.link l).runs.find? fun r => r.queue = q

/-- A state with a running descriptor replaced. -/
def State.setRun (s : State) (l : Nat) (r : LRun) : State :=
  s.setLink l { s.link l with runs := (s.link l).runs.map fun x => if x.queue = r.queue then r else x }

/-- A state without the running descriptor of a queue. -/
def State.dropRun (s : State) (l q : Nat) : State :=
  s.setLink l { s.link l with runs := (s.link l).runs.filter fun x => x.queue != q }

/-- A running descriptor meets an error; the first one counts, and the lowest row (R377, R378). -/
def failRun (l q row code sub : Nat) : M Unit := do
  match (← get).lrun l q with
  | none => skip
  | some r =>
    modify fun s => s.setRun l { r with
      err := match r.err with | some e => some e | none => some (code, sub)
      badRow := min r.badRow row }

/-- Add 1 to a ferry counter, modulo 2^32 (R237, R289, R375, R377). -/
def bumpFerry (t k : Nat) : M Unit := modify fun s =>
  (s.addFld (.ferryDone (t % 64) (k % 16)) 0 32 1).sbLatch (t % 64)

/-- A descriptor has ended with an error and no reply is due (R378). -/
def endBad (l : Nat) (r : LRun) (code sub : Nat) : M Unit := do
  let q := r.queue
  let s ← get
  let w := landWord r code (min r.badRow r.row) sub
  set (s.dropRun l q)
  let d ← writePhys (s.qReq q) (s.qAddr q (s.qHead q) + 0x38) (toLE w 8)
  setQState q 0
  wrf (.qctxBase q) 61 3 (if d.isSome then 5 else 6)
  event ((← get).fld (.qctxStat q) 11 10) 0x0041 (code % 256) (BitVec.ofNat 64 w) (BitVec.ofNat 64 q)

/-- A descriptor completes (R377 from step 2). -/
def endGood (l : Nat) (r : LRun) : M Unit := do
  let q := r.queue
  let d := r.desc
  let s ← get
  let code := if r.poisoned then 9 else 0
  set (s.dropRun l q)
  match ← writePhys (s.qReq q) (s.qAddr q (s.qHead q) + 0x38) (toLE (landWord r code 0 0) 8) with
  | some _ => stopQueue q 5
  | none =>
    let ctl := ldesc d 3 1
    let nt := ldesc d 0x30 4
    whenM (ctl.testBit 2) (bumpFerry (nt % 64) (nt / 64 % 16))
    whenM (ctl.testBit 1) (event (ldesc d 0x26 2 % 1024) 0x0040 0 (BitVec.ofNat 64 (q + ldesc d 0 2 <<< 32))
      (BitVec.ofNat 64 (ldesc d 0x34 4)))
    setHead q (s.qHead q + 1)

/-- A state in which a packet of a descriptor awaits its reply. -/
def State.awaits (s : State) (l : Nat) (a : Await) : State :=
  s.setLink l { s.link l with tid := (s.link l).tid + 1, await := (s.link l).await ++ [a] }

/-- Send a packet of a descriptor and await its reply; without a route the descriptor ends (R374, R378). Its TID names the
landing in bits [30:27]; journal packets set bit 31 (log entry 26). -/
def sendRun (l : Nat) (r : LRun) (row : Nat) (p : Nat → Packet) : M Unit := do
  let s ← get
  let tid := l * 2 ^ 27 + (s.link l).tid % 2 ^ 27
  match ← sendPacket (p tid) with
  | none => failRun l r.queue row 4 0
  | some v => modify fun s => s.awaits l ⟨tid, r.queue, row, p tid, 0, v⟩

/-- A landing with nothing sent, received or waiting on the link itself. -/
def LinkSt.cleared (x : LinkSt) : LinkSt :=
  { x with expect := 0, acked := 4095, sent := [], rest := [], rx := [], replays := 0, retrain := false, bads := [] }

/-- A landing goes DOWN (R362): descriptors with a packet unacknowledged through it end with LINK_DOWN, what waited to be sent is gone
(log entry 164), and the pair landing takes the journal with it (R383). Its record is secondary while the landing is being handled
(R439, R440). -/
def downLanding (l : Nat) : M Unit := do
  setLandState l 4
  bump (.landErr l) 60 4
  reportIn (some (.landing l)) 0x0C 3 2 (unitWord 7 l) 0 (.landStatus l)
  modify fun s =>
    (s.setLink l { (s.link l).cleared with fwd := [], own := [], jnl := [], replies := [] }).endHandling (.landing l)
  if (← get).pairLanding = some l then journalLost
  forAll (List.range 16) fun o => do
    let gone := ((← get).link o).await.filter fun a => a.via = l
    modify fun s => s.setLink o { s.link o with await := (s.link o).await.filter fun a => a.via != l }
    forAll gone fun a => failRun o a.queue a.row 7 0

/-- A silent neighbour is fenced while a job runs (R433). -/
def fenceLanding (l : Nat) : M Unit := do
  let s ← get
  event (s.fld .landGctrl 16 10) 0x0051 0 (BitVec.ofNat 64 (s.fld (.landStatus l) 16 16 + l <<< 16)) (s.link l).beaconAt
  wrf .landFence l 1 1
  downLanding l
  incident 0x0D 3 0 (unitWord 7 l) 0 ((← get).reg (.landStatus l))
  recovered 0x0D 100

/-- A landing starts to train (R360); a fenced one makes no attempt (R433). -/
def startTrain (l : Nat) : M Unit := do
  let s ← get
  if s.landByte l % 4 ≠ 0 ∧ ¬ s.flag .landFence l then
    set ((s.setLink l { s.link l with retrain := false, anyPeer := false }).endHandling (.landing l))
    setLandState l 1

/-- Set bits of a lane mask. -/
def laneCount (m : Nat) : Nat := ((List.range 4).filter fun i => m.testBit i).length

/-- What the part's own TRAIN flits on a landing carry (R360). -/
def State.trainInfo (s : State) (l : Nat) : TrainInfo :=
  let b := s.landByte l
  ⟨BitVec.ofNat 16 s.partId, BitVec.ofNat 4 l, BitVec.ofNat 2 b, BitVec.ofNat 2 (b / 4), b.testBit 4,
    BitVec.ofNat 4 (s.fld (.landStatus l) 5 4)⟩

/-- What a peer's TRAIN flits tell goes into a landing's registers (R359, R360). -/
def learnPeer (l : Nat) (p : TrainInfo) : M Unit := do
  let g := min ((← get).landByte l % 4) p.gen.toNat
  wrf (.landStatus l) 3 2 g
  wrf (.landStatus l) 5 4 p.lanes.toNat
  wrf (.landStatus l) 9 4 p.land.toNat
  wrf (.landStatus l) 13 1 (b2n p.pair)
  wrf (.landStatus l) 16 16 p.part.toNat

/-- DELAY of timestamped exchanges: half of round trip less turnaround, for the smallest round trip (R360). -/
def delayOf (e : List (Nat × Nat)) : Nat :=
  match e with
  | [] => 0
  | x :: r =>
    let m := r.foldl (fun m y => if y.1 < m.1 then y else m) x
    (m.1 - m.2) / 2

/-- A bundle's members have a peer other than that of its lowest landing: they are MISWIRED, once the lowest landing knows its peer
(R359), unless they were told to accept any (R433). -/
def judgeBundle (l : Nat) : M Unit := do
  let s ← get
  let head := (s.bundle l).headD l
  whenM (s.landUp head || s.landState head == 4 || s.landState head == 5) (forAll (s.bundle l) fun m => do
    let s ← get
    whenM (s.landUp m && !(s.link m).anyPeer &&
      s.fld (.landStatus m) 16 16 != s.fld (.landStatus head) 16 16) (setLandState m 5))

/-- A landing's training completes (R359, R360, R362): it has told the peer its own identity, it is ACTIVE, or DEGRADED when it comes back
on three lanes in a job; one that was DOWN in a job and finds another peer is MISWIRED. The partner's journal begins anew (log entry
162). -/
def trained (l : Nat) (p : PeerInfo) : M Unit := do
  let s ← get
  let down := s.landState l = 4
  let same := s.fld (.landStatus l) 16 16 = p.info.part.toNat
  learnPeer l p.info
  wrf (.tideLink l) 5 16 (delayOf p.exchanges)
  modify fun s => s.setLink l (s.link l).cleared
  whenM ((← get).pairLanding = some l)
    (modify fun s => { s with replica := { s.replica with next := none, recs := [], early := [] } })
  send (.train l ((← get).trainInfo l))
  if down ∧ ¬ same then setLandState l 5
  else
    setLandState l (if down ∧ laneCount p.info.lanes.toNat < 4 then 3 else 2)
    judgeBundle l
  flows l

/-- A landing in TRAINING trains; one that is DOWN tries while a job runs, unless it is fenced (R360, R362, R433). -/
def tryTrain (l : Nat) (p : PeerInfo) : M Unit := do
  let s ← get
  if s.landState l = 1 ∨ (s.landState l = 4 ∧ s.jobRuns ∧ ¬ s.flag .landFence l) then trained l p

/-- LAND_CTRL.RETRAIN: no effect while a job runs (R360). -/
def retrainLanding (l : Nat) : M Unit := do
  if ¬ (← get).jobRuns then startTrain l

/-- LAND_UNFENCE: the fence is released and the landing trains, with any peer (R433). -/
def unfenceLanding (l : Nat) : M Unit := do
  if (← get).flag .landFence l then
    wrf .landFence l 1 0
    startTrain l
    modify fun s => s.setLink l { s.link l with anyPeer := true }

/-- The beacon that the part would send now on a landing (R347). -/
def State.beacon (s : State) : BeaconMsg :=
  let m := bit (s.effReg .tideCfg) 2
  ⟨s.reg .tideNow, BitVec.ofNat 16 s.partId, BitVec.ofNat 16 (if m then s.partId else s.fld .tideStatus 32 16),
    BitVec.ofNat 8 (if m then 0 else s.fld .tideStatus 2 4), s.flag .tideStatus 0⟩

/-- A landing counts a lane lost (R361, R362): it tells the peer and retrains on the other lanes, or it goes DOWN. -/
def loseLane (l lane : Nat) : M Unit := do
  let s ← get
  let x := s.link l
  if s.landState l = 3 ∨ (s.landUp l ∧ x.retrain) then
    bump (.landErr l) 56 4
    downLanding l
  else if s.landState l = 2 ∧ s.flag (.landStatus l) (5 + lane) then
    wrf (.landStatus l) (5 + lane) 1 0
    bump (.landErr l) 56 4
    modify fun s => s.setLink l { s.link l with retrain := true, bads := [] }
    send (.train l ((← get).trainInfo l))
    setLandState l 3
    reportIn (some (.landing l)) 0x0C 2 1 (unitWord 7 l) 0 (.landStatus l)
    modify fun s => s.handle (.landing l) 0x0C 1 (unitWord 7 l) none

/-- The SEQ of the oldest DATA flit that is held (R366). -/
def LinkSt.oldest (x : LinkSt) : Nat := (x.acked + 1) % 4096

/-- The held DATA flits are sent again, counted as one replay (R366). -/
def resendHeld (l : Nat) : M Unit := do
  bump (.landErr l) 40 16
  let x := (← get).link l
  forAll ((List.range x.sent.length).zip x.sent) fun e => send (.data l ((x.oldest + e.1) % 4096) x.ack e.2)

/-- A retrain under R361 ends: a beacon first, then the replay, then what waits. A withdrawn part sends no beacon (R432). -/
def endRetrain (l : Nat) : M Unit := do
  let s ← get
  let x := s.link l
  set ((s.setLink l { x with retrain := false, replays := 0 }).endHandling (.landing l))
  whenM (!s.flag .partState 0) (send (.beacon l s.beacon))
  whenM (!x.sent.isEmpty) (resendHeld l)
  recovered 0x0C 300
  flows l

/-- The lane that a peer's TRAIN flit no longer names, of those in use. -/
def State.lostLane (s : State) (l : Nat) (p : TrainInfo) : Option Nat := (s.lanesIn l).find? fun i => !p.lanes.getLsbD i

/-- A TRAIN flit arrives: in training it tells the peer's identity; it ends a retrain under R361; and at a landing that carries traffic
it tells of a lane that the peer has lost, or of a retrain that the peer has started, in which this end takes part (R360, R361, R366;
log entry 165). -/
def trainFlit (l : Nat) (p : TrainInfo) : M Unit := do
  let s ← get
  if s.landState l = 1 then learnPeer l p
  else if s.landUp l then
    match s.lostLane l p with
    | some lane => loseLane l lane
    | none =>
      if (s.link l).retrain then endRetrain l
      else
        set (s.setLink l { s.link l with retrain := true })
        send (.train l (s.trainInfo l))

/-- What waits may be sent. -/
def LinkSt.waits (x : LinkSt) : Bool := !(x.rest.isEmpty && x.fwd.isEmpty && x.own.isEmpty && x.jnl.isEmpty)

/-- An ACK field arrives: it releases held DATA flits, and others may follow (R366). -/
def takeAck (l a : Nat) : M Unit := do
  let s ← get
  let x := s.link l
  let d := (a + 4096 - x.acked) % 4096
  if d = 0 ∨ x.sent.length < d then skip
  else
    set (s.setLink l { x with acked := a, sent := x.sent.drop d, replays := 0 })
    whenM x.waits (flows l)

/-- The sender replays from its oldest held flit; the eighth replay in a row without progress starts a retrain, and that needs three
lanes (R366). -/
def replay (l : Nat) : M Unit := do
  let x := (← get).link l
  if ¬ x.sent.isEmpty then
    modify fun s => s.setLink l { x with replays := x.replays + 1 }
    resendHeld l
    let s ← get
    if 8 ≤ x.replays + 1 then
      if (s.lanesIn l).length < 3 then downLanding l
      else
        set (s.setLink l { s.link l with retrain := true, replays := 0 })
        send (.train l (s.trainInfo l))

/-- ACK has not advanced for 1 µs (R366). -/
def replayLanding (l : Nat) : M Unit := do
  let s ← get
  if s.landUp l ∧ ¬ (s.link l).retrain then replay l

/-- A DATA flit arrives whose codeword decodes: in sequence it is accepted, otherwise discarded (R366). -/
def dataFlit (l seq a : Nat) : M Bool := do
  let s ← get
  if s.landUp l ∧ ¬ (s.link l).retrain then
    takeAck l a
    let x := (← get).link l
    if seq = x.expect then
      modify fun s => s.setLink l { x with expect := (seq + 1) % 4096 }
      return true
    else return false
  else return false

/-- An IDLE flit arrives (R364). -/
def idleFlit (l a : Nat) : M Unit := do
  let s ← get
  if s.landUp l ∧ ¬ (s.link l).retrain then takeAck l a

/-- A NAK arrives: the sender replays from ACK + 1 (R366). -/
def nakFlit (l a : Nat) : M Unit := do
  let s ← get
  if s.landUp l ∧ ¬ (s.link l).retrain then
    takeAck l a
    replay l

/-- A lane has contributed to a codeword that does not decode; the eighth time in 10 µs it is lost (R361). -/
def blameLane (l lane : Nat) : M Unit := do
  let s ← get
  let b := (s.now, lane) :: (s.link l).bads.filter fun e => s.now < e.1 + 1000
  set (s.setLink l { s.link l with bads := b })
  if 8 ≤ (b.filter fun e => e.2 = lane).length then loseLane l lane

/-- A codeword does not decode: it is counted and answered with a NAK, and the lanes of its symbol errors are noted (R361, R366). -/
def badCodeword (l first : Nat) (e : List (Nat × Nat)) : M Unit := do
  let s ← get
  bump (.landErr l) 24 16
  send (.nak l (s.link l).ack)
  forAll (e.map fun x => s.laneOf l (first + x.1)).eraseDups (blameLane l)

/-- A codeword arrives with symbol errors: what its decoder leaves of them. A corrected one is counted (R363, R366). -/
def codewordAt (l first : Nat) (e : List (Nat × Nat)) : M (Option (List (Nat × Nat))) := do
  if ¬ (← get).landUp l then return none
  else if e.isEmpty then return some []
  else
    match linkJudge e with
    | some f =>
      bump (.landErr l) 0 24
      return some f
    | none =>
      badCodeword l first e
      return none

end Sys2Proof.Machine
end

