-- ==== Sys2Proof/Machine/Epochs.lean ====
section
/-! DEFINITION. The epoch machinery: directory loads, page states, commits and the journal's two sides (R319, R328,
R332-R341, R382, R383). -/

namespace Sys2Proof.Machine

/-- Result of a directory command (Table: Directory command codes). -/
def epResult (code : Nat) : M Unit := wrf .epCmdstat 0 8 code

/-- A record has reserved bits set, or a frame that is no near-bank page (R319). -/
def badRecord (r : Nat) : Bool :=
  (r >>> 3) % 2 ^ 18 != 0 || (r >>> 52) % 2 ^ 33 != 0 || (r >>> 116) % 2 ^ 12 != 0
    || nearEnd < (r >>> 21) % 2 ^ 31 * 2 ^ 21 + 2 ^ 21 || nearEnd < (r >>> 85) % 2 ^ 31 * 2 ^ 21 + 2 ^ 21

/-- A list of numbers holds one twice. -/
def hasDup : List Nat → Bool
  | [] => false
  | a :: r => r.contains a || hasDup r

/-- EP_CMD.LOAD (R319). A poisoned record counts as malformed (log entry 25). The records are read as the boot processor reads,
which no table checks: the spec names no master for them (log entry 122). -/
def epLoad : M Unit := do
  let s ← get
  let first := s.fld .epRegRange 0 15
  let n := s.fld .epRegRange 32 15
  let base := s.fld .epRegAddr 4 48 * 16
  if s.jobRuns then epResult 2
  else if 24576 < first + n then epResult 4
  else
    let (bytes, bad) ← bootFetch false base (16 * n)
    let s ← get
    let recs := (List.range n).map fun k => leAt bytes (16 * k) 16
    let kept := s.entries.filter fun e => e.1 < first || first + n ≤ e.1
    let frames := kept.flatMap (fun e => [s.epFrame e.1 0, s.epFrame e.1 1]) ++
      recs.flatMap fun r => [(r >>> 21) % 2 ^ 31 * 2 ^ 21, (r >>> 85) % 2 ^ 31 * 2 ^ 21]
    if bad ∨ recs.any badRecord then epResult 3
    else if hasDup frames then epResult 5
    else
      forAll (List.range n) fun k => do
        let r := recs.getD k 0
        wr (.epEntry (first + k) 0) (BitVec.ofNat 64 (1 + (r % 8) <<< 1 + ((r >>> 21) % 2 ^ 31) <<< 21))
        wr (.epEntry (first + k) 1) (BitVec.ofNat 64 (((r >>> 85) % 2 ^ 31) <<< 21))
        wr (.epEntry (first + k) 2) 0
      epCount
      epResult 0

/-- Every directory entry is cleared (R319). -/
def clearEntries : M Unit := do
  modify fun s => { s with undone := [], epFlaws := [] }
  forAll ((← get).entries) fun e => do
    wr (.epEntry e.1 0) 0
    wr (.epEntry e.1 1) 0
    wr (.epEntry e.1 2) 0
  epCount

/-- EP_CMD.UNLOAD (R319). -/
def epUnload : M Unit := do
  if (← get).jobRuns then epResult 2
  else
    clearEntries
    epResult 0

/-- The listed keys of a sparse map that lie in [a, b), moved up or down to start at c, as rising entries. -/
def shiftKeys {α : Type} (l : AList α) (a b c : Nat) : AList α :=
  (l.filter fun e => a ≤ e.1 && e.1 < b).map fun e => (c + (e.1 - a), e.2)

/-- A sparse map with the entries of [c, c + n) replaced by those of [a, a + n). -/
def copyKeys {α : Type} (l : AList α) (a c n : Nat) : AList α :=
  (l.filter fun e => e.1 < c) ++ shiftKeys l a (a + n) c ++ l.filter fun e => c + n ≤ e.1

/-- The listed bytes of a frame, byte k of which is given by a function. -/
def State.frameCells (s : State) (f : Nat) (byte : Nat → Byte) : List (Nat × Byte) :=
  (List.range (2 ^ 21)).filterMap fun k => if byte k = s.blank (f + k) then none else some (f + k, byte k)

/-- Memory with the bytes of a frame replaced by listed ones. -/
def State.putFrame (s : State) (f : Nat) (cells : List (Nat × Byte)) : List (Nat × Byte) :=
  (s.mem.filter fun e => e.1 < f) ++ cells ++ s.mem.filter fun e => f + 2 ^ 21 ≤ e.1

/-- A state with the bytes of one 2 MiB frame copied into another, and with them what reads as poisoned. -/
def State.copyPage (s : State) (src dst : Nat) : State :=
  let t : State := { s with
    mem := if s.freeMem.isEmpty then copyKeys s.mem src dst (2 ^ 21)
      else s.putFrame dst (s.frameCells dst fun k => s.byte (src + k))
    poison := copyKeys s.poison (src / 128) (dst / 128) (2 ^ 14)
    flaws := s.flaws.filter fun e => e.1 / 2 ^ 14 != dst / 2 ^ 21 }
  (s.flaws.filter fun e => e.2.bad && e.1 / 2 ^ 14 = src / 2 ^ 21).foldl
    (fun t e => t.setLinePoison (e.1 - src / 128 + dst / 128) true) t

/-- A slice has copied or sealed a page (VD_STAT.PAGES). -/
def slicePage (i : Nat) : M Unit := modify fun s => s.addFld (.vdStat (i % 8)) 32 32 1

/-- Maintenance of every sector of a frame in all canopies, done when it ends (R328). -/
def maintainFrame (op f : Nat) : M Unit := maintain op fun a => f ≤ a && a < f + 2 ^ 21

/-- A channel has failed, a row tag is wrong, or a check line in a buffer is not the one in the device: what a frame reads as is then not
told by its lines alone (R260, R262, R426). -/
def State.nearTrouble (s : State) : Bool :=
  !s.badTags.isEmpty || ((List.range 48).any fun c => s.flag (nbHealthOf c) 7)
    || s.openRows.any fun e => !e.2.ok || !e.2.late.isEmpty || e.2.lateTag != 0

/-- The lines among n from line l that may not be delivered as they are stored, in ascending order. -/
def State.suspects (s : State) (l n : Nat) : List Nat :=
  if s.nearTrouble then (List.range n).map (l + ·)
  else
    let mine (k : Nat) : Bool := l ≤ k && k < l + n
    ((s.poison.map (·.1)).filter mine ++ (s.flaws.map (·.1)).filter mine).mergeSort.eraseDups

/-- Those of some lines that their controllers deliver poisoned (R257, R266). -/
def badLines : List Nat → M (List Nat)
  | [] => return []
  | l :: r => do
    let b ← nearLine l
    let bs ← badLines r
    return if b then l :: bs else bs

/-- The lines of a frame are read: those that are delivered poisoned (R266). -/
def readFrame (f : Nat) : M (List Nat) := do badLines ((← get).suspects (f / 128) (2 ^ 14))

/-- The bytes of one 2 MiB frame are copied into another, with what is delivered poisoned (R332). -/
def copyFrame (src dst : Nat) : M Unit := do
  let bad ← readFrame src
  let s ← get
  if s.nearTrouble then
    forAll (List.range (2 ^ 14)) fun k => do
      let _ ← rawWrite (dst + 128 * k) ((← get).bytes (src + 128 * k) 128) (bad.contains (src / 128 + k))
      skip
  else
    set { s.copyPage src dst with openRows := s.openRows.map fun (e : Nat × OpenRow) => (e.1, { e.2 with changed := true }) }

/-- Entry i's STATE. -/
def setEpState (i n : Nat) : M Unit := wrf (.epEntry i 0) 5 2 n

/-- Declare the page of entry i into a set (R332). -/
def declPage (set_ i : Nat) : M Unit := do
  let s ← get
  let (com, sh) := s.epFrames i
  wrf (.epEntry i 0) 8 6 set_
  maintainFrame 2 sh
  whenM (s.flag (.epEntry i 0) 2) (do
    copyFrame com sh
    slicePage i)
  setEpState i 1

/-- Journalling is active (R338). -/
def State.journalling (s : State) : Bool := s.flag .epCtrl 1 && s.fld .epStatus 37 2 == 1

/-- The 64 bytes of a journal record (Table: Journal record). -/
def jrecBytes (r : JRec) : List Byte :=
  toLE r.kind 4 ++ toLE r.index 4 ++ toLE r.epoch 4 ++ toLE r.pages 4 ++ toLE r.pcrc 8 ++ toLE r.digest 8 ++ toLE 0 32

/-- The TID of packet k of a journal record: the model's choice (log entry 26). -/
def jtid (r : JRec) (k : Nat) : Nat := 2 ^ 31 + r.num % 2 ^ 16 * 2 ^ 10 + k

/-- Packet k of a journal record with its data and poisoned lines (R383). -/
def State.jpacket (s : State) (r : JRec) (k : Nat) (d : List Byte) (pm : Nat) : Packet :=
  s.mkPacket (s.fld .epCtrl 44 16) 7 true (4096 * k + r.num <<< 32) 0 (jtid r k) pm d.length d

/-- Send packet k of a journal record over the pair landing: its header, then 512 parts of its page, whose lines are read then (R266,
R383). No table checks the journal's reads: the spec names no master for them (log entry 122). -/
def sendJournal (r : JRec) (k : Nat) : M Unit := do
  match (← get).pairLanding with
  | none => skip
  | some l =>
    if k = 0 then sendOn .jnl l ((← get).jpacket r 0 (jrecBytes r) 0)
    else
      let a := r.frame + 4096 * (k - 1)
      let bad ← badLines ((← get).suspects (a / 128) 32)
      let s ← get
      sendOn .jnl l (s.jpacket r k (s.bytes a 4096) ((bad.map fun b => 2 ^ (b - a / 128)).sum))

/-- Send waiting journal records while fewer than 8 are unanswered (R383). -/
def pumpJournal : Nat → M Unit
  | 0 => skip
  | n + 1 => do
    let s ← get
    match s.journal.queue with
    | [] => skip
    | r :: q =>
      if 8 ≤ s.journal.unacked.length then skip
      else
        set { s with journal := { s.journal with queue := q, unacked := s.journal.unacked ++ [r] } }
        sendJournal r 0
        whenM (r.kind % 2 = 1) (forAll (List.range 512) fun k => sendJournal r (k + 1))
        pumpJournal n

/-- Queue a journal record (R338). -/
def queueJournal (kind index epoch pages pcrc digest frame : Nat) : M Unit := do
  modify fun s => { s with journal := { s.journal with
    queue := s.journal.queue ++ [⟨s.journal.next % 2 ^ 32, kind, index, epoch, pages, pcrc, digest, frame, []⟩]
    next := s.journal.next + 1 } }
  pumpJournal 8

/-- Seal the page of entry i (R333). -/
def sealPage (i : Nat) : M Unit := do
  let sh := ((← get).epFrames i).2
  maintainFrame 3 sh
  let bad ← readFrame sh
  let s ← get
  wr (.epEntry i 2) (BitVec.ofNat 64 (crc64 0 (s.bytes sh (2 ^ 21))))
  whenM (!bad.isEmpty) (wrf (.epEntry i 0) 7 1 1)
  setEpState i 2
  modify fun s => { s with undone := awrite false s.undone (epSet (s.reg (.epEntry i 0))) false }
  slicePage i
  whenM (s.journalling && s.flag (.epEntry i 0) 3)
    (queueJournal 1 i (s.epoch + 1) 0 ((← get).reg (.epEntry i 2)).toNat 0 sh)

/-- A state in which the bytes of a frame are unspecified (R334): free values; poison marks stand (log entry 27). -/
def State.freePage (s : State) (f : Nat) : State :=
  { s with
    mem := s.putFrame f (s.frameCells f fun k => ((Config.freeW (s.fresh + k / 8)) >>> (8 * (k % 8))).setWidth 8)
    fresh := s.fresh + 2 ^ 18 }

/-- A read unit that chose the shadow version of a set keeps it for a page that leaves the set (R334). -/
def EpUnit.keep (u : EpUnit) (i k : Nat) : EpUnit :=
  if u.choices.contains (k, true) then { u with choices := (64 + i, true) :: u.choices } else u

/-- Return the page of entry i to CLEAN; a set that was done ceases to be (R334). -/
def discardPage (i : Nat) : M Unit := do
  modify fun (s : State) =>
    let k := epSet (s.reg (.epEntry i 0))
    { s with
      epUnits := s.epUnits.map fun (e : Nat × EpUnit) => (e.1, e.2.keep i k)
      undone := awrite false s.undone k (aread false s.undone k || s.setDone k) }
  modify fun s => s.freePage (s.epFrames i).2
  setEpState i 0
  wrf (.epEntry i 0) 7 1 0

/-- A commit that sampled EP_CTRL as `ctrl` ends, or is refused: its event, LASTCODE, and a record for the codes that raise one
(R337, R45). -/
def commitEvent (ctrl : W64) (code pages digest : Nat) : M Unit := do
  wrf .epStatus 40 8 code
  let s ← get
  event (field ctrl 2 10) 0x0020 code (BitVec.ofNat 64 (s.epoch + pages <<< 32)) (BitVec.ofNat 64 digest)
  whenM (code = 2 || code = 3 || code = 0x12) (incident 0x0A 2 code (unitWord 0 0) 0 ((← get).reg .epStatus))

/-- A commit is requested (R336), and samples the fields of EP_CTRL that it uses (R45); a HALTED directory refuses it (R341). -/
def requestCommit : M Unit := do
  let s ← get
  if s.epMode = 3 then commitEvent (s.reg .epCtrl) 0x12 0 0
  else if s.flag .epStatus 36 then skip
  else
    set { s with commit := { CommitSt.idle with ctrl := s.reg .epCtrl } }
    wrf .epStatus 36 1 1

/-- EP_CMD.CANCEL (R336). -/
def cancelCommit : M Unit := do
  if (← get).commit.step = 0 then
    wrf .epStatus 36 1 0
    modify fun s => { s with commit := .idle }

/-- A commit that has not reached step 3 is cancelled at job end (R249 step 3). -/
def dropCommit : M Unit := do
  let s ← get
  if s.flag .epStatus 36 ∧ s.commit.step = 0 then
    cancelCommit
    commitEvent s.commit.ctrl 0x13 0 0

/-- The SEALED entries, by ascending index. -/
def State.sealed (s : State) : List Nat := (s.entries.filter fun e => epState e.2 = 2).map (·.1)

/-- The digest of R337 over pairs of index and page CRC. -/
def digestOf (l : List (Nat × Nat)) : Nat := crc64 0 (l.flatMap fun e => toLE e.1 8 ++ toLE e.2 8)

/-- The digest of a commit: 0 when no page is declared (R336). -/
def State.commitDigest (s : State) : Nat :=
  digestOf (s.sealed.map fun i => (i, (s.reg (.epEntry i 2)).toNat))

/-- The committed epoch takes a value. -/
def setEpoch (e : Nat) : M Unit := do
  wrf .epEpoch 0 32 e
  wrf .epStatus 0 32 e

/-- Slot s of index i in the replica (R339). -/
def State.slotAddr (s : State) (i sl : Nat) : Nat := s.fld .epRplBase 21 31 * 2 ^ 21 + (2 * i + sl) * 2 ^ 21

/-- The kept near-bank ranges (SCRUB_KEEP_k). -/
def State.kept (s : State) : List (Nat × Nat) :=
  ((List.range 4).filter fun k => s.flag (.scrubKeep k) 0).map fun k =>
    let lo := s.fld (.scrubKeep k) 21 31 * 2 ^ 21
    (lo, min nearEnd (lo + s.fld (.scrubKeep k) 52 12 * 2 ^ 21))

/-- An address lies in one of some ranges. -/
def inRanges (l : List (Nat × Nat)) (a : Nat) : Bool := l.any fun r => r.1 ≤ a && a < r.2

/-- Ranges without a range. -/
def cutRange (k : Nat × Nat) (l : List (Nat × Nat)) : List (Nat × Nat) :=
  l.flatMap fun r => [(r.1, min r.2 k.1), (max r.1 k.2, r.2)].filter fun g => g.1 < g.2

/-- The far bank, but for the partner's replica while that is enabled (R339, R460). -/
def State.farRanges (s : State) : List (Nat × Nat) :=
  let l := [(farBase, 0x0900_0000_0000)]
  if s.flag .epRplBase 0 then cutRange (s.slotAddr 0 0, s.slotAddr 24576 0) l else l

/-- The ranges that a scrub writes: the near bank but for the kept ranges, every heartwood, and the far bank when it is included (Table:
Job-end scrub). -/
def State.scrubRanges (s : State) (far : Bool) : List (Nat × Nat) :=
  s.kept.foldl (fun l k => cutRange k l) [(0, nearEnd)] ++ [(heartBase, heartOf 64)] ++ (if far then s.farRanges else [])

/-- A row of a channel lies in kept ranges. -/
def State.rowKept (s : State) (c row : Nat) : Bool := (List.range 15).all fun k => inRanges s.kept (s.nearAddr c row k)

/-- A canopy without the sectors of some ranges. -/
def CanopySt.without (c : CanopySt) (l : List (Nat × Nat)) : CanopySt :=
  let cut (x : CanLine) : CanLine := { x with sects := x.sects.filter fun q => !inRanges l (x.base * 512 + q.1 * 128) }
  { c with lines := (c.lines.map cut).filter fun x => !x.sects.isEmpty }

/-- A state in which a scrub of ranges is under way: they read as unspecified values, also through the canopies, and the rows outside
the kept ranges have valid tags (R460, R461; log entry 177). -/
def State.scrubs (s : State) (l : List (Nat × Nat)) : State :=
  { l.foldl (fun s r => s.freeRange r.1 r.2) s with
    poison := s.poison.filter fun (e : Nat × Bool) => !inRanges l (e.1 * 128)
    flaws := s.flaws.filter fun (e : Nat × LineFlaw) => !inRanges l (e.1 * 128)
    badTags := s.badTags.filter fun (e : Nat × BitVec 64) => s.rowKept (e.1 / 2 ^ 21) (e.1 % 2 ^ 21)
    openRows := s.openRows.map fun (e : Nat × OpenRow) =>
      if s.rowKept (e.1 / 16) e.2.row then e else (e.1, { e.2 with ok := true, changed := true })
    canopies := s.canopies.map fun (e : Nat × CanopySt) => (e.1, e.2.without l) }

/-- The scrub starts: SCRUB_REQ stays 1 until it is complete (R391, R461). -/
def scrubStarts : M Unit := do
  wrf .structStatus 17 1 1
  wrf .scrubStatus 0 1 1
  modify fun s => s.scrubs (s.scrubRanges (s.flag .scrubCtrl 0))

/-- Accesses of the Job world that were accepted earlier still wait: inbound requests at a landing, or writes (R249 step 4). -/
def State.jobWaits (s : State) : Bool := !s.posted.isEmpty || s.links.any fun e => e.2.inq.any fun p => !p.1.world

/-- The steps of R249 have been taken: the scrub starts once no commit is in progress and no access of the Job world waits (R249
steps 3 and 4); a host reset runs its own (R391). -/
def drainedScrub : M Unit := do
  let s ← get
  whenM (s.job.drained && !s.pcie.inReset && !s.flag .structStatus 17 && !s.flag .epStatus 36 && !s.jobWaits) scrubStarts

/-- A read unit after a commit of some entries in some sets: the shadow versions that it chose are the committed ones now, and a
later declaration's shadow is none of them (R325, R336). -/
def EpUnit.flipped (u : EpUnit) (l ks : List Nat) : EpUnit :=
  { u with choices := u.choices.map fun c =>
      (c.1, c.2 && !(if c.1 < 64 then ks.contains c.1 else l.contains (c.1 - 64))) }

/-- A commit in progress is refused, since the directory is HALTED (R341). -/
def refuseCommit : M Unit := do
  let s ← get
  set { s.setFld .epStatus 36 1 0 with commit := .idle }
  commitEvent s.commit.ctrl 0x12 0 0
  drainedScrub

/-- Steps 5 and 6 of R336: the flip. STATE becomes OPEN, or OFF without a valid entry (log entry 28). -/
def flipPages : M Unit := do
  let s ← get
  let l := s.sealed
  let e := (s.epoch + 1) % 2 ^ 32
  let c := s.commit
  let ks := l.map fun i => epSet (s.reg (.epEntry i 0))
  set { s with undone := [], epUnits := s.epUnits.map fun (e : Nat × EpUnit) => (e.1, e.2.flipped l ks) }
  forAll l fun i => do
    wrf (.epEntry i 0) 4 1 (1 - s.fld (.epEntry i 0) 4 1)
    setEpState i 0
  setEpoch e
  modify fun s => { s with commit := .idle }
  wrf .epStatus 36 1 0
  wrf .epStatus 32 3 1
  epCount
  wr .epDigest (BitVec.ofNat 64 c.digest)
  wr .epLastcommit (BitVec.ofNat 64 (e + l.length <<< 32))
  modify fun s => s.addFld .epStatus 48 16 1
  commitEvent c.ctrl (b2n c.cut + 2 * b2n c.lost) l.length c.digest
  drainedScrub

/-- The flip, unless an error in the entries that it reads halts the directory (R336, R341). -/
def flip : M Unit := do
  epCheckAll ((← get).entries.map (·.1))
  if (← get).epMode = 3 then refuseCommit else flipPages

/-- Step 4 of R336: the digest, and the commit record when journalling is active. -/
def commitStep4 : M Unit := do
  let s ← get
  let d := s.commitDigest
  if s.journalling then
    set { s with commit := { s.commit with step := 4, digest := d } }
    queueJournal 2 0 (s.epoch + 1) s.sealed.length 0 d 0
  else
    set { s with commit := { s.commit with digest := d } }
    flip

/-- A read unit is in progress: a ferry's descriptor, or the instruction of a thread that waits part-way through it (R325). -/
def State.unitRuns (s : State) (u : Nat) : Bool :=
  u < 64 || (match (s.thread (u - 64)).hold with | .none => false | .issue => false | _ => true)

/-- Read units in progress that resolved a SEALED page to its committed frame (R336 step 3). -/
def State.drainWaits (s : State) : Bool :=
  s.epUnits.any fun u => s.unitRuns u.1 && u.2.used.any fun i => s.sealed.contains i && !u.2.cut.contains i

/-- A commit in step 2 waits for the partner to acknowledge every queued page (R336). -/
def State.journalWaits (s : State) : Bool :=
  s.journalling && !(s.journal.queue.isEmpty && s.journal.unacked.isEmpty)

/-- A requested commit proceeds as far as its conditions let it (R336, R357). -/
def commitGo : M Unit := do
  whenM ((← get).flag .epStatus 36) (do epCheckAll ((← get).entries.map (·.1)))
  let s ← get
  if ¬ s.flag .epStatus 36 then skip
  else if s.epMode = 3 then refuseCommit
  else
    match s.commit.step with
    | 4 => whenM (!s.journalling) flip
    | 3 => whenM (!s.drainWaits) commitStep4
    | _ =>
      let declared := (s.entries.filter fun e => epState e.2 ≠ 0).length
      if declared ≠ s.sealed.length then skip
      else if s.sealed.any fun i => s.flag (.epEntry i 0) 7 then
        wrf .epStatus 36 1 0
        commitEvent s.commit.ctrl 0x11 0 0
      else if bit s.commit.ctrl 0 ∧ ¬ s.flag .epStatus 35 then skip
      else if s.journalWaits then skip
      else
        set { s with commit := { s.commit with step := 3 } }
        wrf .epStatus 32 3 2
        whenM (!(← get).drainWaits) commitStep4

/-- A read unit cut from the pages whose committed version it holds: those that it resolved to their committed frame, and those
of a set whose committed version it chose, so that it sees no mixture (R325, R336; log entry 128). -/
def State.cutUnit (s : State) (u : EpUnit) : EpUnit :=
  { u with cut := u.cut ++ s.sealed.filter fun i =>
      u.used.contains i || u.choices.contains (epSet (s.reg (.epEntry i 0)), false) }

/-- DRAIN µs have passed in step 3: read units still waiting are cut (R336). -/
def drainTimeout : M Unit := do
  let s ← get
  if s.commit.step = 3 ∧ s.drainWaits then
    set { s with
      epUnits := s.epUnits.map fun (e : Nat × EpUnit) => (e.1, s.cutUnit e.2)
      commit := { s.commit with cut := true } }
    commitStep4

/-- The commit window opens or closes (R350, R357): a commit that waits in step 2, for the window or the journal, when it closes
raises code 0x10. -/
def setWindow (b : Bool) : M Unit := do
  let s ← get
  wrf .epStatus 35 1 (b2n b)
  let declared := (s.entries.filter fun e => epState e.2 ≠ 0).length
  if ¬ b ∧ s.flag .epStatus 35 ∧ s.flag .epStatus 36 ∧ (bit s.commit.ctrl 0 || s.journalWaits) ∧ s.commit.step = 0 ∧
      declared = s.sealed.length ∧ ¬ (s.sealed.any fun i => s.flag (.epEntry i 0) 7) then
    commitEvent s.commit.ctrl 0x10 0 0

/-- JSTATE becomes LOST (R340); a commit that waits for the partner continues (R336 step 4). -/
def loseJournal : M Unit := do
  journalLost
  whenM ((← get).commit.step = 4) flip

/-- A journal record is not acknowledged within JTIMEOUT (R340). -/
def journalTimedOut : M Unit := do
  let s ← get
  if s.journalling ∧ ¬ s.journal.unacked.isEmpty then loseJournal

/-- EP_CMD.RESYNC (R340). -/
def resyncJournal : M Unit := do
  let s ← get
  if s.epMode = 1 ∧ ¬ s.flag .partState 0 then
    wrf .epStatus 37 2 1
    let _ ← mapAll s.entries fun e => readFrame (s.epFrames e.1).1
    let s ← get
    let pages := s.entries.map fun e =>
      let f := (s.epFrames e.1).1
      (e.1, crc64 0 (s.bytes f (2 ^ 21)), f)
    forAll pages fun p => queueJournal 3 p.1 s.epoch 0 p.2.1 0 p.2.2
    queueJournal 4 0 s.epoch pages.length 0 (digestOf (pages.map fun p => (p.1, p.2.1))) 0

/-- A JACK arrives for the oldest unanswered record (R383). -/
def takeJack (ok : Bool) (num : Nat) : M Unit := do
  let s ← get
  match s.journal.unacked with
  | [] => skip
  | r :: q =>
    if r.num ≠ num ∨ s.fld .epStatus 37 2 ≠ 1 then skip
    else
      set { s with journal := { s.journal with unacked := q } }
      if ok then
        pumpJournal 8
        whenM (s.commit.step = 4 && r.kind = 2) flip
      else loseJournal

/-- An ACK with code CRC for a journal packet: it is sent again, up to 3 times (R369). Answers whether it was one. -/
def repeatJournal (tid : Nat) : M Bool := do
  let s ← get
  match s.journal.unacked.find? fun r => jtid r 0 / 2 ^ 10 = tid / 2 ^ 10 with
  | none => return false
  | some r =>
    let k := tid % 2 ^ 10
    let n := aread 0 r.tries k
    if 3 ≤ n then loseJournal
    else
      set { s with journal := { s.journal with
        unacked := s.journal.unacked.map fun x => if x = r then { r with tries := aput r.tries k (n + 1) } else x } }
      sendJournal r k
    return true

/-- RCUR of an index (R339). -/
def State.rcur (s : State) (i : Nat) : Bool := s.flag (.epRplCur (i / 64)) (i % 64)

/-- Answer a journal record (R383). -/
def sendJack (p : Packet) (ok : Bool) (num : Nat) : M Unit := do
  sendReply ((← get).mkPacket p.spart.toNat 8 true (b2n ok + num <<< 32) 0 p.tid.toNat 0 0 [])

/-- The received set changes (EP_RPL_STATUS.PAGES). -/
def setReceived (l : List (Nat × Nat)) : M Unit := modify fun (s : State) =>
  { s.setFld .epRplStatus 32 15 l.length with replica := { s.replica with set := l } }

/-- Put an index with its CRC into a received set, in ascending order of index. -/
def addReceived (i c : Nat) (l : List (Nat × Nat)) : List (Nat × Nat) := aput l i c

/-- The partner has a whole record: handle and answer it (R339). -/
def handleRecord (p : Packet) (r : RxRec) : M Unit := do
  let s ← get
  let l := s.replica.set
  if ¬ s.flag .epRplBase 0 ∨ r.bad then
    sendJack p false r.num
  else if r.kind % 2 = 1 then
    if r.crc = r.pcrc then
      setReceived (addReceived r.index r.pcrc l)
      sendJack p true r.num
    else sendJack p false r.num
  else if digestOf l = r.digest ∧ l.length = r.pages then
    forAll l fun e => modify fun s => s.setFld (.epRplCur (e.1 / 64)) (e.1 % 64) 1 (1 - b2n (s.rcur e.1))
    wrf .epRplStatus 0 32 r.epoch
    wrf .epRplStatus 48 1 1
    setReceived []
    sendJack p true r.num
  else
    setReceived []
    sendJack p false r.num

/-- The partner handles the records that are whole, in their order (R383). The answer goes to the sender of a packet. -/
def handleDue (p : Packet) : Nat → M Unit
  | 0 => skip
  | n + 1 => do
    let x := (← get).replica
    match x.recs.find? fun r => x.next = some r.num ∧ r.due.isEmpty with
    | none => skip
    | some r =>
      modify fun s => { s with replica := { s.replica with
        next := some ((r.num + 1) % 2 ^ 32), recs := s.replica.recs.filter fun y => y.num != r.num } }
      handleRecord p r
      handleDue p n

/-- The record of a journal packet with offset 0 (Table: Journal record). -/
def rxRecord (num len : Nat) (d : List Byte) : RxRec :=
  let k := leAt d 0 4
  ⟨num, k, leAt d 4 4, leAt d 8 4, leAt d 0xC 4, leAt d 0x10 8, leAt d 0x18 8, if k % 2 = 1 then List.range 512 else [], 0,
    decide (k < 1 ∨ 4 < k ∨ len ≠ 64) || (decide (k % 2 = 1) && decide (24576 ≤ leAt d 4 4))⟩

/-- A part of a page comes in, 4 KiB of it, in any order, since a repeat under R369 may come late: it is written to the slot that is not
current, and its share of the page CRC taken (R339, R383). -/
def rxPart (l : Nat) (r : RxRec) (p : Packet) : M Unit := do
  let k := p.addr.toNat % 2 ^ 32 / 4096 - 1
  let s ← get
  if r.due.contains k then
    let ok := p.len = 4096 ∧ p.addr.toNat % 4096 = 0 ∧ ¬ r.bad ∧ s.flag .epRplBase 0
    let a := s.slotAddr r.index (1 - b2n (s.rcur r.index)) + 4096 * k
    let denied ← (if ok then do
      match ← checkAcc ⟨BitVec.ofNat 10 (0x150 + l), true⟩ .wr a 4096 with
      | some _ => return true
      | none =>
        forAll (List.range 32) fun i => busWriteAll 3 (p.pmask.getLsbD i) ((p.data.drop (128 * i)).take 128)
          (a + 128 * i) [(a + 128 * i, 128)]
        return false
      else return true)
    let r := { r with
      bad := r.bad || denied
      crc := r.crc ^^^ crc64 0 (p.data ++ List.replicate (4096 * (511 - k)) 0)
      due := r.due.filter (· != k) }
    modify fun s => { s with replica := { s.replica with recs := s.replica.recs.map fun y => if y.num = r.num then r else y } }

/-- A record's number is not among the 8 that the partner may be sent now: its sender has begun anew (R383; log entry 162). -/
def Replica.restarts (x : Replica) (num : Nat) : Bool :=
  match x.next with
  | none => true
  | some n => 8 ≤ (num + 2 ^ 32 - n % 2 ^ 32) % 2 ^ 32 || x.recs.any fun r => r.num == num

/-- A journal packet arrives at the partner's landing l (R339, R383): a record, or 4 KiB of a page, which waits for its record where
that has not come. -/
def journalPacket (l : Nat) (p : Packet) : M Unit := do
  let off := p.addr.toNat % 2 ^ 32
  let num := p.addr.toNat / 2 ^ 32
  let x := (← get).replica
  if off = 0 then
    let r := rxRecord num p.len p.data
    let x := if x.restarts num then { x with next := some num, recs := [], early := x.early.filter fun e => e.addr.toNat / 2 ^ 32 = num }
      else x
    modify fun s => { s with replica := { x with
      recs := x.recs ++ [r], early := x.early.filter fun e => e.addr.toNat / 2 ^ 32 ≠ num } }
    forAll (x.early.filter fun e => e.addr.toNat / 2 ^ 32 = num) fun e => do
      match (← get).replica.recs.find? fun y => y.num = num with
      | some r => rxPart l r e
      | none => skip
  else
    match x.recs.find? fun y => y.num = num with
    | some r => rxPart l r p
    | none => modify fun s => { s with replica := { s.replica with early := (s.replica.early ++ [p]).drop (s.replica.early.length - 4095) } }
  handleDue p 9

/-- Whether an access that waits in a replica still waits, so that its time-out has effect (R326). -/
def holdsEpoch : Hold → Option (Nat × Nat)
  | .epoch va i _ => some (va, i)
  | _ => none

/-- Journalling starts with the job when JOURNAL is 1, and only with a partner on the pair landing (R338, R382). -/
def startJournal : M Unit := do
  let s ← get
  if s.flag .epCtrl 1 ∧ s.flag .partState 0 then wrf .epStatus 37 2 2
  else if s.flag .epCtrl 1 then
    let ok := match s.pairLanding with
      | some l => s.landUp l && s.flag (.landStatus l) 13 && s.fld (.landStatus l) 16 16 == s.fld .epCtrl 44 16
      | none => false
    if ok then wrf .epStatus 37 2 1
    else
      wrf .epStatus 37 2 2
      let l := s.pairLanding.getD 0
      incident 0x0C 3 3 (unitWord 7 l) 0 (s.reg (.landStatus l))
  else wrf .epStatus 37 2 0

end Sys2Proof.Machine
end

