-- ==== Sys2Proof/Machine/Hash.lean ====
section
/-! DEFINITION. SHAKE256 with a 64-byte output (R22), which the spec takes from FIPS 202 (log entry 10). -/

namespace Sys2Proof.Machine

/-- One step of the eight-bit feedback register that yields the round constants: x^8 + x^6 + x^5 + x^4 + 1. -/
def sponTap (r : Nat) : Nat := if r ≥ 128 then (2 * r).xor 0x171 else 2 * r

/-- The round constant made of the register's next seven bits, bit k at place 2^k - 1, and the register after. -/
def sponConst : Nat × W64 → Nat → Nat × W64
  | (r, v), k => (sponTap r, if r % 2 = 1 then v ||| (1 : W64) <<< (2 ^ k - 1) else v)

/-- The parity of each column, folded into the lanes of its two neighbours. -/
def sponMix (a : List W64) : List W64 :=
  let par (x : Nat) : W64 := (List.range 25).foldl (fun v i => if i % 5 = x % 5 then v ^^^ a.getD i 0 else v) 0
  (List.range 25).map fun i => a.getD i 0 ^^^ par (i + 4) ^^^ (par (i + 1)).rotateLeft 1

/-- The walk that turns and moves the lanes: 24 places from (1, 0), each next place (y, 2x + 3y), the t-th turned by
the t-th triangular number; what a place held is carried to the next. -/
def sponWalk : Nat → Nat → Nat → Nat → W64 → List W64 → List W64
  | 0, _, _, _, _, a => a
  | n + 1, t, x, y, v, a =>
    let y' := (2 * x + 3 * y) % 5
    sponWalk n (t + 1) y y' (a.getD (y + 5 * y') 0) (a.set (y + 5 * y') (v.rotateLeft (t * (t + 1) / 2 % 64)))

/-- Each lane against the two that follow it in its row. -/
def sponRow (a : List W64) : List W64 :=
  (List.range 25).map fun i =>
    let next (k : Nat) := a.getD (i - i % 5 + (i % 5 + k) % 5) 0
    a.getD i 0 ^^^ (next 2 &&& ~~~ next 1)

/-- The rounds of the permutation that are left, from the register that makes their constants. -/
def sponRounds : Nat → Nat → List W64 → List W64
  | 0, _, a => a
  | n + 1, r, a =>
    let m := sponMix a
    let b := sponRow (sponWalk 24 1 1 0 (m.getD 1 0) m)
    let (r', k) := (List.range 7).foldl sponConst (r, 0)
    sponRounds n r' (b.set 0 (b.getD 0 0 ^^^ k))

/-- The permutation of 25 lanes: 24 rounds. -/
def keccak (a : List W64) : List W64 := sponRounds 24 1 a

/-- Absorb blocks of 136 bytes. -/
def absorb : Nat → List Byte → List W64 → List W64
  | 0, _, a => a
  | n + 1, l, a =>
    absorb n (l.drop 136) (keccak ((List.range 25).map fun i =>
      a.getD i 0 ^^^ (if i < 17 then BitVec.ofNat 64 (leAt l (8 * i) 8) else 0)))

/-- SHAKE256 of a list of bytes with a 64-byte output, as a little-endian number (R22). -/
def shake512 (l : List Byte) : BitVec 512 :=
  let fill := 135 - l.length % 136
  let p := if fill = 0 then l ++ [0x9F] else l ++ 0x1F :: List.replicate (fill - 1) 0 ++ [0x80]
  let a := absorb (l.length / 136 + 1) p (List.replicate 25 0)
  BitVec.ofNat 512 (ofLE ((a.take 8).flatMap fun w => toLE w.toNat 8))

end Sys2Proof.Machine
end

