-- ==== Sys2Proof/Machine/Tide.lean ====
section
/-! DEFINITION. Tide: the count, its discipline, beacons, and the tide table (R342-R357). -/

namespace Sys2Proof.Machine

/-- TIDE_NOW. -/
def State.tideNow (s : State) : Nat := (s.reg .tideNow).toNat

/-- One cycle of TIDE_REF: the 96-bit accumulator advances by INC (R342), and an enrolment request that has run its time ends (R456). -/
def State.tick (s : State) : State :=
  let acc := (s.tideNow * 2 ^ 32 + s.tide.low + s.fld .tideInc 0 40) % 2 ^ 96
  let t := ({ s with now := s.now + 1, tide := { s.tide with low := acc % 2 ^ 32 } }).setReg .tideNow
    (BitVec.ofNat 64 (acc / 2 ^ 32))
  if s.sec.busy.any fun u => u ≤ s.now + 1 then
    { t.setFld .secMboxStatus 8 1 0 with sec := { s.sec with busy := none } }
  else t

/-- A state in which TIDE_NOW has been set to a value (R344). A compare value above it is still to be reached (R417), and entries
may fire at once (R353). -/
def State.setNow (s : State) (v : W64) : State :=
  let past (e : Nat × ThreadSt) : Nat × ThreadSt := (e.1, { e.2 with
    pastJ := e.2.pastJ && decide ((s.reg (.intTcmpJ (e.1 / 4) (e.1 % 4))).toNat ≤ v.toNat)
    pastS := e.2.pastS && decide ((s.reg (.intTcmpS (e.1 / 4) (e.1 % 4))).toNat ≤ v.toNat) })
  { s.setReg .tideNow v with
    threads := (s.threads.map past).filter fun e => e.2 != .idle
    tide := { s.tide with low := 0, next := min s.tide.next v.toNat } }

/-- TIDE_CFG's quiescent fields in effect: SOURCE, and the landings (R46). -/
def State.tideCfg (s : State) (lo n : Nat) : Nat := field (s.effReg .tideCfg) lo n

/-- The tide unit starts nothing new: its quiescent fields are asked for (R48). -/
def State.tideHeld (s : State) : Bool := s.flag (.cfgCtrl .dev) 2 && s.flag (.cfgPending .dev) 37

/-- A TIDE_SYNC event; no code is stated for a change of LOCK, so the code is the new LOCK (log entry 19). -/
def tideSync (code : Nat) (lo : W64) : M Unit := do
  event ((← get).fld .tideCfg 13 10) 0x0032 code lo 0

/-- LOCK takes a value (R345, R349). -/
def setLock (b : Bool) : M Unit := do
  let s ← get
  if s.flag .tideStatus 0 ≠ b then
    wrf .tideStatus 0 1 (b2n b)
    tideSync (b2n b) 0
    whenM (!b && s.jobRuns) (incident 0x0B 2 1 (unitWord 0 0) 0 ((← get).reg .tideStatus))

/-- The nominal increment (R342). -/
def incNominal : Nat := 0xA_BCC7_7118

/-- INC after a slew for a phase error: a free value that reduces it, within 1 tick in 1,024 of nominal (R344, R345; log
entry 29). -/
def slewInc (e : Int) (r : Nat) : Nat :=
  let d := r % (incNominal / 1024 + 1)
  if e = 0 then incNominal else if 0 < e then incNominal - d else incNominal + d

/-- A phase sample with a reference (R345); `step` steps TIDE_NOW to it whatever the error. -/
def phaseSample (ref : W64) (step : Bool) : M Unit := do
  let s ← get
  let e : Int := sInt 64 (s.reg .tideNow - ref).toNat
  let far := 8 < e.natAbs
  wrf .tideStatus 6 16 (wrap 16 (max (-32768) (min 32767 e)))
  if (far || step) && !s.jobRuns then modify fun s => s.setNow ref
  else wr .tideInc (BitVec.ofNat 64 (slewInc e (← draw).toNat))
  let good := if e.natAbs ≤ 4 then s.tide.good + 1 else 0
  modify fun s => { s with tide := { s.tide with good := min good 16 } }
  if far then setLock false else whenM (decide (16 ≤ good)) (setLock true)

/-- A TIDE_MARK edge (R344, R345; TIDE_SET): a value that waits for the mark is the reference of its sample, and is taken (DEDUCED,
log entry 159); else the mark is the multiple of 2^20 ticks nearest to the count. -/
def tideMarkEdge : M Unit := do
  let s ← get
  if s.tideCfg 0 2 = 1 then
    match s.tide.setv, s.jobRuns with
    | some v, false =>
      set { s with tide := { s.tide with setv := none } }
      phaseSample v true
    | _, _ => phaseSample (BitVec.ofNat 64 ((s.tideNow + 2 ^ 19) / 2 ^ 20 * 2 ^ 20)) false

/-- A write of TIDE_SET; in a job TIDE_NOW never steps (R344). -/
def setTide (v : W64) : M Unit := do
  let s ← get
  if s.jobRuns then skip
  else
  match s.tideCfg 0 2 with
  | 0 => set (s.setNow v)
  | 1 => set { s with tide := { s.tide with setv := some v } }
  | _ => skip

/-- A landing that sends and takes beacons. -/
def State.enabledLand (s : State) (l : Nat) : Bool := s.landByte l % 4 != 0 && s.landUp l && !(s.link l).retrain

/-- Beacons leave every 2^17 ticks on each enabled landing; a withdrawn part sends none (R347, R432). -/
def sendBeacons : M Unit := do
  let s ← get
  if s.tideCfg 3 1 = 1 ∧ ¬ s.flag .partState 0 ∧ ¬ s.tideHeld then
    forAll ((List.range 16).filter s.enabledLand) fun l => do send (.beacon l (← get).beacon)

/-- The upstream landing in use (R348). -/
def State.upstream (s : State) : Nat := s.tide.up.getD (s.tideCfg 4 4)

/-- The part has an upstream: it is no master, and its phase or its upper bits come from beacons (R346, R348). -/
def State.hasUp (s : State) : Bool :=
  s.tideCfg 2 1 == 0 && (s.tideCfg 0 2 == 2 || s.tideCfg 0 2 == 1 && s.tideCfg 3 1 == 1)

/-- A beacon that meets the conditions of R348: it is accepted. -/
def State.goodBeacon (s : State) (b : BeaconMsg) : Bool :=
  (!s.tide.known || s.fld .tideStatus 32 16 == b.master.toNat) && b.hops.toNat ≤ 7 && b.lock

/-- The upstream is lost: switch to ALTLAND when it is usable, else hold over (R348, R349). -/
def upstreamLost : M Unit := do
  let s ← get
  let alt := s.tideCfg 8 4
  if s.tideCfg 12 1 = 1 ∧ s.upstream ≠ alt ∧ s.enabledLand alt ∧ ¬ s.flag (.tideLink alt) 0 ∧
      (s.link alt).heard.any s.goodBeacon then
    set { s with tide := { s.tide with up := some alt } }
    tideSync 2 (BitVec.ofNat 64 alt)
  else wrf .tideStatus 1 1 1

/-- What a beacon on a landing does (R345-R348): the landing's state, then the discipline from the upstream landing. -/
def useBeacon (l : Nat) (b : BeaconMsg) : M Unit := do
  let s ← get
  if s.landUp l then
    wrf (.tideLink l) 1 4 b.hops.toNat
    wrf (.tideLink l) 32 16 b.sender.toNat
    modify fun s => s.setLink l { s.link l with heard := some b }
    if s.tide.known ∧ s.fld .tideStatus 32 16 ≠ b.master.toNat ∧ s.tideCfg 2 1 = 0 then
      tideSync 3 (BitVec.ofNat 64 b.master.toNat)
      incident 0x0B 0 2 (unitWord 7 l) 0 ((← get).reg .tideStatus)
    else whenM (s.goodBeacon b) (do
      wrf (.tideLink l) 0 1 0
      modify fun s => s.setLink l { s.link l with beaconAt := b.now }
      let ref := b.now + BitVec.ofNat 64 (s.fld (.tideLink l) 5 16)
      if l = s.upstream ∧ s.tideCfg 2 1 = 0 then
        wrf .tideStatus 32 16 b.master.toNat
        wrf .tideStatus 2 4 (b.hops.toNat + 1)
        wrf .tideStatus 1 1 0
        modify fun s => { s with tide := { s.tide with known := true } }
        if s.tideCfg 0 2 = 2 then phaseSample ref false
        else whenM (s.tideCfg 0 2 = 1 && s.tideCfg 3 1 = 1 && !s.jobRuns && s.tideNow / 2 ^ 20 != ref.toNat / 2 ^ 20) (do
          let n := (← get).tideNow
          let v := BitVec.ofNat 64 ((ref.toNat + 2 ^ 19 - n % 2 ^ 20) / 2 ^ 20 * 2 ^ 20 + n % 2 ^ 20)
          modify fun s => { s.setNow v with tide := { (s.setNow v).tide with low := s.tide.low } }))

/-- A beacon arrives; one that arrives while the unit's quiescent fields are asked for waits (R48). -/
def takeBeacon (l : Nat) (b : BeaconMsg) : M Unit := do
  let s ← get
  if s.tideHeld then set { s with tide := { s.tide with waiting := s.tide.waiting ++ [(l, b)] } }
  else useBeacon l b

/-- The tide unit takes the beacons that waited. -/
def takeWaiting : M Unit := do
  let s ← get
  if s.tideHeld then skip
  else
    set { s with tide := { s.tide with waiting := [] } }
    forAll s.tide.waiting fun e => useBeacon e.1 e.2

/-- No beacon has arrived on a landing for 2^19 ticks, whatever state its link is in (R349, R433). -/
def beaconLost (l : Nat) : M Unit := do
  let s ← get
  if s.landByte l % 4 ≠ 0 ∧ ¬ s.flag (.tideLink l) 0 then
    wrf (.tideLink l) 0 1 1
    incident 0x0B 2 3 (unitWord 7 l) 0 (s.reg .tideStatus)
    whenM s.jobRuns (fenceLanding l)
    whenM (s.hasUp && l == s.upstream) upstreamLost

/-- Holdover has lasted HOLDMAX ms (R349). -/
def holdoverEnds : M Unit := do
  let s ← get
  if s.flag .tideStatus 1 then setLock false

/-- ACTION, FLAGS, ARG0 of an entry, and so on (Table: Tide-table entry). -/
def State.ttField (s : State) (i w lo n : Nat) : Nat := s.fld (.ttEntry i w) lo n

/-- ACTION of an entry. -/
def State.ttAct (s : State) (i : Nat) : Nat := s.ttField i 1 0 8

/-- REL of an entry. -/
def State.ttRel (s : State) (i : Nat) : Bool := s.flag (.ttEntry i 1) 9

/-- The fire time of an entry (R351). -/
def State.ttTime (s : State) (i : Nat) : Nat :=
  if s.ttRel i then ((s.reg (.ttEntry i 0)) + s.reg .stepOrigin).toNat else (s.reg (.ttEntry i 0)).toNat

/-- A miss (R355). -/
def ttMiss (i act fire : Nat) : M Unit := do
  bump .ttStat 0 16
  let s ← get
  event (s.ttField i 3 0 10) 0x0030 act (BitVec.ofNat 64 i) (BitVec.ofNat 64 fire)
  incident 0x0B 0 4 (unitWord 0 0) 0 (s.reg .tideStatus)

/-- Arm an entry, or treat one whose fire time passed while EN was 0 as just armed (R351). -/
def ttArm (i : Nat) : M Unit := do
  let s ← get
  let fire := s.ttTime i
  let off : State := { s with tide := { s.tide with armed := adel s.tide.armed i } }
  if s.ttAct i = 0 ∨ (s.ttRel i ∧ ¬ s.flag .tideStatus 22) then set off
  else if s.flag .ttCtrl 0 ∧ fire < s.tideNow ∧ ¬ s.flag (.ttEntry i 1) 10 then
    set off
    bump .ttStat 16 16
    ttMiss i (s.ttAct i) fire
  else set { s with tide := { s.tide with armed := aput s.tide.armed i (fire, max fire s.tideNow) } }

/-- TT_CTRL.EN returns to 1 (R351). -/
def ttEnable : M Unit := do
  let s ← get
  forAll (s.tide.armed.filter fun e => e.2.1 < s.tideNow) fun e => ttArm e.1

/-- Every relative entry is armed again (R351, R356). -/
def ttArmRel : M Unit := do
  let s ← get
  forAll ((List.range 512).filter fun i => s.ttAct i ≠ 0 ∧ s.ttRel i) ttArm

/-- STEP_ORIGIN has changed by a write (R351, R356). -/
def originSet : M Unit := do
  wrf .tideStatus 22 1 1
  ttArmRel

/-- TIDE_NOW has reached STEP_ORIGIN + STEP_PERIOD (R356). -/
def originStep : M Unit := do
  let s ← get
  let p := s.fld .stepPeriod 0 32
  let o := (s.reg .stepOrigin + BitVec.ofNat 64 p)
  if p ≠ 0 ∧ o.toNat ≤ s.tideNow then
    wr .stepOrigin o
    ttArmRel

/-- Word 3 of an entry has been written: the entry is committed, armed, and its pending deadline cancelled (R352). -/
def ttCommit (i : Nat) : M Unit := do
  modify fun (s : State) =>
    let s := (List.range 3).foldl (fun (s : State) w =>
      match aget s.wordShadow (Reg.ttEntry i w).addr with
      | some v => { s.setReg (.ttEntry i w) v with wordShadow := adel s.wordShadow (Reg.ttEntry i w).addr }
      | none => s) s
    { s with tide := { s.tide with pend := s.tide.pend.filter fun p => p.entry != i } }
  ttArm i

/-- What an action's completion compares: queues with their TAIL, commits counted, the number of the slice that starts, 0 for none,
channels (Table: Tide actions). -/
def State.ttSnap (s : State) (act : Nat) (qs : List Nat) (mask bist : Nat) : List (Nat × Nat) :=
  match act with
  | 1 => qs.map fun q => (q, s.qTail q)
  | 2 => [(0, s.fld .epStatus 48 16)]
  | 4 => if bist = 0 then [(0, 0)] else [(1, bist)]
  | 5 => ((List.range 48).filter fun c => mask.testBit c).map fun c => (c, 0)
  | _ => qs.map fun q => (q, s.qTail q)

/-- The queue that an entry's QSTART names, or the queues that its COLLECT starts: those in STATE 2 (R350). -/
def State.ttQueues (s : State) (i : Nat) : List Nat :=
  match s.ttAct i with
  | 1 => [s.ttField i 1 16 13]
  | 6 => (List.range 16).flatMap fun l =>
      (if s.flag (.ttEntry i 1) (16 + l) then List.range 64 else []).filterMap fun n =>
        if s.flag (.ttEntry i 2) n && s.qState (0x1800 + 64 * l + n) == 2 then some (0x1800 + 64 * l + n) else none
  | _ => []

/-- No other armed entry comes before entry i, whose time is `base`: entries fire in the order of their times, and in ascending index
in one tick (R353). -/
def State.ttTurn (s : State) (i base : Nat) : Bool :=
  s.tide.armed.all fun e => e.1 == i || base < e.2.2 || (e.2.2 == base && i < e.1)

/-- An entry fires when it is armed, EN is 1, TIDE_NOW has reached its time and its turn has come: at most one every 4 ticks. It is
disarmed, and a delay beyond 64 ticks by the entries ahead of it is counted (R351, R353). Answers whether it fires. -/
def ttFire (i act bist : Nat) : M Bool := do
  let s ← get
  match aget s.tide.armed i with
  | none => return false
  | some (fire, base) =>
    let at_ := max base s.tide.next
    if ¬ s.flag .ttCtrl 0 ∨ s.ttAct i ≠ act ∨ s.tideNow < at_ ∨ ¬ s.ttTurn i base ∨ s.tideHeld then return false
    else
      let dl := s.ttField i 1 32 32
      set { s with tide := { s.tide with
        armed := adel s.tide.armed i
        next := at_ + 4
        pend := if dl = 0 then s.tide.pend else s.tide.pend ++
          [(⟨i, fire, fire + dl, act, s.ttSnap act (s.ttQueues i) (s.ttField i 2 0 48) bist⟩ : Pend)] } }
      if base + 64 < at_ then bump .ttStat 32 16
      return true

/-- An action could not act (R353). -/
def ttNoEffect : M Unit := bump .ttStat 48 16

/-- QSTART and COLLECT (R247, R350): without a queue that waits, the action has no effect. -/
def ttStart (qs : List Nat) : M Unit := do
  let rs ← mapAll qs tideStart
  whenM (!rs.any id) ttNoEffect

/-- REFRESH (R264): a hint to each named channel for the refreshes that fall due in its next 8 refresh intervals. How many those
are is a free value, and with none due the hint has no effect (log entry 124). -/
def ttRefresh (mask : Nat) : M Unit := do
  let cs := (List.range 48).filter fun c => mask.testBit c
  forAll cs fun c => do
    let n ← draw
    modify fun (s : State) => { s with hints := awrite 0 s.hints c n.toNat }
  whenM cs.isEmpty ttNoEffect

/-- The condition of a DCHECK (R354). -/
def State.ttCheck (s : State) (i : Nat) : Bool :=
  let a := s.ttField i 1 16 16
  let v := s.ttField i 2 0 64
  let ge (x y : Nat) := decide (0 ≤ sInt 32 ((x + 2 ^ 32 - y % 2 ^ 32) % 2 ^ 32))
  match a / 2 ^ 13 with
  | 0 => ge (s.qHead (a % 2 ^ 13)) (v % 2 ^ 32)
  | 1 => ge (s.fld (.ferryDone (v % 64) (v / 64 % 16)) 0 32) (v / 2 ^ 32)
  | _ => ge s.epoch (v % 2 ^ 32)

/-- A pending completion has been reached (R355, Table: Tide actions): of a self-test slice, the number is gone. -/
def State.ttDone (s : State) (p : Pend) : Bool :=
  match p.act with
  | 2 => p.data.any fun d => s.fld .epStatus 48 16 != d.2
  | 4 => p.data.isEmpty
  | 5 => p.data.all fun d => aread 0 s.hints d.1 == 0
  | _ => p.data.all fun d => decide (0 ≤ sInt 32 ((s.qHead d.1 + 2 ^ 32 - d.2) % 2 ^ 32))

/-- A deadline of an entry falls due (R355). -/
def ttDeadline (i : Nat) : M Unit := do
  let s ← get
  match s.tide.pend.find? fun p => p.entry = i ∧ p.due ≤ s.tideNow with
  | none => skip
  | some p =>
    set { s with tide := { s.tide with pend := s.tide.pend.erase p } }
    whenM (!s.ttDone p) (ttMiss i p.act p.fire)

end Sys2Proof.Machine
end

