-- ==== Sys2Proof/Machine/Structs.lean ====
section
/-! DEFINITION. The structure image: its container and section checks (R21-R38, R51), the structure digest, what a load or
re-rig applies (R34-R36, R42-R44, R282), and the run-time actions that write the structure (R31, R163-R165). -/

namespace Sys2Proof.Machine

/-- A digest as bytes. -/
def digestBytes (d : BitVec 512) : List Byte := toLE d.toNat 64

/-- The structure digest of the structure in effect (R22). -/
def State.structDigest (s : State) : BitVec 512 := shake512 (s.sects.flatMap (·.2))

/-- STRUCT_DIGEST0-7 report a digest (R22). -/
def setDigest (d : BitVec 512) : M Unit :=
  forAll (List.range 8) fun k => wr (.structDigest k) ((d >>> (64 * k)).setWidth 64)

/-- The digest that STRUCT_DIGEST0-7 report. -/
def State.digestInEffect (s : State) : Nat :=
  (List.range 8).foldl (fun n k => n + (s.reg (.structDigest k)).toNat <<< (64 * k)) 0

/-- A value derived from the PUF: SHAKE256 of an ASCII label and the seed, truncated to 32 bytes (R452). -/
def pufKey (label : List Byte) : List Byte := (digestBytes (shake512 (label ++ Config.pufSeed))).take 32

/-- The part's identity key pair, public and private: ML-DSA-65 key generation from "NYD-ID" (R452). -/
def identityKeys : List Byte × List Byte := Config.mldsaKeys (pufKey [0x4E, 0x59, 0x44, 0x2D, 0x49, 0x44])

/-- The root key of the flash's replay-protected counters: "NYD-RPMC" (R452). The flash holds it from manufacture on, and the counters
of `SecSt.rpmc` are what it guards. -/
def rpmcKey : List Byte := pufKey [0x4E, 0x59, 0x44, 0x2D, 0x52, 0x50, 0x4D, 0x43]

/-- The key that authenticates the owner record: "NYD-OWN" (R452, R454). -/
def ownerKey : List Byte := pufKey [0x4E, 0x59, 0x44, 0x2D, 0x4F, 0x57, 0x4E]

/-- The part's SERIAL: the first 8 bytes of the digest of its identity public key (R23). -/
def partSerial : Nat := (shake512 identityKeys.1).toNat % 2 ^ 64

/-- Flash bytes from an offset; an unwritten byte reads 0xFF (log entry 8). -/
def State.flashBytes (s : State) (off n : Nat) : List Byte := (List.range n).map fun i => aread 0xFF s.flash (off + i)

/-- The Nydric public key of the factory partition, where its digest is the one in the boot ROM (R449, R450). -/
def State.nydricKey (s : State) : Option (List Byte) :=
  let k := s.flashBytes 0 1952
  if shake512 k = Config.nydricDigest then some k else none

/-- The key of a signer and KEYSEL: the Nydric key has KEYSEL 0, an owner key its slot (R23, R454). -/
def State.signerKey (s : State) (signer keysel : Nat) : Option (List Byte) :=
  if signer = 0 then (if keysel = 0 then s.nydricKey else none)
  else if 1 ≤ keysel then s.sec.keys[keysel - 1]? else none

/-- All bytes of a list are 0. -/
def zeros (l : List Byte) : Bool := l.all (· == 0)

/-- The directory of an image: ID, SVER, offset, length, reserved word (Table: Directory entry). -/
def imgDir (b : List Byte) (n : Nat) : List (Nat × Nat × Nat × Nat × Nat) :=
  (List.range n).map fun i =>
    let e := b.drop (0x80 + 16 * i)
    (leAt e 0 2, leAt e 2 2, leAt e 4 4, leAt e 8 4, leAt e 0xC 4)

/-- The sections lie in order of offset with zero bytes between them, from a place up to an end. -/
def gapsOk (b : List Byte) (stop : Nat) : Nat → List (Nat × Nat) → Bool
  | a, [] => decide (a ≤ stop) && zeros ((b.take stop).drop a)
  | a, (o, n) :: r => decide (a ≤ o) && decide (o % 8 = 0) && zeros ((b.take o).drop a) && gapsOk b stop (o + n) r

/-- Insert a section by its offset. -/
def insSect (x : Nat × Nat) : List (Nat × Nat) → List (Nat × Nat)
  | [] => [x]
  | y :: r => if x.1 ≤ y.1 then x :: y :: r else y :: insSect x r

/-- What an image is expected to be: its KIND, the largest LENGTH, the bytes it is read from, whether LENGTH must equal them,
and the rollback counter that guards it, if any. -/
structure ImgReq where
  kind : Nat
  maxLen : Nat
  room : Nat
  exact : Bool
  counter : Option Nat
  deriving DecidableEq, Repr

/-- The signers that a KIND permits (Table: Signing keys). -/
def signerOk (kind signer : Nat) : Bool :=
  match kind with
  | 0x01 => signer = 0
  | 0x02 => signer = 1
  | 0x03 => signer = 1
  | 0x10 => signer = 0
  | _ => signer ≤ 1

/-- The directory check 0x13 (R23, R24, R449). -/
def dirOk (b : List Byte) (kind : Nat) : Bool :=
  let len := leAt b 8 4
  let n := leAt b 0x10 2
  let d := imgDir b n
  let ids := d.map (·.1)
  let tr := b.drop (len - 3320)
  let nOk : Bool := match kind with
    | 0x01 => n == 10
    | 0x02 => n == 10
    | 0x03 => decide (1 ≤ n) && decide (n ≤ 10)
    | _ => n == 1
  nOk && !hasDup ids
    && d.all (fun e => (if kind < 0x10 then 1 ≤ e.1 && e.1 ≤ 10 else e.1 == 0x100) && e.2.1 == 1 && e.2.2.2.2 == 0)
    && gapsOk b (len - 3320) (0x80 + 16 * n) ((d.map fun e => (e.2.2.1, e.2.2.2.1)).foldr insSect [])
    && zeros ((b.drop 0x12).take 2) && zeros ((b.drop 0x60).take 32)
    && (kind == 0x03 || zeros ((b.drop (if kind < 0x10 then 0x20 else 0x28)).take (if kind < 0x10 then 64 else 56)))
    && leAt tr 0 4 == 3309 && zeros ((tr.drop 0xCF5).take 3)

/-- The digest that an image's signature covers: of bytes 0 to LENGTH - 3,321 (Table: Signature trailer). -/
def signedDigest (b : List Byte) : BitVec 512 := shake512 (b.take (leAt b 8 4 - 3320))

/-- Checks 0x10 to 0x24 of an image, in the row order of R51; 0 when it passes. -/
def State.imgCheck (s : State) (b : List Byte) (q : ImgReq) : Nat :=
  let len := leAt b 8 4
  let signer := leAt b 7 1
  let tr := b.drop (len - 3320)
  if leAt b 0 4 ≠ 0x5653594C ∨ leAt b 4 2 ≠ 1 ∨ leAt b 0x14 4 ≠ 0x192 then 0x10
  else if leAt b 6 1 ≠ q.kind ∨ ¬ signerOk q.kind signer then 0x11
  else if len % 8 ≠ 0 ∨ len < 3464 ∨ q.maxLen < len ∨ q.room < len ∨ (q.exact ∧ q.room ≠ len) then 0x12
  else if ¬ dirOk b q.kind then 0x13
  else
    match s.signerKey signer (leAt tr 4 4) with
    | none => 0x21
    | some key =>
      if ¬ Config.mldsaVerify key (digestBytes (signedDigest b)) ((tr.drop 8).take 3309) then 0x20
      else if leAt b 0x18 8 ≠ 0 ∧ leAt b 0x18 8 ≠ partSerial then 0x22
      else if q.counter.any fun k => decide (leAt b 0xC 4 < s.sec.rpmc.getD k 0) then 0x23
      else if q.kind = 0x03 ∧ leAt b 0x20 64 ≠ s.digestInEffect then 0x24
      else 0

/-- The sections that an image carries, by ID. -/
def imgSects (b : List Byte) : AList (List Byte) :=
  (imgDir b (leAt b 0x10 2)).foldl (fun l e => aput l e.1 ((b.drop e.2.2.1).take e.2.2.2.1)) []

/-- Sections over those of the structure in effect (R24). -/
def overlay (base new : AList (List Byte)) : AList (List Byte) := new.foldl (fun l e => aput l e.1 e.2) base

/-- The lengths of Table: Section IDs. -/
def sectLenOk (id : Nat) (b : List Byte) : Bool :=
  match id with
  | 1 => b.length == 4352
  | 2 => b.length == 8
  | 3 => b.length == 16
  | 4 => b.length == 8
  | 5 => b.length == 32
  | 6 => b.length == 16
  | 7 => b.length == 48
  | 8 => b.length == 8 + 32 * leAt b 0 4
  | 9 => b.length == 1032 + 40 * leAt b 1024 4
  | _ => b.length == 8 + 24 * leAt b 0 4

/-- Reserved bits and encodings of a section that row 0x30 names (R26, R27, R32, R34-R36). -/
def sectBad (id : Nat) (b : List Byte) : Bool :=
  !sectLenOk id b ||
  match id with
  | 1 => (List.range 64).any fun t => leafGang b t / 2 ^ 10 != 0 || (List.range 16).any fun k =>
      (leafBlock b t k).testBit 7 || leafBlock b t k / 2 ^ 16 != 0
  | 2 => leAt b 0 8 / 2 != 0
  | 3 => (List.range 64).any fun t => (leAt b 0 16 >>> (2 * t)) % 4 == 3
  | 4 => leAt b 0 8 / 2 ^ 5 != 0
  | 5 => (List.range 4).any fun p => leAt b (8 * p + 4) 4 != 0 || leAt b (8 * p) 4 % 4 == 3
      || decide (4 < leAt b (8 * p) 4 / 8 % 8)
  | 6 => (List.range 16).any fun l => leAt b l 1 / 32 != 0 || leAt b l 1 / 4 % 4 == 3
  | 8 => leAt b 4 4 != 0
  | 9 => leAt b 1028 4 != 0 || (List.range (leAt b 1024 4)).any fun k => !zeros ((b.drop (1032 + 40 * k + 3)).take 5)
  | 10 => leAt b 4 4 != 0
  | _ => false

/-- Row 0x32 for a tree: R26, R28, and ROLE 0b11. -/
def gangBad (leaf : List Byte) (t : Nat) : Bool :=
  let g := leafGang leaf t
  let role (b : Nat) := roleOf (leafBlock leaf t b)
  let half (h : Nat) := g >>> (2 + 2 * h) % 4
  decide (2 ≤ g % 4) || (g % 4 == 0 && g / 4 % 2 ^ 8 != 0)
    || (g % 4 == 1 && (List.range 2).any fun h => decide (2 ≤ half h) || (half h == 0 && g >>> (6 + 2 * h) % 4 != 0))
    || (List.range 16).any (fun b => role b == 3)
    || (gangArrays g).any fun a => a.1 != 3 && a.2.any fun b => role b != 1

/-- Whether a block lies in the bottom block row, and in the rightmost block column, of an array (R29). -/
def edges (blocks : List Nat) (b : Nat) : Bool × Bool :=
  (!(blocks.any fun c => b / 4 < c / 4), !(blocks.any fun c => b % 4 < c % 4))

/-- Row 0x33 for a block: R29. -/
def reserveBad (factory : Bool) (leaf : List Byte) (t : Nat) (arrays : List (Nat × List Nat)) (b : Nat) : Bool :=
  let w := leafBlock leaf t b
  let r0 := w / 4 % 4
  let r1 := w / 16 % 4
  if roleOf w ≠ 1 then
    if factory then decide (2 ≤ r0) || decide (2 ≤ r1) || w / 2 ^ 7 != 0 else w / 4 != 0
  else
    let (bottom, right) := edges (((arrays.find? fun a => a.2.contains b).getD (3, [b])).2) b
    r0 == 3 || r1 == 3
      || (if bottom then !([(1, 2), (2, 0), (0, 2)].contains (r0, r1)) else r0 == 2 || r1 == 2)
      || (right && !w.testBit 6)
      || (w.testBit 14 && (if w.testBit 15 then r1 else r0) != 1)

/-- Row 0x34: the landing constraints of R33. -/
def landBad (b : List Byte) : Bool :=
  let v (l : Nat) := leAt b l 1
  let pairs := (List.range 16).filter fun l => (v l).testBit 4
  (List.range 16).any (fun l =>
    let n := [1, 2, 4].getD (v l / 4 % 4) 1
    (List.range n).any fun i => v (l / n * n + i) % 16 != v l % 16)
    || decide (1 < pairs.length) || pairs.any fun l => v l % 4 == 0 || v l / 4 % 4 != 0

/-- Row 0x35: the far-bank constraints of R33. -/
def farBad (b : List Byte) : Bool :=
  let w (p : Nat) := leAt b (8 * p) 4
  let base (p : Nat) := w p / 2 ^ 6 % 2 ^ 13
  let size (p : Nat) := w p / 2 ^ 19
  let on (p : Nat) := w p % 4 != 0
  (List.range 4).any (fun p => (on p && size p == 0) || decide (8192 < base p + size p)
    || (!(w p).testBit 2 && decide (1 < w p / 8 % 8))
    || (List.range 4).any fun q => decide (p < q) && size p != 0 && size q != 0
        && decide (base p < base q + size q) && decide (base q < base p + size p))
    || decide (4096 < ((List.range 4).map size).sum)

/-- The words of tide-table entry i in a TIDE section. -/
def tideWord (b : List Byte) (i w : Nat) : W64 := BitVec.ofNat 64 (leAt b (8 + 32 * i + 8 * w) 8)

/-- Row 0x37: TIDE. -/
def tideBad (b : List Byte) : Bool :=
  decide (512 < leAt b 0 4) || (List.range (leAt b 0 4)).any fun i => badTide (tideWord b i 1) (tideWord b i 3)

/-- A target selector names a target (R35). -/
def selectorOk (sel : Nat) : Bool :=
  let i := sel % 0x1000
  match sel / 0x1000 with
  | 0 => i < 8
  | 1 => i < 64
  | 2 => i < 73
  | 3 => i < 4
  | 4 => i < 16
  | _ => false

/-- Row 0x38: ACCESS (R35, R307). -/
def accessBad (b : List Byte) : Bool :=
  let n := leAt b 1024 4
  let r (k off m : Nat) := leAt b (1032 + 40 * k + off) m
  (List.range 1024).any (fun i => decide (31 < leAt b i 1) && leAt b i 1 != 0xFF)
    || (List.range n).any (fun k => !selectorOk (r k 0 2) || decide (63 < r k 2 1)
        || badRule (BitVec.ofNat 64 (r k 8 8)) (BitVec.ofNat 64 (r k 16 8)))
    || hasDup ((List.range n).map fun k => r k 0 3)

/-- The register at a device physical address. -/
def regOfAddr (a : Nat) : Option Reg :=
  match blkOfAddr a with
  | some b => regAt b (a - b.base)
  | none => none

/-- Row 0x39: DEFAULTS (R36). -/
def defaultsBad (b : List Byte) : Bool :=
  (List.range (leAt b 0 4)).any fun k =>
    match regOfAddr (leAt b (8 + 24 * k) 8) with
    | none => true
    | some r => BitVec.ofNat 64 (leAt b (16 + 24 * k) 8) &&& ~~~ fmask (r.fields.filter fun f => f.img) != 0

/-- Row 0x3C: R30, for a block of ROLE MATRIX. -/
def retiredBad (factory leaf : List Byte) (t b : Nat) : Bool :=
  let w := leafBlock leaf t b
  let f := leafBlock factory t b
  roleOf w == 1 && ((f / 4 % 4 == 0 && w / 4 % 4 != 0) || (f / 16 % 4 == 0 && w / 16 % 4 != 0)
    || (!f.testBit 6 && w.testBit 6))

/-- Checks 0x30 to 0x3C of the sections that an image carries, over the structure that would be in effect; 0 when they
pass (R51). -/
def State.sectCheck (s : State) (kind : Nat) (new all : AList (List Byte)) : Nat :=
  let has (id : Nat) := (aget new id).isSome
  let get (id : Nat) := aread [] all id
  let leaf := get 1
  let trees := List.range 64
  let blocks := List.range 16
  let rate := leAt (get 4) 0 1
  if new.any fun e => sectBad e.1 e.2 then 0x30
  else if has 1 ∧ (trees.any fun t => gangBad leaf t) then 0x32
  else if has 1 ∧ (trees.any fun t => blocks.any fun b =>
      reserveBad (kind = 1) leaf t (gangArrays (leafGang leaf t)) b) then 0x33
  else if has 6 ∧ landBad (get 6) then 0x34
  else if has 5 ∧ farBad (get 5) then 0x35
  else if has 7 ∧ ((get 7).any fun o => 7 < o.toNat ∧ o.toNat ≠ 0xFF) then 0x36
  else if has 8 ∧ tideBad (get 8) then 0x37
  else if has 9 ∧ accessBad (get 9) then 0x38
  else if has 10 ∧ defaultsBad (get 10) then 0x39
  else if has 4 ∧ (rate % 4 = 3 ∨ 4 < rate / 4 ∨ (kind = 3 ∧ rate / 4 % 8 ≠ s.prate)) then 0x3B
  else if has 1 ∧ kind ≠ 1 ∧ (trees.any fun t => blocks.any fun b => retiredBad s.factoryLeaf leaf t b) then 0x3C
  else 0

/-- A LEAF section with the word of a block replaced (R25). -/
def setLeafBlock (leaf : List Byte) (t b w : Nat) : List Byte :=
  let o := t * 68 + 4 + 4 * b
  leaf.take o ++ toLE w 4 ++ leaf.drop (o + 4)

/-- A state with a section of the structure in effect replaced. -/
def State.setSect (s : State) (id : Nat) (b : List Byte) : State := { s with sects := aput s.sects id b }

/-- Substitutions in effect in an array, as leaf rows of the array (R164). -/
def State.subsOf (s : State) (t : Nat) (blocks : List Nat) : List Nat :=
  blocks.filterMap fun b =>
    let w := leafBlock s.leaf t b
    if w.testBit 14 then some (64 * (b / 4 - blocks.headD 0 / 4) + w / 2 ^ 8 % 64) else none

/-- Leaf rows H of a shape (R26). -/
def leafRows (shape : Nat) : Nat := [256, 128, 128, 64].getD shape 64

/-- MX_SKEW and NSUB of array n follow the substitutions in effect (R164). -/
def setSkew (t n : Nat) : M Unit := do
  let s ← get
  match (s.treeArrays t)[n]? with
  | none => skip
  | some (sh, bl) =>
    let subs := s.subsOf t bl
    let slot (r : Nat) := if r = 256 then subs.length
      else if r < leafRows sh then (subs.filter fun x => x ≤ r).length else 0
    wrf (.mxArray t n) 23 5 subs.length
    forAll (List.range 22) fun k =>
      wr (.mxSkew t n k) (BitVec.ofNat 64 ((List.range 12).foldl (fun m i => m + slot (12 * k + i) <<< (5 * i)) 0))

/-- Accumulator cells of a bank of an array: the keys that it spans. -/
def bankKey (t n b : Nat) : Nat := ((t * 16 + n) * 2 + b) * 65536

/-- The arrays of a tree are formed anew (R28, R150): an array that stands as it stood keeps its banks under its new number,
every other array starts EMPTY. -/
def formArrays (t : Nat) : M Unit := do
  let s ← get
  let old := s.treeArrays t
  let new := leafArrays s.leaf t
  let from_ (n : Nat) : Option Nat :=
    match new[n]? with
    | some a => (List.range old.length).find? fun m => old[m]? = some a ∧ s.flag (.mxArray t m) 22
    | none => none
  let keep (n b : Nat) : AList W64 := match from_ n with
    | some m => shiftKeys s.banks (bankKey t m b) (bankKey t m b + 65536) (bankKey t n b)
    | none => []
  let lo := bankKey t 0 0
  let hi := bankKey (t + 1) 0 0
  set { s with
    arrays := awrite [] s.arrays t new
    banks := (s.banks.filter fun (e : Nat × W64) => e.1 < lo) ++
      ((List.range 16).flatMap fun n => keep n 0 ++ keep n 1) ++ s.banks.filter fun (e : Nat × W64) => hi ≤ e.1 }
  forAll (List.range 16) fun n => do
    let v : W64 := match from_ n with
      | some m => s.stored (.mxArray t m)
      | none => if n < new.length then 0x40_0000 else 0
    wr (.mxArray t n) v
    forAll (List.range 2) fun b => wr (.mxBank t n b) (match from_ n with | some m => s.reg (.mxBank t m b) | none => 0)
    if n < new.length then setSkew t n
    else forAll (List.range 22) fun k => wr (.mxSkew t n k) 0

/-- The value v with the bits of a mask from w. -/
def merged (v m w : W64) : W64 := (v &&& ~~~ m) ||| (w &&& m)

/-- The mask of a register's img fields (R36). -/
def Reg.imgMask (r : Reg) : W64 := fmask (r.fields.filter fun f => f.img)

/-- Every register's img fields at their factory values (R36), in effect too where a quiescent write is pending. -/
def State.imgFactory (s : State) : State :=
  { s with
    regs := s.regs.filterMap fun e =>
      match regOfAddr e.1 with
      | some r =>
        let v := merged e.2 r.imgMask r.dflt
        if v = r.dflt then none else some (e.1, v)
      | none => some e
    inEffect := s.inEffect.map fun e =>
      match regOfAddr e.1 with
      | some r => (e.1, merged e.2 r.imgMask r.dflt)
      | none => e }

/-- Apply a DEFAULTS section (R36). -/
def applyDefaults (b : List Byte) : M Unit := do
  let en := (← get).flag .ttCtrl 0
  modify State.imgFactory
  forAll (List.range (leAt b 0 4)) fun k =>
    match regOfAddr (leAt b (8 + 24 * k) 8) with
    | some r => modify fun (s : State) =>
        let m := BitVec.ofNat 64 (leAt b (16 + 24 * k) 8)
        let v := BitVec.ofNat 64 (leAt b (24 + 24 * k) 8)
        { s.setReg r (merged (s.stored r) m v) with
          inEffect := match aget s.inEffect r.addr with
            | some x => aput s.inEffect r.addr (merged x m v)
            | none => s.inEffect }
    | none => skip
  modify fun s => { s with tide := { s.tide with up := none } }
  whenM (!en && (← get).flag .ttCtrl 0) ttEnable

/-- Apply a TIDE section (R34, R351): entries 0 upward, the rest cleared, the origin unset, absolute entries armed. -/
def applyTide (b : List Byte) : M Unit := do
  let n := leAt b 0 4
  forAll (List.range 512) fun i => forAll (List.range 4) fun w => wr (.ttEntry i w) (if i < n then tideWord b i w else 0)
  wrf .tideStatus 22 1 0
  modify fun (s : State) => { s with
    wordShadow := s.wordShadow.filter fun e => !(devBase + 0x1_0000 ≤ e.1 && e.1 < devBase + 0x1_4000)
    tide := { s.tide with armed := [], pend := [] } }
  forAll (List.range n) ttArm

/-- Every access rule is cleared to deny all access (R35). -/
def State.clearRules (s : State) : State :=
  let rule (a : Nat) : Bool := match regOfAddr a with
    | some (.accRule _ _ _ _) => true
    | _ => false
  { s with regs := s.regs.filter fun e => !rule e.1, wordShadow := s.wordShadow.filter fun e => !rule e.1 }

/-- Apply an ACCESS section (R35). -/
def applyAccess (b : List Byte) : M Unit := do
  forAll (List.range 128) fun i => wr (.accGroup i) (BitVec.ofNat 64 (leAt b (8 * i) 8))
  modify State.clearRules
  forAll (List.range (leAt b 1024 4)) fun k => do
    let (blk, tb) := tableOf (leAt b (1032 + 40 * k) 2)
    let i := leAt b (1032 + 40 * k + 2) 1
    forAll (List.range 4) fun w => wr (.accRule blk tb i w) (BitVec.ofNat 64 (leAt b (1032 + 40 * k + 8 + 8 * w) 8))

/-- A unit that failed to come up is taken out of the structure in effect (R44). Of a leaf block the whole block word 0 becomes 0,
reserves and SROW too, and enters the digest (log entry 142). -/
def takeOut (u : UnitRef) : M Unit := do
  let s ← get
  let unit := match u with
    | .block t b => unitWord 4 (t * 16 + b)
    | .port p => unitWord 6 p
    | .landing l => unitWord 7 l
  match u with
  | .block t b => set (s.setSect 1 (setLeafBlock s.leaf t b 0))
  | .port p =>
    let f := aread [] s.sects 5
    set (s.setSect 5 (f.take (8 * p) ++ toLE (leAt f (8 * p) 1 / 4 * 4) 1 ++ f.drop (8 * p + 1)))
  | .landing l =>
    let f := aread [] s.sects 6
    set (s.setSect 6 (f.take l.val ++ toLE (leAt f l 1 / 4 * 4) 1 ++ f.drop (l + 1)))
  incident 0x01 3 0x50 unit 0 ((← get).reg .structStatus)

/-- The apply phase of a load or re-rig with the sections that it brings (R39, R42-R44, R282): the structure in effect, then
what depends on it. Answers the load status code. A LEAF that states no substitution for a block ends the one that was made at run
time (R31; log entry 141). -/
def applySects (new : AList (List Byte)) (failed : List UnitRef) (rerig : Bool) : M Nat := do
  maintain 3 fun _ => true
  let o ← get
  set { o with sects := overlay o.sects new }
  forAll failed takeOut
  let s ← get
  if rerig ∧ aread [] o.sects 4 ≠ aread [] s.sects 4 then
    set { s.freeRange 0 nearEnd with
      poison := s.poison.filter fun e => nearEnd ≤ e.1 * 128
      flaws := s.flaws.filter fun e => nearEnd ≤ e.1 * 128
      openRows := [] }
    wrf .structStatus 17 1 1
  forAll (List.range 64) formArrays
  forAll (List.range 64) fun t => wrf (.treeHealth t) 0 1 0
  forAll (List.range 4) fun p => do
    if o.farWord p % 4 ≠ s.farWord p % 4 then
      wrf (.fbPort p) 32 21 (if s.farWord p % 4 = 0 then 0 else 1)
  forAll (List.range 16) fun l => do
    if s.landByte l % 4 = 0 then setLandState l 0
    else if o.landByte l ≠ s.landByte l ∨ ¬ rerig then startTrain l
  match aget new 10 with
  | some b => applyDefaults b
  | none => skip
  match aget new 9 with
  | some b => applyAccess b
  | none => skip
  match aget new 8 with
  | some b => applyTide b
  | none => skip
  setDigest (← get).structDigest
  let code := if failed.isEmpty then 0 else 0x50
  wrf .structStatus 8 8 code
  wrf .structStatus 18 1 (b2n !failed.isEmpty)
  return code

/-- Check a whole image; 0 when it is accepted. -/
def State.imgVerdict (s : State) (b : List Byte) (q : ImgReq) : Nat :=
  match s.imgCheck b q with
  | 0 =>
    let new := imgSects b
    s.sectCheck q.kind new (if q.kind = 3 then overlay s.sects new else new)
  | c => c

/-- RERIG_CMD.GO (R39, R40): outside READY only LAST_CODE changes; else the delta is fetched by the boot processor. A delta that
is not 8-byte aligned, or lies outside the near bank and the host window, is accepted and could not be read, code 0x41 (log
entry 120). -/
def rerigStart : M Unit := do
  let s ← get
  let a := s.fld .rerigAddr 0 52
  let n := s.fld .rerigLen 0 22
  if s.pstate = 1 then
    wrf .structStatus 4 4 2
    let (b, p) ← bootFetch true a n
    modify fun s => { s with rerig := some (b, p || a % 8 != 0) }
  else wrf .structStatus 8 8 0x40

/-- The re-rig ends (R39): its phases act on the fetched delta, STATE becomes READY, and the event is raised. A running
self-test slice is waited for (R443). -/
def rerigEnd (us : Nat) (failed : List UnitRef) : M Unit := do
  let s ← get
  match s.rerig with
  | none => skip
  | some (b, bad) =>
    if s.bist.slice.isSome then skip
    else
      let verdict := if bad then 0x41 else s.imgVerdict b ⟨3, 2 ^ 21, s.fld .rerigLen 0 22, true, some 2⟩
      set { s with rerig := none }
      let code ← (if verdict = 0 then do
        let c ← applySects (imgSects b) failed true
        modify fun s => (s.satFld .structStatus 24 8).setFld .structStatus 32 32 (leAt b 0xC 4)
        modify fun s => { s with sec := { s.sec with secvers := s.sec.secvers.take 2 ++ [leAt b 0xC 4] } }
        return c
      else do
        wrf .structStatus 8 8 verdict
        incident 0x01 0 verdict (unitWord 0 0) 0 ((← get).reg .structStatus)
        return verdict)
      wrf .structStatus 4 4 1
      wrf .rerigTime 0 16 (min us 65535)
      let s ← get
      event 0 0x0001 code (s.reg .structStatus) (s.reg (.structDigest 0))

/-- A block is taken out of its array at run time (R163): ROLE OFF in the structure in effect, banks POISONED, not FORMED. -/
def blockOut (t n b : Nat) : M Unit := do
  modify fun s => s.setSect 1 (setLeafBlock s.leaf t b 0)
  wrf .structStatus 18 1 1
  wrf (.mxBank t n 0) 21 1 1
  wrf (.mxBank t n 1) 21 1 1
  wrf (.mxArray t n) 22 1 0
  setDigest (← get).structDigest

/-- The reserve row that a block could use for a substitution: 0 or 1 (R29, R162). -/
def State.spareRow (s : State) (t b : Nat) : Option Nat :=
  let w := leafBlock s.leaf t b
  if w.testBit 14 then none
  else if w / 4 % 4 = 1 then some 0
  else if w / 16 % 4 = 1 then some 1
  else none

/-- A run-time substitution (R165). -/
def substitute (t n b row spare : Nat) : M Unit := do
  modify fun s =>
    let w := leafBlock s.leaf t b
    s.setSect 1 (setLeafBlock s.leaf t b (w % 2 ^ 8 + row <<< 8 + 1 <<< 14 + spare <<< 15))
  setSkew t n
  setDigest (← get).structDigest

end Sys2Proof.Machine
end

