-- ==== Sys2Proof/Machine/Jobs.lean ====
section
/-! DEFINITION. Jobs: start, end, the steps before the job-end scrub, and the scrub (R248, R249, R460, R461). -/

namespace Sys2Proof.Machine

/-- A debug token is refused, with CODE 2, or its clearing failed, with CODE 3: counted and reported (R402, R444, R459). -/
def refuseToken (code : Nat) : M Unit := do
  bump .dbgstat 16 16
  incident 0x12 0 code (unitWord 0 0) 0 ((← get).reg .dbgstat)

/-- JOB_CTRL.START (R248). An accepted start returns the debug level to 0 (R459), ends a token whose clearing is in its first
step (R444), starts the journal (R338), and forgets the tide master (R348). -/
def startJob : M Unit := do
  let s ← get
  if s.pstate = 0 ∨ s.pstate = 2 then wrf .jobStatus 0 8 1
  else if s.jobRuns then wrf .jobStatus 0 8 2
  else if s.flag .structStatus 17 then wrf .jobStatus 0 8 3
  else
    wrf .structStatus 4 4 3
    wrf .jobStatus 0 8 0
    wrf .dbgstat 0 2 0
    if s.sec.clearing.isSome then
      modify fun s => { s with sec := { s.sec with clearing := none, keysGone := true } }
      refuseToken 2
    modify fun s => { s with tide := { s.tide with known := false, setv := none } }
    startJournal

/-- JOB_CTRL.END (R248). -/
def endJob : M Unit := do
  let s ← get
  if s.jobRuns ∧ ¬ s.flag .jobStatus 8 then wrf .jobStatus 8 1 1 else wrf .jobStatus 0 8 4

/-- A ferry's manifest stops and writes nothing more (R249). -/
def dropManifest (f : Nat) : M Unit := do
  modify fun (s : State) =>
    { (s.forget (.ferry ⟨f % 64, Nat.mod_lt _ (by decide)⟩)) with
      ferries := adel s.ferries f
      epUnits := adel s.epUnits f }
  wrf (.fyStatus (f / 8) (f % 8)) 0 1 0

/-- Manifests and landing descriptors of the Job world stop; those of a landing await no reply any more (R249 step 2). -/
def dropJobRuns : M Unit := do
  forAll (List.range 64) fun f => do
    match aread none (← get).ferries f with
    | some m => whenM (!m.world) (dropManifest f)
    | none => skip
  forAll (List.range 16) fun l => modify fun (s : State) =>
    let x := s.link l
    if x.runs.isEmpty ∧ x.await.isEmpty then s
    else s.setLink l { x with
      runs := x.runs.filter fun r => s.qWorld r.queue
      await := x.await.filter fun a => s.qWorld a.queue }

/-- Every command, ferry and landing queue of the Job world stops (R249 step 1). -/
def stopJobQueues : M Unit := do
  let s ← get
  forAll (s.liveQueues.filter fun q => q < 0x1C00 && !s.qWorld q) fun q => setQState q 0

/-- The steps of R249, once every work item of an ending job has ended; they are taken once. -/
def drainJob : M Unit := do
  let s ← get
  let items := (List.range 8).any fun g => s.fld (.dispStatus g) 0 32 != 0
  if s.jobRuns ∧ s.flag .jobStatus 8 ∧ ¬ items ∧ ¬ s.job.drained ∧ ¬ s.flag .structStatus 17 then
    dropJobRuns
    stopJobQueues
    dropCommit
    modify fun s => { s with job := { s.job with drained := true } }
    commitGo
    drainedScrub

/-- A state with bytes and poison marks left only where a condition on the address holds; the others read 0 and are good,
or are unspecified in the ranges given. -/
def State.keepMem (s : State) (p : Nat → Bool) (free : List (Nat × Nat × Nat)) : State :=
  { s with
    mem := s.mem.filter fun e => p e.1 && e.2 != { s with freeMem := free }.blank e.1
    poison := s.poison.filter fun (e : Nat × Bool) => p (e.1 * 128)
    flaws := s.flaws.filter fun (e : Nat × LineFlaw) => p (e.1 * 128)
    freeMem := free }

/-- Unspecified ranges without a range that has been written. -/
def cutFree (r : Nat × Nat) (l : List (Nat × Nat × Nat)) : List (Nat × Nat × Nat) :=
  l.flatMap fun f => [(f.1, min f.2.1 r.1, f.2.2), (max f.1 r.2, f.2.1, f.2.2 + (max f.1 r.2 - f.1))].filter fun g => g.1 < g.2.1

/-- A state in which a scrub of ranges is done: they hold zeros. What was written to them while it ran it has overwritten, or not: a
free choice for each byte (R460, R461; log entry 177). -/
def State.zeroRanges (s : State) (l : List (Nat × Nat)) : State :=
  { s.keepMem (fun a => !inRanges l a || bit (Config.freeW (s.fresh + a)) 0) (l.foldl (fun f r => cutFree r f) s.freeMem) with
    fresh := s.fresh + 2 ^ 52 }

/-- A state with every listed register changed; a register at its reset value is not listed. -/
def State.mapRegs (s : State) (f : Reg → W64 → W64) : State :=
  { s with regs := s.regs.filterMap fun (e : Nat × W64) =>
      match regOfAddr e.1 with
      | some r => if f r e.2 = r.dflt then none else some (e.1, f r e.2)
      | none => some e }

/-- A register after the scrub: reset values for the Job world's (Table: Job-end scrub, R405). -/
def State.scrubReg (s : State) (r : Reg) (v : W64) : W64 :=
  match r with
  | .tshape _ _ => setField v 31 1 0
  | .mxBank _ _ _ => 0
  | .claim _ _ => 0
  | .ferryDone _ _ => 0
  | .epTag _ _ => 0
  | .qctxBase q => if s.qWorld q then v else r.dflt
  | .qctxPtr q => if s.qWorld q then v else r.dflt
  | .qctxShadow q => if s.qWorld q then v else r.dflt
  | .qctxStat q => if s.qWorld q then v else r.dflt
  | .vbarJ _ _ => 0
  | .kspJ _ _ => 0
  | .dfstackJ _ _ => 0
  | .intTcmpJ _ _ => 0
  | .intPend _ _ => setField v 0 8 0
  | .intEn _ _ => setField v 0 8 0
  | .ptRootJ => r.dflt
  | .jobSeed => r.dflt
  | .partSlot => r.dflt
  | .srCtx _ _ => r.dflt
  | .srStream _ _ => r.dflt
  | .telemSat _ => r.dflt
  | .telemAmax _ => r.dflt
  | .cfgPending (.tree _) => setField v 0 4 0
  | .cfgCtrl (.tree t) => if setField (s.reg (.cfgPending (.tree t))) 0 4 0 = 0 then setField v 2 1 0 else v
  | _ => v

/-- The scrub of everything but the event that ends it (Table: Job-end scrub); it leaves HALTED (R341). -/
def scrubAll (far : Bool) : M Unit := do
  whenM ((← get).epMode == 3) (wrf .epStatus 32 3 0)
  clearEntries
  modify fun (s : State) =>
    let t := (s.zeroRanges (s.scrubRanges far)).mapRegs s.scrubReg
    { t with
      canopies := s.canopies.map fun (e : Nat × CanopySt) => (e.1, { e.2 with lines := [] })
      tlbs := []
      walks := []
      trees := s.trees.map fun (e : Nat × TreeSt) => (e.1, { e.2 with rc := [], tallies := [], sb := e.2.sb.filter fun x => x.work.eng < 4 })
      tiles := []
      vregs := []
      mregs := []
      banks := []
      handled := s.handled.filter fun h => match h.dom with | .array _ _ => h.until_.isSome | _ => true
      heldEvents := s.heldEvents.filter fun (e : Nat × List Ev) => s.qWorld e.1
      barriers := s.barriers.filter fun (e : Nat × Bool) => s.qWorld e.1
      inEffect := s.inEffect.filter fun (e : Nat × W64) => match regOfAddr e.1 with
        | some (.qctxBase q) => s.qWorld q
        | some (.srCtx _ _) => false
        | _ => true }

/-- The scrub is complete after some µs (R460). -/
def scrubEnds (us : Nat) : M Unit := do
  wrf .structStatus 17 1 0
  wrf .jobStatus 8 1 0
  if (← get).jobRuns then wrf .structStatus 4 4 1
  modify fun s => { s with job := ⟨false, false⟩ }
  wrf .scrubStatus 0 1 0
  wrf .scrubStatus 8 24 (min us (2 ^ 24 - 1))
  modify fun s => s.addFld .scrubStatus 32 32 1
  event ((← get).fld .scrubCtrl 1 10) 0x0060 0 (BitVec.ofNat 64 (us % 2 ^ 32)) 0

/-- The job-end scrub ends (R460): it runs while SCRUB_STATUS.ACTIVE is 1, after any commit. -/
def scrubJob (us : Nat) : M Unit := do
  let s ← get
  if s.job.drained ∧ s.flag .scrubStatus 0 ∧ s.commit.step = 0 ∧ ¬ s.job.far then
    scrubAll (s.flag .scrubCtrl 0)
    scrubEnds us

/-- The far-bank part of a scrub ends (R391, R461). -/
def scrubFar (us : Nat) : M Unit := do
  let s ← get
  if s.job.far ∧ s.flag .scrubStatus 0 then
    modify fun s => s.zeroRanges s.farRanges
    scrubEnds us

end Sys2Proof.Machine
end

