-- ==== Sys2Proof/Machine/HostReset.lean ====
section
/-! DEFINITION. Host resets and the power states of the PCIe function (R391-R393). -/

namespace Sys2Proof.Machine

/-- Step 2 of R391: nothing stays enabled, translated, requested or pending. -/
def resetPort : M Unit := do
  atsOff
  let l := (← get).pageReqs
  forAll l fun (e : Nat × PageReq) => rehold e.2.who (.page e.1) .none
  modify fun (s : State) =>
    { s with
      pageReqs := []
      hostFails := []
      pcie := { s.pcie with pri := false, busMaster := false, msix := false, pba := [] } }
  wr .priStat 0

/-- Host-window requests that wait for a translation or a page: who waits, the address, and whether it reads (R303, R305). -/
def State.hostWaits (s : State) : List (Waiter × Nat × Bool) :=
  (s.atsReqs.filterMap fun e => e.2.who.map fun w => (w, hostBase + e.2.addr, !e.2.wr))
    ++ s.pageReqs.filterMap fun e => e.2.who.map fun w => (w, hostBase + e.2.addr, !e.2.wr)

/-- A waiter's unit works for the Job world. -/
def State.jobWaiter (s : State) : Waiter → Bool
  | .thread t => (s.thread (t.tree * 4 + t.th)).item.isSome
  | .ferry f => (aread none s.ferries f).any fun m => !m.world

/-- Step 5 of R391: outstanding host-window requests end under R390. A unit that goes on after step 4 reads its line as poisoned when it
makes the request again. -/
def endHostWaits (l : List (Waiter × Nat × Bool)) (gone : Waiter → Bool) : M Unit :=
  forAll l fun e => do
    hostEnd e.2.1 1
    whenM (e.2.2 && !gone e.1) (modify fun s => { s with dead := awrite false s.dead (e.2.1 / 128) true })

/-- Step 7 of R391: configuration space at its reset values, apart from the sticky AER fields. -/
def endReset : M Unit := do
  modify fun s => { s with pcie := { PcieSt.init with aer := s.pcie.aer, aerLog := s.pcie.aerLog } }
  wrf .pciestat 9 1 0

/-- Step 6 of R391: the scrub, whose far-bank part goes on after step 7. The duration that it reports is a free value. -/
def resetScrub : M Unit := do
  let far := (← get).flag .scrubCtrl 0
  scrubStarts
  scrubAll false
  if far then modify fun s => { s with job := { s.job with far := true } }
  else scrubEnds (← draw).toNat
  endReset

/-- Steps 4 to 7 of R391. A commit that has reached step 3 of R336, or a scrub under way, ends first: the reset then waits for
it. A scrub that a fatal fault stopped is not taken up again, and a far-bank part goes on (R461). -/
def resetGo : M Unit := do
  let s ← get
  if s.jobRuns ∧ ¬ s.flag .structStatus 17 then
    wrf .jobStatus 8 1 1
    forAll ((List.range 256).filter fun k => (s.thread k).item.isSome) resetThread
    dropJobRuns
    forAll ((← get).liveQueues.filter fun q => !s.qWorld q) fun q => setQState q 0
    dropCommit
    modify fun s => { s with job := { s.job with drained := true } }
    commitGo
    if (← get).commit.step = 0 then resetScrub
  else if s.flag .scrubStatus 0 ∧ ¬ s.job.far then skip
  else endReset

/-- A host reset (R391): Function Level Reset, Hot Reset, Link Disable and PERST_N alike. A re-rig in progress completes
first; no job runs then. -/
def hostReset : M Unit := do
  let s ← get
  bump .pciestat 16 16
  wrf .pciestat 9 1 1
  wrf .pciestat 10 1 0
  modify fun s => { s with pcie := { s.pcie with inReset := true } }
  resetPort
  if s.pstate ≠ 2 then resetGo
  endHostWaits s.hostWaits fun w => s.jobRuns && s.jobWaiter w

/-- A re-rig ends; a host reset that waited for it goes on (R39, R391 step 3). -/
def endRerig (us : Nat) (failed : List UnitRef) : M Unit := do
  rerigEnd us failed
  let s ← get
  if s.pcie.inReset ∧ s.pstate ≠ 2 then resetGo

/-- The job-end scrub ends, or the one of a host reset that waited (R460, R391). -/
def endScrub (us : Nat) : M Unit := do
  let s ← get
  if s.pcie.inReset ∧ s.job.drained ∧ ¬ s.flag .structStatus 17 then whenM (s.commit.step = 0) resetScrub
  else
    scrubJob us
    whenM (s.pcie.inReset && !(← get).flag .scrubStatus 0) endReset

/-- Entry to D3hot (R393). -/
def enterD3 : M Unit := do
  if (← get).jobRuns then hostReset else wrf .pciestat 10 1 1

/-- Return to D0 (R393). -/
def enterD0 : M Unit := do
  wrf .pciestat 10 1 0
  sendPending

end Sys2Proof.Machine
end

