-- ==== Sys2Proof/Machine/Bist.lean ====
section
/-! DEFINITION. Self-test slices (R441-R443). -/

namespace Sys2Proof.Machine

/-- Targets of a kind of slice, by ascending index (Table: Slice selector, R442): blocks of ROLE OFF, lent segments and
fenced trees are left out. -/
def State.bistTargets (s : State) (kind : Nat) : List Nat :=
  let live (t : Nat) : Bool := !s.flag (.treeHealth t) 0
  let trees := (List.range 64).filter live
  match kind with
  | 0 => trees.flatMap fun t => ((List.range 16).filter fun b => s.blockRole t b != 0).map (t * 16 + ·)
  | 1 => trees.flatMap fun t => (List.range 32).flatMap fun b => (List.range (4 - s.lend t)).map (t * 128 + b * 4 + ·)
  | 2 => trees.flatMap fun t => (List.range 4).map (t * 4 + ·)
  | 3 => trees
  | 4 => trees
  | 5 => (List.range 8).flatMap fun g => (List.range (s.ways g)).map (g * 32 + ·)
  | 6 => List.range 8
  | 7 => List.range 64
  | 8 => List.range 16
  | _ => []

/-- The rotating schedule (R442). -/
def State.schedule (s : State) : List (Nat × Nat) :=
  (List.range 9).flatMap fun k => (s.bistTargets k).map fun i => (k, i)

/-- BIST_STAT.CYCLE follows the structure in effect. -/
def noteCycle : M Unit := do
  wrf .bistStat 16 14 (← get).schedule.length

/-- An index exists in its kind (R441). -/
def State.bistIndex (s : State) (kind i : Nat) : Bool :=
  match kind with
  | 0 => decide (i < 1024)
  | 1 => decide (i < 8192) && decide (i % 4 < 4 - s.lend (i / 128))
  | 2 => decide (i < 256)
  | 3 => decide (i < 64)
  | 4 => decide (i < 64)
  | 5 => decide (i < 256) && decide (i % 32 < s.ways (i / 32))
  | 6 => decide (i < 8)
  | 7 => decide (i < 64)
  | 8 => decide (i < 16)
  | _ => false

/-- A slice of a target with what it samples as it starts (R45, R443). -/
def State.sliceOf (s : State) (kind i : Nat) (auto : Bool) : Slice :=
  ⟨kind, i, auto, s.fld .bistCtrl 22 30 * 2 ^ 22, kind == 0 && s.flag (.mxCtrl (i / 16)) 0⟩

/-- The slice that a selector names (Table: Slice selector). -/
def State.bistSelect (s : State) (sel : Nat) : Option Slice :=
  if sel % 2 = 1 then
    if sel ≠ 1 then none
    else (s.schedule[s.fld .bistStat 0 14 % max s.schedule.length 1]?).map fun t => s.sliceOf t.1 t.2 true
  else if sel % 16 ≠ 0 ∨ 2 ^ 24 ≤ sel then none
  else
    let k := sel / 16 % 16
    let i := sel / 256
    if s.bistIndex k i then some (s.sliceOf k i false) else none

/-- The slice that a BIST action starts; none when something prevents it (R441, R461). -/
def State.bistPick (s : State) (sel : Nat) : Option Slice :=
  if s.flag .bistCtrl 0 && !s.flag .scrubStatus 0 && s.bist.slice.isNone && s.built && s.pstate != 2 then s.bistSelect sel
  else none

/-- The number of the slice that an entry's BIST would start; 0 for none. -/
def State.bistNumber (s : State) (i : Nat) : Nat :=
  if (s.bistPick (s.ttField i 2 0 64)).isSome then s.bist.count + 1 else 0

/-- A BIST action starts its slice (R441, R461); what prevents it counts in NOEFFECT. -/
def bistStart (sel : Nat) : M Unit := do
  let s ← get
  match s.bistPick sel with
  | none => ttNoEffect
  | some x =>
    set { s with bist := ⟨some x, s.bist.count + 1⟩ }
    noteCycle

/-- A state in which the slice that runs has ended: a deadline that waits for it has been met (R355). -/
def State.bistEnds (s : State) : State :=
  { s with
    bist := { s.bist with slice := none }
    tide := { s.tide with pend := s.tide.pend.map fun p =>
        if p.act = 4 ∧ p.data = [(1, s.bist.count)] then { p with data := [] } else p } }

/-- The tree of a target, where it lies in one. -/
def bistTree (kind i : Nat) : Option Nat :=
  match kind with
  | 0 => some (i / 16)
  | 1 => some (i / 128)
  | 2 => some (i / 4)
  | 3 => some i
  | 4 => some i
  | _ => none

/-- A slice is abandoned: it counts, and the cursor stays (R443). -/
def bistAbandon : M Unit := do
  if (← get).bist.slice.isSome then
    modify fun s => { s with bist := { s.bist with slice := none } }
    bump .bistStat 32 14

/-- A BIST record. -/
def bistRecord (code sev unit : Nat) : M Unit := do
  incident 0x11 sev code unit 0 ((← get).reg .bistStat)

/-- The unit of a target. -/
def bistUnit (kind i : Nat) : Nat :=
  match kind with
  | 0 => unitWord 4 i
  | 5 => unitWord 1 (i / 32)
  | 6 => unitWord 1 i
  | 7 => unitWord 8 i
  | 8 => unitWord 7 i
  | k => unitWord 2 ((bistTree k i).getD 0)

/-- Steps 4 and 5 of R162 for a faulty physical row of a block, with AUTO_SUB as it was sampled: the substitution when AUTO_SUB allows
it, a spare row is free and the second diagnostic is clean; else the block is taken out. Answers whether it was substituted. -/
def mendBlock (sub : Bool) (t b : Nat) (row : Option Nat) (clean : Bool) : M Bool := do
  let s ← get
  let n := (List.range (s.treeArrays t).length).find? fun n => (((s.treeArrays t).getD n (0, [])).2).contains b
  match n, row, s.spareRow t b with
  | some n, some r, some sp =>
    if sub ∧ clean then
      substitute t n b (r % 64) sp
      return true
    else
      blockOut t n b
      return false
  | some n, _, _ =>
    blockOut t n b
    return false
  | none, _, _ =>
    modify fun s => s.setSect 1 (setLeafBlock s.leaf t b 0)
    wrf .structStatus 18 1 1
    setDigest (← get).structDigest
    return false

/-- Clean and invalidate a way of a canopy (R443 step 3). -/
def emptyWay (g way : Nat) : M Unit := do
  forAll (((← get).canopy g).lines.filter fun l => l.way = way) fun l =>
    forAll l.sects fun (e : Nat × Sector) => do
      let a := l.base * 512 + e.1 * 128
      landFill g a
      cleanSector g a
      modify fun s => s.dropSector g a

/-- What a failed test does to its target (R443): rows that failed, and whether a second diagnostic is clean. -/
def bistFailed (x : Slice) (rows : List Nat) (clean : Bool) : M Unit := do
  let i := x.idx
  match x.kind with
  | 0 =>
    let _ ← mendBlock x.sub (i / 16) (i % 16) (match rows with | [r] => if r < 64 then some r else none | _ => none) clean
    recovered 0x11 1000
  | 1 => forAll rows fun r => remap (i / 128) (i / 4 % 32) (256 * (i % 4) + r % 256) false true
  | 5 => modify fun s => s.setCanopy (i / 32) { s.canopy (i / 32) with excluded := i % 32 :: (s.canopy (i / 32)).excluded }
  | 6 => forAll (List.range 8) fun t => fenceTree none (8 * i + t)
  | 7 => forAll (List.range 64) fun n => do
      let q := 0x800 + 64 * i + n
      if (← get).qState q ≠ 0 then stopQueue q 7 else wrf (.qctxBase q) 61 3 7
  | 8 => downLanding i
  | k => match bistTree k i with
    | some t => fenceTree none t
    | none => skip

/-- A saved line that reads as uncorrectable is restored as poison: which one is a free value; a block's banks are POISONED
(R443 step 5). -/
def bistPoisoned (kind i : Nat) : M Unit := do
  let s ← get
  match kind with
  | 0 =>
    forAll (List.range (s.treeArrays (i / 16)).length) fun n => do
      if (((s.treeArrays (i / 16)).getD n (0, [])).2).contains (i % 16) then
        wrf (.mxBank (i / 16) n 0) 21 1 1
        wrf (.mxBank (i / 16) n 1) 21 1 1
  | 1 =>
    let row := 256 * (i % 4) + (← draw).toNat % 256
    modify fun s => s.setLinePoison (heartOf (i / 128) / 128 + row * 32 + i / 4 % 32) true
  | _ => skip

/-- The slice's target is being handled under R439, fenced, or cleared under R444. -/
def State.bistBarred (s : State) (x : Slice) : Bool :=
  s.sec.clearing.isSome ||
    (match bistTree x.kind x.idx with
    | some t => s.flag (.treeHealth t) 0 || (s.handling (.tree t)).isSome
    | none => false) ||
    (match x.kind with
    | 0 => (List.range (s.treeArrays (x.idx / 16)).length).any fun n =>
        (((s.treeArrays (x.idx / 16)).getD n (0, [])).2).contains (x.idx % 16) && (s.handling (.array (x.idx / 16) n)).isSome
    | 1 => (s.handling (.bank (x.idx / 128) (x.idx / 4 % 32))).isSome
    | 8 => (s.handling (.landing x.idx)).isSome || s.flag .landFence x.idx
    | _ => false)

/-- The slice that runs saves, tests and restores its target, with what it sampled at its start (R45, R443). The save area holds
unspecified bytes afterwards, and all 4 MiB of it are checked (log entry 34). A result that says that the save was denied is possible
only where the tables deny it. -/
def bistRun (res : BistResult) : M Unit := do
  let s ← get
  match s.bist.slice with
  | none => skip
  | some x =>
    if s.bistBarred x then bistAbandon
    else
      let denied ← (if x.kind = 5 then return none else checkAcc ⟨0x170, true⟩ .wr x.save (2 ^ 22))
      if denied.isSome then
        modify State.bistEnds
        bistRecord 2 0 (bistUnit x.kind x.idx)
      else if res = .saveDenied then skip
      else
        if x.kind = 5 then emptyWay (x.idx / 32) (x.idx % 32) else modify fun s => s.freeRange x.save (x.save + 2 ^ 22)
        match res with
        | .restorePoisoned =>
          if x.kind ≠ 5 then
            bistPoisoned x.kind x.idx
            bistRecord 3 2 (bistUnit x.kind x.idx)
        | .fail rows clean =>
          bump .bistStat 46 12
          bistRecord 1 3 (bistUnit x.kind x.idx)
          bistFailed x (rows.map (·.val)) clean
        | _ => skip
        modify State.bistEnds
        if x.auto then
          let n := (← get).schedule.length
          wrf .bistStat 0 14 ((s.fld .bistStat 0 14 + 1) % max n 1)
        noteCycle

/-- A schedule cycle is not complete after 24 hours (R442). -/
def bistLate : M Unit := bistRecord 4 0 (unitWord 0 0)

/-- Whether a target is under test: new work for it waits (R443 step 1). -/
def State.testing (s : State) (kind i : Nat) : Bool :=
  match s.bist.slice with
  | some x => x.kind = kind && x.idx = i
  | none => false

end Sys2Proof.Machine
end

