-- ==== Sys2Proof/Machine/Flags.lean ====
section
/-! DEFINITION. FLAGS, its conditions, and the flags and results of the integer operations (R99-R101). -/

namespace Sys2Proof.Machine

/-- The results of an integer operation of n bits: value, and Z, N, C, V. -/
structure Alu where
  v : Nat
  z : Bool
  n : Bool
  c : Bool
  o : Bool
  deriving DecidableEq, Repr

/-- A result with Z and N taken from its n bits. -/
def Alu.of (n v : Nat) (c o : Bool) : Alu := ⟨v % 2 ^ n, v % 2 ^ n = 0, (v % 2 ^ n).testBit (n - 1), c, o⟩

/-- The logic column: Z and N from the result, C and V 0 (R101). -/
def aluLogic (n v : Nat) : Alu := .of n v false false

/-- a + b + c with carry and signed overflow. -/
def aluAdd (n a b c : Nat) : Alu :=
  let s := a + b + c
  let i := sInt n a + sInt n b + (c : Int)
  .of n s (2 ^ n ≤ s) (sInt n s != i)

/-- a - b - c with borrow and signed overflow. -/
def aluSub (n a b c : Nat) : Alu :=
  let i := sInt n a - sInt n b - (c : Int)
  let s := a + 2 ^ (n + 1) - b - c
  .of n s (a < b + c) (sInt n s != i)

/-- Shift left by k; C is the last bit shifted out, 0 for a count of 0. -/
def aluShl (n a k : Nat) : Alu := .of n (a <<< k) (0 < k && a.testBit (n - k)) false

/-- Logical shift right. -/
def aluShr (n a k : Nat) : Alu := .of n (a >>> k) (0 < k && a.testBit (k - 1)) false

/-- Arithmetic shift right. -/
def aluSar (n a k : Nat) : Alu := .of n (wrap n (sInt n a / (2 ^ k : Nat))) (0 < k && a.testBit (k - 1)) false

/-- Rotate left: C is the bit that was moved last, which is now bit 0. -/
def aluRol (n a k : Nat) : Alu :=
  let v := (a <<< k ||| a >>> (n - k)) % 2 ^ n
  .of n v (0 < k && v.testBit 0) false

/-- Rotate right: C is the bit that was moved last, which is now the top bit. -/
def aluRor (n a k : Nat) : Alu :=
  let v := (a >>> k ||| a <<< (n - k)) % 2 ^ n
  .of n v (0 < k && v.testBit (n - 1)) false

/-- FLAGS with Z, N, C and V set. -/
def setZNCV (f : W64) (z n c v : Bool) : W64 := setField f 0 4 (b2n z + 2 * b2n n + 4 * b2n c + 8 * b2n v)

/-- FLAGS after an integer operation. -/
def Alu.flags (a : Alu) (f : W64) : W64 := setZNCV f a.z a.n a.c a.o

/-- A condition code holds (R100). -/
def condHolds (f : W64) (c : Nat) : Bool :=
  let z := bit f 0
  let n := bit f 1
  let cy := bit f 2
  let v := bit f 3
  match c with
  | 0 => z
  | 1 => !z
  | 2 => n != v
  | 3 => n == v
  | 4 => !z && n == v
  | 5 => z || n != v
  | 6 => cy
  | 7 => !cy
  | 8 => !cy && !z
  | 9 => cy || z
  | 0xA => n
  | 0xB => !n
  | 0xC => v
  | 0xD => !v
  | 0xE => true
  | _ => !n && !z && !v

/-- What a PUTR to FLAGS stores (R99): IE only at kernel level. -/
def putFlags (f v : W64) : W64 :=
  let m : W64 := 0x177F_7F0F
  let m := if bit f 33 then m ||| 0x1_0000_0000 else m
  (f &&& ~~~m) ||| (v &&& m)

/-- The fields that FLAGS has. -/
def flagsMask : W64 := 0x7_777F_7F0F

end Sys2Proof.Machine
end

