-- ==== Sys2Proof/Machine/Boot.lean ====
section
/-! DEFINITION. The boot and security processor: cold start, the flash, owner enrolment, rollback counters, debug tokens and
the clearing of secrets (R38, R444, R446-R459). -/

namespace Sys2Proof.Machine

/-- A state with flash bytes written from an offset. -/
def State.setFlash (s : State) (off : Nat) : List Byte → State
  | [] => s
  | b :: r => ({ s with flash := awrite 0xFF s.flash off b }).setFlash (off + 1) r

/-- A state with a flash range erased: its bytes read 0xFF. -/
def State.eraseFlash (s : State) (off n : Nat) : State :=
  { s with flash := s.flash.filter fun (e : Nat × Byte) => e.1 < off || off + n ≤ e.1 }

/-- Offset of selector copy k (Table: Flash partitions). -/
def selAddr (k : Nat) : Nat := 0x200_0000 + 0x1_0000 * k

/-- SEQ and the slot bytes of selector copy k, when its CRC32C, in its last 4 bytes, matches (R451; log entry 36). -/
def State.selector (s : State) (k : Nat) : Option (Nat × List Nat) :=
  let b := s.flashBytes (selAddr k) 64
  if crc32c 0 (b.take 60) = leAt b 60 4 then some (leAt b 0 4, [leAt b 4 1, leAt b 5 1, leAt b 6 1]) else none

/-- The selector copy in force: its number, SEQ and slots (R451). -/
def State.selected (s : State) : Option (Nat × Nat × List Nat) :=
  match s.selector 0, s.selector 1 with
  | some (a, x), some (b, y) => if 0 < sInt 32 ((b + 2 ^ 32 - a) % 2 ^ 32) then some (1, b, y) else some (0, a, x)
  | some (a, x), none => some (0, a, x)
  | none, some (b, y) => some (1, b, y)
  | none, none => none

/-- The slot of a component that the selector names: 0 for A, 1 for B; A without a valid copy (R451). -/
def State.slotOf (s : State) (c : Nat) : Nat :=
  match s.selected with
  | some (_, _, l) => if l.getD c 0 = 1 then 1 else 0
  | none => 0

/-- The kinds of firmware component: 0 boot firmware, 1 Service firmware, 2 standing image. -/
def compSize (c : Nat) : Nat := [0x40_0000, 0x100_0000, 0x20_0000].getD c 0

/-- Flash offset of a component's slot A, B or, as slot 2, its factory copy (R449, R450). -/
def compAddr (c slot : Nat) : Nat :=
  if slot = 2 then [0x10_0000, 0x50_0000, 0x150_0000].getD c 0
  else [0x210_0000, 0x290_0000, 0x490_0000].getD c 0 + slot * compSize c

/-- What the image in a slot must be (R449, R453). Factory copies are not compared with rollback counters (R451). -/
def compReq (c slot : Nat) : ImgReq :=
  let kind := if c = 2 then (if slot = 2 then 0x01 else 0x02) else 0x10 + c
  ⟨kind, compSize c, compSize c, false, if slot = 2 then none else some c⟩

/-- The bytes of an image in flash: its header, and as many as that says, at most its partition. -/
def State.compBytes (s : State) (c slot : Nat) : List Byte :=
  let a := compAddr c slot
  s.flashBytes a (min (compSize c) (max 128 (leAt (s.flashBytes a 16) 8 4)))

/-- The load status code of a component in a slot. -/
def State.compCode (s : State) (c slot : Nat) : Nat :=
  if c = 2 then s.imgVerdict (s.compBytes c slot) (compReq c slot) else s.imgCheck (s.compBytes c slot) (compReq c slot)

/-- The first candidate that passes, each rejected one reported (R447), a structure image in LAST_CODE too (R51). -/
def pickComp (c : Nat) : List Nat → M (Option Nat)
  | [] => return none
  | k :: r => do
    match (← get).compCode c k with
    | 0 => return some k
    | code =>
      whenM (c = 2) (wrf .structStatus 8 8 code)
      incident 0x01 0 code (unitWord 0 0) 0 ((← get).reg .structStatus)
      pickComp c r

/-- A component's candidates: the slot that the selector names, the other, the factory copy (R447). -/
def pickSlots (c : Nat) : M (Option Nat) := do
  let k := (← get).slotOf c
  pickComp c [k, 1 - k, 2]

/-- The bytes before the tag of an owner record copy, and the copy's size (R454). -/
def ownerSize : Nat := 8 + 4 * 1952

/-- Flash offset of owner record copy k. -/
def ownerAddr (k : Nat) : Nat := 0x202_0000 + 0x8000 * k

/-- Owner record copy k, without its tag, when it is valid (R454). -/
def State.ownerCopy (s : State) (k : Nat) : Option (List Byte) :=
  let b := s.flashBytes (ownerAddr k) ownerSize
  if s.flashBytes (ownerAddr k + ownerSize) 64 = digestBytes (shake512 (ownerKey ++ b))
      ∧ leAt b 0 4 = s.sec.rpmc.getD 3 0 ∧ leAt b 4 4 ≤ 4 then some b
  else none

/-- The owner record in force: its copy number and bytes. -/
def State.ownerRecord (s : State) : Option (Nat × List Byte) :=
  match s.ownerCopy 0, s.ownerCopy 1 with
  | some b, _ => some (0, b)
  | none, some b => some (1, b)
  | none, none => none

/-- The keys of an owner record. -/
def ownerKeys (b : List Byte) : List (List Byte) :=
  (List.range (leAt b 4 4)).map fun i => (b.drop (8 + 1952 * i)).take 1952

/-- The owner state: 0 UNOWNED, 1 OWNED, 2 INVALID (R454). -/
def State.ownerState (s : State) : Nat :=
  match s.ownerRecord with
  | some (_, b) => if leAt b 4 4 = 0 then 0 else 1
  | none => if s.sec.rpmc.getD 3 0 = 0 then 0 else 2

/-- The digest of the owner record in force, over the record without its tag; of nothing without a record (R457; log entry
36). -/
def State.ownerDigest (s : State) : BitVec 512 :=
  match s.ownerRecord with
  | some (_, b) => shake512 b
  | none => shake512 []

/-- ROLL_CTR_k follow the counters (R453). -/
def showCounters : M Unit := do
  forAll (List.range 4) fun k => do wr (.rollCtr k) (BitVec.ofNat 64 ((← get).sec.rpmc.getD k 0))

/-- A fresh nonce (R459). -/
def drawNonce : M Unit := do
  forAll (List.range 4) fun k => do wr (.dbgNonce k) (← draw)

/-- A stage fails: FAILED is set and STATE stays LOADING (R448). -/
def bootFails (stage : Nat) : M Unit := do
  wrf .bootStatus 0 4 stage
  wrf .bootStatus 4 1 1

/-- The ROM halts in a stage (R448). -/
def bootHalts (stage : Nat) : M Unit := do
  wrf .bootStatus 0 4 stage
  modify fun s => { s with sec := { s.sec with halted := true } }

/-- Stage 10: the structure load (R38). With a factory image that fails its own checks the factory LEAF is empty, so that every
reserve counts as retired (R30; log entry 140). -/
def bootStructure (env : ColdEnv) : M Unit := do
  let fac := (← get).compBytes 2 2
  if (← get).imgCheck fac (compReq 2 2) = 0 then
    modify fun s => { s with factoryLeaf := (aget (imgSects fac) 1).getD [] }
  match ← pickSlots 2 with
  | none => bootFails 10
  | some k =>
    let b := (← get).compBytes 2 k
    let _ ← applySects (imgSects b) env.failed false
    wrf .structStatus 0 4 (if k = 2 then 1 else 2 + k)
    wrf .structStatus 16 1 (if k = 2 then 1 else 0)
    whenM (k = 2) (do incident 0x01 3 0 (unitWord 0 0) 0 ((← get).reg .structStatus))
    wrf .structStatus 32 32 (leAt b 0xC 4)
    modify fun s => { s with sec := { s.sec with secvers := s.sec.secvers.take 2 ++ [leAt b 0xC 4] } }
    wrf .rerigTime 0 16 (min env.loadUs 65535)
    wrf .structStatus 4 4 1
    wrf .bootStatus 0 4 0xF
    wrf .bootStatus 32 16 (min env.bootMs 65535)
    noteCycle

/-- Stage 9: a thread leaves park in SK, at the entry address of the Service firmware (R446, R449; log entry 169). -/
def startService (entry : Nat) (k : Nat) : M Unit := modify fun (s : State) =>
  (((s.setReg (.thr (k / 4) (k % 4) 0x1B) (BitVec.ofNat 64 entry)).setReg (.thr (k / 4) (k % 4) 0x10) 0x7_0000_0000).setFld
    (.excStatus (k / 4) (k % 4)) 1 1 0)

/-- Stages 7 to 9 (R446, R453, R454). The incident ring and the queues that Service firmware sets up in stage 9 reach the part as
commands (log entry 35). -/
def bootService (env : ColdEnv) : M Unit := do
  showCounters
  modify fun s => { s with sec := { s.sec with
    keys := match s.ownerRecord with | some (_, b) => ownerKeys b | none => []
    owner := s.ownerDigest } }
  wrf .bootStatus 9 2 (← get).ownerState
  match ← pickSlots 1 with
  | none => bootFails 8
  | some k =>
    let b := (← get).compBytes 1 k
    modify fun s => { s with sec := { s.sec with
      svcDigest := signedDigest b
      secvers := s.sec.secvers.take 1 ++ [leAt b 0xC 4] ++ s.sec.secvers.drop 2
      fallback := s.sec.fallback + (if k = 2 then 2 else 0) } }
    wrf .bootStatus 7 2 k
    if env.serviceOk then
      forAll env.service fun t => startService (leAt b 0x20 8) (t.tree * 4 + t.th)
      bootStructure env
    else bootFails 9

/-- Stages 4 to 6 (R446): links between dies, training of the near bank, and zeros in the near bank and the heartwoods. -/
def bootMemory (env : ColdEnv) : M Unit := do
  if ¬ env.fabricOk then bootFails 4
  else if ¬ env.trainOk then bootFails 5
  else
    wrf .nbCfg 5 1 1
    modify fun (s : State) => { s.keepMem (fun a => !inNear a && !(heartBase ≤ a && a < heartOf 64)) [] with badTags := [], openRows := [] }
    bootService env

/-- A cold start (R446): the release of module reset, once. -/
def bootCold (env : ColdEnv) : M Unit := do
  let s ← get
  if s.fld .bootStatus 0 4 ≠ 1 ∨ s.flag .bootStatus 4 ∨ s.sec.halted then skip
  else
    wrf .mgmtstat 16 3 env.maddr.toNat
    drawNonce
    if ¬ env.pufOk then bootHalts 1
    else
      wrf .flashstat 0 2 (if env.octalOk then 1 else 2)
      wrf .flashstat 2 1 (b2n env.wpLock)
      whenM (!env.octalOk) (incident 0x0E 2 3 (unitWord 0 0) 0 ((← get).reg .pciestat))
      wrf .bootStatus 11 1 (b2n (← get).selected.isSome)
      match ← pickSlots 0 with
      | none => bootHalts 3
      | some k =>
        let b := (← get).compBytes 0 k
        modify fun s => { s with sec := { s.sec with
          bootDigest := signedDigest b
          secvers := leAt b 0xC 4 :: s.sec.secvers.drop 1
          fallback := if k = 2 then 1 else 0 } }
        wrf .bootStatus 5 2 k
        bootMemory env

/-- ROLL_CMD.COMMIT (R453). -/
def rollCommit (world : Bool) : M Unit := do
  let s ← get
  if ¬ world then wrf .rollStatus 0 8 1
  else if s.jobRuns then wrf .rollStatus 0 8 2
  else
    set { s with sec := { s.sec with
      rpmc := ((List.range 3).map fun k => max (s.sec.rpmc.getD k 0) (s.sec.secvers.getD k 0)) ++ [s.sec.rpmc.getD 3 0] } }
    showCounters
    wrf .rollStatus 0 8 0

/-- The signature in a trailer over the 64-byte digest of a body, against a key. -/
def trailerOk (key body trailer : List Byte) : Bool :=
  Config.mldsaVerify key (digestBytes (shake512 body)) ((trailer.drop 8).take 3309)

/-- A new owner record: written into the copy not in force, then RC3 advances (R455). -/
def writeOwner (keys : List (List Byte)) : M Unit := do
  let s ← get
  let seq := (s.sec.rpmc.getD 3 0 + 1) % 2 ^ 32
  let used := toLE seq 4 ++ toLE keys.length 4 ++ keys.flatten
  let b := used ++ List.replicate (ownerSize - used.length) 0
  let k := match s.ownerRecord with | some (k, _) => 1 - k | none => 0
  let t := s.setFlash (ownerAddr k) (b ++ digestBytes (shake512 (ownerKey ++ b)))
  set { t with sec := { t.sec with rpmc := t.sec.rpmc.take 3 ++ [seq] } }
  modify fun s => { s with sec := { s.sec with owner := s.ownerDigest } }
  showCounters
  wrf .bootStatus 9 2 (← get).ownerState

/-- The key that may sign an enrolment request: the Nydric key for RECOVER, else an enrolled key other than the one revoked
(Table: Enrolment operations). -/
def State.enrolKey (s : State) (op slot keysel : Nat) : Option (List Byte) :=
  if op = 5 then (if keysel = 0 then s.nydricKey else none)
  else
    match s.ownerRecord with
    | some (_, b) => if keysel = 0 ∨ (op = 3 ∧ keysel = slot) then none else (ownerKeys b)[keysel - 1]?
    | none => none

/-- The state that an operation requires (Table: Enrolment operations). -/
def State.enrolState (s : State) (op slot : Nat) : Bool :=
  let n := match s.ownerRecord with | some (_, b) => leAt b 4 4 | none => 0
  match op with
  | 1 => s.ownerState = 0
  | 2 => s.ownerState = 1 && n < 4 && slot = n + 1
  | 3 => s.ownerState = 1 && 2 ≤ n && 1 ≤ slot && slot ≤ n
  | 4 => s.ownerState = 1
  | _ => s.ownerState ≠ 0

/-- The code of an enrolment request, 0 when it is accepted (R455, R456). The body's layout is the model's: OP, SLOT, SERIAL,
SEQ and the key's offset at bytes 0, 4, 8, 16 and 20 (log entry 37). -/
def State.enrolCode (s : State) (b tr : List Byte) (bad : Bool) : Nat :=
  let op := leAt b 0 4
  if s.jobRuns ∨ s.mgmt.update.isSome then 2
  else if bad ∨ op = 0 ∨ 5 < op ∨ ¬ zeros (b.drop 24) ∨ leAt tr 0 4 ≠ (if op = 1 then 0 else 3309) ∨ ¬ zeros ((tr.drop 3317).take 3) then 3
  else if op ≠ 1 ∧ ¬ (s.enrolKey op (leAt b 4 4) (leAt tr 4 4)).any (fun k => trailerOk k b tr) then 4
  else if ¬ s.enrolState op (leAt b 4 4) then 5
  else if leAt b 16 4 ≠ s.sec.rpmc.getD 3 0 then 6
  else if leAt b 8 8 ≠ partSerial then 7
  else 0

/-- The owner's chain is erased (Table: Enrolment operations). -/
def eraseCert : M Unit := modify fun s => s.eraseFlash 0x203_0000 0x3_0000

/-- A request runs for some time up to 50 ms, a free value, in which BUSY is 1 (R456; log entry 170). -/
def mboxBusy : M Unit := do
  let d := (← draw).toNat % 5_000_000
  modify fun s => if d = 0 then s else
    { s.setFld .secMboxStatus 8 1 1 with sec := { s.sec with busy := some (s.now + d) } }

/-- SEC_MBOX_CMD.GO (R455, R456): the request at SEC_MBOX_ADDR. It takes effect at once and BUSY stays 1 while it runs; another one is
refused meanwhile. With an operation expected, a request for another one is no such command (log entry 3). -/
def mailbox (want : Option Nat) (flashOk : Bool) : M Unit := do
  let s ← get
  let a := s.fld .secMboxAddr 3 49 * 8
  let (b, p) ← bootFetch true a 3384
  let body := b.take 64
  let op := leAt body 0 4
  let off := leAt body 20 4
  if want.any fun k => k ≠ op then set s
  else
    let needsKey := op = 1 ∨ op = 2
    let (key, kp) ← (if needsKey then bootFetch true (a + off) 1952 else return ([], false))
    let s ← get
    let code := s.enrolCode body (b.drop 64) (p || kp)
    let code := if s.flag .secMboxStatus 8 then 1 else if code = 0 ∧ ¬ flashOk then 8 else code
    if code = 0 then
      mboxBusy
      let keys := match s.ownerRecord with | some (_, r) => ownerKeys r | none => []
      match op with
      | 1 => writeOwner [key]
      | 2 => writeOwner (keys ++ [key])
      | 3 => writeOwner (keys.eraseIdx (leAt body 4 4 - 1))
      | _ =>
        writeOwner []
        eraseCert
    wrf .secMboxStatus 0 8 code

/-- The key of a signer that may sign a debug token (Table: Signing keys): an owner key of the record in force now, since only image
verification keeps to the record at boot (R456). -/
def State.tokenKey (s : State) (level signer keysel : Nat) : Option (List Byte) :=
  if signer = 1 ∧ level = 3 ∨ 1 < signer then none
  else if signer = 0 then s.signerKey 0 keysel
  else
    match s.ownerRecord with
    | some (_, b) => if keysel = 0 then none else (ownerKeys b)[keysel - 1]?
    | none => none

/-- A debug token passes every check of R459. -/
def State.tokenOk (s : State) (t : List Byte) : Bool :=
  let level := leAt t 4 1
  !s.jobRuns && !s.flag .bootStatus 4 && !s.sec.halted && s.sec.clearing.isNone
    && leAt t 0 4 == 0x4B54444E && 1 ≤ level && level ≤ 3
    && leAt t 8 8 == partSerial && zeros ((t.drop 0x30).take 16) && zeros ((t.drop 0xD2D).take 3) && t.length == 3376
    && (t.drop 0x10).take 32 == (List.range 4).flatMap (fun k => toLE (s.reg (.dbgNonce k)).toNat 8)
    && s.fld .dbgstat 0 2 < level
    && (s.tokenKey level (leAt t 5 1) (leAt t 6 2)).any fun k =>
      Config.mldsaVerify k (digestBytes (shake512 (t.take 64))) ((t.drop 0x40).take 3309)

/-- A debug token (R459): refused, or the clearing of secrets begins with the key material (R444 step 1). -/
def takeToken (t : List Byte) : M Unit := do
  let s ← get
  let ok := s.tokenOk t
  drawNonce
  if ok then
    modify fun s => { s with
      sec := { s.sec with clearing := some (leAt t 4 1), keysGone := true }
      mgmt := { s.mgmt with spdm := [] } }
    wrf .mgmtstat 20 3 0
  else refuseToken 2

/-- Steps 2 and 3 of R444 for a level. -/
def clearSecrets (level : Nat) : M Unit := do
  if 2 ≤ level then
    scrubStarts
    scrubAll ((← get).flag .scrubCtrl 0)
    scrubEnds (← draw).toNat
    wrf .epRplBase 0 1 0
    wrf .epRplStatus 48 1 0
    modify fun s => s.keepMem (fun a => !inFar a) s.freeMem
  if level = 3 then
    clearEntries
    let other (a : Nat) : Bool := !(heartBase ≤ a && a < heartOf 64)
    modify fun (s : State) => { s.keepMem other (s.freeMem.filter fun f => other f.1) with
      canopies := s.canopies.map fun (e : Nat × CanopySt) => (e.1, { e.2 with lines := [] })
      tlbs := []
      walks := []
      trees := s.trees.map fun (e : Nat × TreeSt) => (e.1, { e.2 with rc := [] })
      tiles := []
      vregs := []
      mregs := [] }

/-- The clearing of secrets ends, in success or not (R444). -/
def secretsEnd (ok : Bool) : M Unit := do
  match (← get).sec.clearing with
  | none => skip
  | some level =>
    modify fun s => { s with sec := { s.sec with clearing := none } }
    if ok then
      clearSecrets level
      wrf .dbgstat 2 1 1
      incident 0x12 0 1 (unitWord 0 0) 0 ((← get).reg .dbgstat)
      wrf .dbgstat 0 2 level
    else refuseToken 3

end Sys2Proof.Machine
end

