-- ==== Sys2Proof/Machine/Power.lean ====
section
/-! DEFINITION. The module's power controller, its resets and its PMBus target (R462-R477). -/

namespace Sys2Proof.Machine

/-- A state with the power controller changed. -/
def State.setPower (s : State) (f : PowerSt → PowerSt) : State := { s with power := f s.power }

/-- PWR_STATUS follows the requests: the duty is the largest, and CAUSE names those in force (R465). -/
def setDuty : M Unit := do
  let p := (← get).power
  wrf .pwrStatus 0 8 (max p.bound (max p.brake p.therm))
  wrf .pwrStatus 9 3 (b2n (p.bound != 0) + 2 * b2n (p.brake != 0) + 4 * b2n (p.therm != 0))

/-- A POWER record: DETAIL1 holds PWR_STATUS (R469). -/
def powerRecord (sev code : Nat) (d0 : W64) : M Unit := do
  incident 0x13 sev code (unitWord 0 0) d0 ((← get).reg .pwrStatus)

/-- The request of the power brake (R466). -/
def brakeDuty (p l : Nat) : Nat := if p ≤ l then 0 else min 255 ((256 * (p - l) + (p - 280) - 1) / (p - 280))

/-- POWER_BRAKE_N has been low for 1 µs (R466). -/
def brakeOn : M Unit := do
  let s ← get
  if ¬ s.flag .pwrStatus 8 then
    modify fun s => s.setPower fun p => { p with brake := brakeDuty p.watts (s.fld .pwrCtrl 16 11) }
    wrf .pwrStatus 8 1 1
    setDuty
    bump .pwrStat 0 16
    powerRecord 0 1 0

/-- POWER_BRAKE_N has been high for 1 µs (R466). -/
def brakeOff : M Unit := do
  modify fun s => s.setPower fun p => { p with brake := 0 }
  wrf .pwrStatus 8 1 0
  setDuty

/-- The average of the measurements of 10 ms, rounded down (PWR_STATUS.PIN; log entry 176). -/
def PowerSt.average (p : PowerSt) : Nat := p.recent.foldl (· + ·) 0 / max p.recent.length 1

/-- A measurement of input power, one every 10 µs, with the request that the bounds of R463 ask for (R465; log entry 176);
while module reset is asserted only the controller itself has it. -/
def measure (watts bound : Nat) : M Unit := do
  modify fun s => s.setPower fun p => { p with
    watts := watts
    recent := (watts :: p.recent).take 1000
    bound := min bound 255
    input := if s.fld .pwrCtrl 0 11 < watts then p.input ||| 1 else p.input }
  if ¬ (← get).power.held then
    wrf .pwrStatus 32 12 (← get).power.average
    setDuty
    let s ← get
    if s.fld .pwrStatus 0 8 ≠ 0 then wrf .pwrStat 16 32 (min (s.fld .pwrStat 16 32 + 10) (2 ^ 32 - 1))

/-- The throttle threshold of reading k: 0 to 5 a die, 6 the memory (R467). -/
def State.throttleAt (s : State) (k : Nat) : Nat := if k < 6 then s.fld .pwrCtrl 32 7 else 95

/-- The state after a module reset is asserted (R472): everything is lost but flash, its counters, memory beyond the far-bank
ports and the host, and what the power controller itself keeps. -/
def State.moduleReset (s : State) : State :=
  let keep (a : Nat) : Bool := inFar a || inHost a
  { State.reset with
    mem := s.mem.filter fun e => keep e.1 && e.2 != 0
    poison := s.poison.filter fun (e : Nat × Bool) => keep (e.1 * 128)
    flash := s.flash
    sec := { SecSt.init with rpmc := s.sec.rpmc }
    power := { PowerSt.init with
      on := s.power.on, held := true, latched := s.power.latched, temps := s.power.temps, vin := s.power.vin
      word := s.power.word, input := s.power.input, temp := s.power.temp, trip := s.power.trip, leak := s.power.leak }
    out := s.out
    fresh := s.fresh
    now := s.now
    pending := s.pending }

/-- Every rail turns off (R469): the module is in module reset, and THERM_TRIP_N is released (R468). -/
def powerOff (latch : Bool) : M Unit := modify fun (s : State) =>
  s.moduleReset.setPower fun p => { p with on := false, latched := latch, trip := false }

/-- Temperature readings (R467, R468): the six dies, then the memory. While module reset is asserted only the module's monitor
sees them, which turns the rails off at the shutdown threshold (R468, R472). -/
def thermal (t : List Nat) : M Unit := do
  let s ← get
  let old := s.power.temps
  set (s.setPower fun p => { p with temps := t })
  if ¬ s.power.held then
    forAll (List.range 7) fun k => wrf .thermStatus (8 * k) 8 (min (t.getD k 0) 255)
    let ks := List.range 7
    let hot := ks.filter fun k => s.throttleAt k ≤ t.getD k 0
    let rising := hot.any fun k => old.getD k 0 ≤ t.getD k 0
    let cool := ks.all fun k => t.getD k 0 + 3 ≤ s.throttleAt k
    let n := if cool then s.power.cool + 1 else 0
    modify fun s => s.setPower fun p => { p with
      therm := if rising then min (p.therm + 16) 255 else if n = 10 then p.therm - 16 else p.therm
      cool := if n = 10 then 0 else n
      temp := if hot.isEmpty then p.temp else p.temp ||| 0x40 }
    setDuty
    whenM (rising && s.power.therm == 0) (powerRecord 0 2 0)
    if (ks.any fun k => (if k < 6 then 115 else 105) ≤ t.getD k 0) ∧ ¬ s.flag .pwrStatus 12 then
      modify fun s => s.setPower fun p => { p with therm := 255, temp := p.temp ||| 0x80, trip := true }
      setDuty
      wrf .pwrStatus 12 1 1
      withdraw none 0x13 3 (unitWord 0 0) 0 .pwrStatus
  if (List.range 6).any fun k => 125 ≤ t.getD k 0 then powerOff false

/-- VIN has been below 58 V for 100 µs (R469); in module reset only STATUS_INPUT shows it. -/
def underWarning : M Unit := do
  modify fun s => s.setPower fun p => { p with input := p.input ||| 0x20 }
  if ¬ (← get).power.held then withdraw none 0x13 4 (unitWord 0 0) 0 .pwrStatus

/-- VIN below 55 V or above 84 V turns every rail off; the former releases a latched rail fault (R462, R469). -/
def lockout (over_ : Bool) : M Unit := do
  let l := (← get).power.latched
  powerOff (over_ && l)
  modify fun s => s.setPower fun p => { p with input := p.input ||| (if over_ then 0x80 else 0x10) }

/-- VIN falls below 55 V: also where the rails are off, that releases a latched rail fault (R469). -/
def underLockout : M Unit := do
  if (← get).power.on then lockout false
  else modify fun s => s.setPower fun p => { p with latched := false }

/-- A rail leaves regulation: the FATAL record is written, and every rail turns off, latched (R469). -/
def railFails (rail : Nat) : M Unit := do
  powerRecord 4 6 (BitVec.ofNat 64 rail)
  powerOff true

/-- A latched rail fault is released by MOD_RESET_N (R469). -/
def releaseRail : M Unit := modify fun s => s.setPower fun p => { p with latched := false }

/-- A leak sensor trips (R477); in module reset LEAK_N alone tells of it. -/
def leakFound : M Unit := do
  modify fun s => s.setPower fun p => { p with leak := true }
  if ¬ (← get).power.held then
    wrf .pwrStatus 13 1 1
    powerRecord 3 5 0

/-- VIN rises through 59 V: the rails come up, unless a rail fault is latched; module reset stays asserted (R470, R471). -/
def vinRises (vin : Nat) : M Unit := modify fun (s : State) =>
  if 59 ≤ vin ∧ ¬ s.power.on ∧ ¬ s.power.latched then s.setPower fun p => { p with on := true, held := true, vin := vin }
  else s

/-- Module reset is released and the part cold starts, where the rails are up and no die reads above 95 °C (R446, R471). -/
def coldStartGo (env : ColdEnv) : M Unit := do
  let s ← get
  if s.power.on ∧ ¬ ((s.power.temps.take 6).any fun t => 95 < t) then
    set (s.setPower fun p => { p with held := false })
    bootCold env

/-- PWR_STAT.CLR (R464). -/
def clearPwrStat : M Unit := do
  wrf .pwrStat 0 16 0
  wrf .pwrStat 16 32 0

/-- The interface number of the PMBus in answers. -/
def pmbusIface : Nat := 5

/-- LINEAR11 with the smallest exponent that is not negative (R475; log entry 11). -/
def linear11 (v : Nat) : Nat :=
  let n := ((List.range 16).find? fun n => v / 2 ^ n < 1024).getD 15
  v / 2 ^ n % 1024 + n <<< 11

/-- Answer a PMBus read with a word. -/
def pmbus (n v : Nat) : M Unit := send (.answer pmbusIface 0 ((toLE v n).map BitVec.toNat))

/-- STATUS_WORD: INPUT, POWER_GOOD#, TEMPERATURE and CML at the standard's bits 13, 11, 2 and 1 (R475; log entry 11). -/
def State.statusWord (s : State) : Nat :=
  (if s.power.input = 0 then 0 else 2 ^ 13) + (if s.power.on then 0 else 2 ^ 11) + (if s.power.temp = 0 then 0 else 4)
    + s.power.word

/-- PMB_ALERT_N is asserted (R475). -/
def State.pmbAlert (s : State) : Bool := s.statusWord != 0

/-- PWR_GOOD is high (R470). -/
def State.pwrGood (s : State) : Bool := s.power.on

/-- CLEAR_FAULTS (R475). -/
def clearFaultBits : M Unit := do
  modify fun s => s.setPower fun p => { p with word := 0, input := 0, temp := 0 }
  pmbus 0 0

/-- Input current: the last PLDM reading, else a free value (R475). -/
def inputCurrent : M Nat := do
  match (← get).mgmt.sensors[1]? with
  | some v => return v
  | none => return (← draw).toNat % 1024

/-- The PMBus commands answered (Table: PMBus commands). -/
def pmbusCodes : List Nat := [0x03, 0x58, 0x6B, 0x79, 0x7C, 0x7D, 0x88, 0x89, 0x8D, 0x97, 0x98]

/-- Any other PMBus command: a NACK, and CML in STATUS_WORD (R475). -/
def pmbusOther (code : Nat) : M Unit := do
  if ¬ pmbusCodes.contains code then
    modify fun (s : State) => s.setPower fun p => { p with word := 2 }
    send (.answer pmbusIface 1 [])

end Sys2Proof.Machine
end

