-- ==== Sys2Proof/Machine/Effects.lean ====
section
/-! DEFINITION. What a write of each register does beside storing its value, and register writes over the bus (R5, R46-R50,
R405). -/

namespace Sys2Proof

/-- Thread number: tree * 4 + thread, which is also its master ID (R18). -/
def Tid.k (t : Tid) : Nat := t.tree.val * 4 + t.th.val

end Sys2Proof

namespace Sys2Proof.Machine

/-- Registers that share a sub-block's quiescent point (R46, Table: Quiescent points). -/
def subRegs (b : Blk) (n : Nat) : List Reg :=
  match b with
  | .tree t => if n < 4 then [.srCtx t n] else []
  | .grove g => if n = 15 then [.dispCtrl g] else []
  | .dev => if n = 37 then [.tideCfg] else []

/-- A crew thread is at an instruction boundary outside a REPX sequence (Table: Quiescent points); between commands the other
units with quiescent registers have no operation in progress. -/
def State.quiet (s : State) (b : Blk) (n : Nat) : Bool :=
  match b with
  | .tree t =>
    let f := s.reg (.thr t n 0x10)
    let h := (s.thread (4 * t + n)).hold
    4 ≤ n || (!(bit f 29 && bit f 30) && (h == .none || h == .issue))
  | _ => true

/-- A sub-block is at its quiescent point and applies its pending fields, unless HOLD is 1 (R46, R47). With TIDE_CFG the upstream landing
is UPLAND again, whatever R348 had switched to. -/
def quiesce (b : Blk) (n : Nat) : M Unit := do
  let s ← get
  if s.flag (.cfgPending b) n ∧ ¬ s.flag (.cfgCtrl b) 0 ∧ s.quiet b n then
    forAll (subRegs b n) applyPending
    wrf (.cfgPending b) n 1 0
    endQuiesce b
    whenM (b = .dev) (do
      modify fun s => { s with tide := { s.tide with up := none } }
      takeWaiting)

/-- CFG_CTRL.QREQ (R48). -/
def requestQuiet (b : Blk) : M Unit := do
  if ¬ (← get).flag (.cfgCtrl b) 0 then
    wrf (.cfgCtrl b) 2 1 1
    endQuiesce b

/-- TELEM_CLR: the slots of the bits set. -/
def clearTelem (v : W64) : M Unit :=
  forAll (List.range 64) fun n =>
    if bit v n ∧ n ≠ 0 then do
      wr (.telemSat n) 0
      wr (.telemAmax n) 0
    else skip

/-- Records held before INC_RING.EN are written in order once it is 1 (R436). -/
def ringOn : M Unit := do
  let s ← get
  if s.flag .incRing 0 then
    let (t, l, n) := placeHeld s s.collector.opened
    set (t.setOpened l)
    raise n

/-- HEAD has moved: open records that it has passed become final and are not rewritten (R437). -/
def headMoved : M Unit := modify fun (s : State) =>
  s.setOpened (s.collector.opened.filter fun o => match o.idx with
    | some i => !headPassed s i
    | none => true)

/-- The window of an open record has ended (R437). -/
def windowEnds (k : Nat) : M Unit := do
  let s ← get
  match s.collector.opened[k]? with
  | some o =>
    if o.rc.first.toNat + 2 ^ 20 ≤ s.tideNow ∧ ¬ o.final then
      let (t, l, n) := finalise s o
      set (t.setOpened (s.collector.opened.take k ++ l.toList ++ s.collector.opened.drop (k + 1)))
      raise n
  | none => skip

/-- The landings of the bits set are released (R433). -/
def unfenceAll (v : W64) : M Unit :=
  forAll (List.range 16) fun l => if bit v l then unfenceLanding l else skip

/-- INT_SET: the software interrupts of the bits set (R417). -/
def setSoft (t th : Nat) (v : W64) : M Unit := do
  whenM (bit v 0) (wrf (.intPend t th) 0 1 1)
  whenM (bit v 8) (wrf (.intPend t th) 8 1 1)

/-- EP_CMD (R319, R336, R340). -/
def epCommand (v : W64) : M Unit := do
  whenM (bit v 0) epLoad
  whenM (bit v 1) epUnload
  whenM (bit v 2) requestCommit
  whenM (bit v 3) resyncJournal
  whenM (bit v 4) cancelCommit

/-- A reset of counters: some registers become 0 when a bit is 1. ROW and COL of MX_TALLY_LAST become 0 too (DESIGN CHOICE, log
entry 151). -/
def clearRegs (v : W64) (i : Nat) (l : List Reg) : M Unit := if bit v i then forAll l fun r => wr r 0 else skip

/-- A state in which a compare value of thread k, INT_TCMP_J or INT_TCMP_S, has just been written: TIDE_NOW may be past it already
(R417). -/
def State.setPast (s : State) (k : Nat) (job : Bool) (v : W64) : State :=
  let b := decide (v.toNat ≤ (s.reg .tideNow).toNat)
  let x := s.thread k
  s.setThread k (if job then { x with pastJ := b } else { x with pastS := b })

/-- The effect of an accepted write, after its value is stored; `old` is what the register held. -/
def writeEffect (r : Req) (g : Reg) (old v : W64) : M Unit := do
  match g with
  | .rerigCmd => whenM (bit v 0) rerigStart
  | .cfgCtrl b => whenM (bit v 1) (requestQuiet b)
  | .cfgClear b => clearRegs v 0 [.cfgStatus b]
  | .telemClr => clearTelem v
  | .hwErrclr t => clearRegs v 0 [.hwErr t]
  | .mxTallyClr t => clearRegs v 0 [.mxTally t, .mxTallyLast t]
  | .vuPassesClr t => clearRegs v 0 [.vuPasses t]
  | .seClr t => clearRegs v 0 [.seElems t, .seFault t]
  | .ferryDone t _ => modify fun s => s.sbLatch t
  | .jobCtrl =>
    whenM (bit v 0) startJob
    whenM (bit v 1) endJob
  | .fbCtrl p => clearRegs v 10 [.fbErr p]
  | .nbClr g l => clearRegs v 0 [.nbErr g l, .nbLast g l]
  | .fyClr g l =>
    clearRegs v 0 [.fyBytes g l]
    whenM (bit v 0) (wrf (.fyStatus g l) 32 32 0)
  | .cmoCmd g => whenM (bit v 3) (startCmo g (field v 0 2) (bit v 2))
  | .tlbInvCmd => whenM (bit v 3) (startInv (field v 0 2) (bit v 2))
  | .accDenyClr => clearRegs v 0 [.accDenyLast, .accDenyAddr]
  | .epEpoch => wrf .epStatus 0 32 (field v 0 32)
  | .epCmd => epCommand v
  | .tideSet => setTide v
  | .stepOrigin => originSet
  | .ttCtrl => whenM (bit v 0 && !bit old 0) ttEnable
  | .ttClr => clearRegs v 0 [.ttStat]
  | .landCtrl l =>
    whenM (bit v 0) (retrainLanding l)
    clearRegs v 1 [.landErr l, .landBytes l]
  | .landUnfence => unfenceAll v
  | .intSet t th => setSoft t th v
  | .intTcmpJ t th => modify fun s => s.setPast (4 * t + th) true v
  | .intTcmpS t th => modify fun s => s.setPast (4 * t + th) false v
  | .incRing => ringOn
  | .incPtr => headMoved
  | .incClr => clearRegs v 0 [.incOvf, .recovStat]
  | .rollCmd => whenM (bit v 0) (rollCommit r.world)
  | .secMboxCmd => whenM (bit v 0) (mailbox none true)
  | .pwrStat => whenM (bit v 48) clearPwrStat
  | _ => skip

/-- An accepted write of a register (R5, R46, R310, R352): words 0 to 2 of a rule or a tide-table entry wait in shadow. -/
def putReg (r : Req) (g : Reg) (v : W64) : M Unit := do
  let s ← get
  let old := s.reg g
  match g with
  | .doorbell q => ringBell r q v
  | .accRule b k i w =>
    if w < 3 then set { s with wordShadow := aput s.wordShadow g.addr v }
    else
      forAll (List.range 3) fun w => modify fun (s : State) =>
        match aget s.wordShadow (Reg.accRule b k i w).addr with
        | some x => { s.setReg (.accRule b k i w) x with wordShadow := adel s.wordShadow (Reg.accRule b k i w).addr }
        | none => s
      wr g v
  | .ttEntry i w =>
    if w < 3 then set { s with wordShadow := aput s.wordShadow g.addr v }
    else
      wr g v
      ttCommit i
  | _ =>
    storeReg g v
    writeEffect r g old v

/-- The value that a write with world bit 0 brings to an interrupt register: its Service-world bits are ignored (R405). -/
def worldValue (r : Req) (g : Reg) (old v : W64) : W64 :=
  if g.bothWorlds ∧ ¬ r.world then
    match g with
    | .intEn _ _ => (v &&& 0xFF) ||| (old &&& ~~~0xFF)
    | _ => v &&& 0xFF
  else v

/-- The register writes that this command causes on behalf of a queue or a unit (R5, R240): a value of a register that refuses it
under R49 stays out of it. -/
def writeWaitingRegs : M Unit := do
  let l := (← get).posted.filter fun p => inRegs p.addr
  modify fun s => { s with posted := s.posted.filter fun p => !inRegs p.addr }
  forAll l fun p => do
    match blkOfAddr p.addr with
    | some b => match regHit b (p.addr - b.base) p.bytes.length with
      | .reg g =>
        let x := worldValue p.req g ((← get).stored g) (BitVec.ofNat 64 (ofLE p.bytes))
        match (← get).refusal g x with
        | some c => refuse b p.addr c
        | none => putReg p.req g x
      | _ => skip
    | none => skip

/-- How a register write ended: taken, refused under R49, or denied with a cause. -/
inductive WriteRes where
  | done
  | refused
  | denied (c : Nat)
  deriving DecidableEq, Repr

/-- Write a register over the bus. -/
def regBusWrite (r : Req) (a n : Nat) (v : W64) : M WriteRes := do
  if (← get).hostMute r then return .refused
  match ← regCheck r .wr a n with
  | .error c => return .denied c
  | .ok none => return .done
  | .ok (some (b, g)) =>
    let s ← get
    let x := worldValue r g (s.stored g) (BitVec.ofNat 64 (v.toNat % 2 ^ (8 * n)))
    match s.refusal g x with
    | some c =>
      refuse b a c
      return .refused
    | none =>
      putReg r g x
      writeWaitingRegs
      return .done

/-- Read n bytes at a device physical address, register or memory, for a master that reaches both (R13, R397, R402). -/
def reach (r : Req) (a n : Nat) : M (Except Nat (List Byte)) := do
  if inRegs a then regBusRead r a n
  else
    match ← readPhys r a n with
    | .ok (b, _) => return .ok b
    | .error d => return .error d

/-- Write n bytes at a device physical address, register or memory (R13, R397, R402). -/
def reachWrite (r : Req) (a n : Nat) (v : W64) : M WriteRes := do
  if inRegs a then regBusWrite r a n v
  else
    match ← writePhys r a (toLE v.toNat n) with
    | some d => return .denied d
    | none => return .done

/-- The device physical address that a master's register access names: the host gives a BAR0 offset (R17), every other master the
address itself (R13). -/
def busAddr (r : Req) (a : Nat) : Option Nat := if r.master = 0x140 then bar0 a else some a

/-- A register write over the bus (R5, R13, R17); BAR0 has no contents beyond the register regions. -/
def busWriteReg (r : Req) (a n : Nat) (v : W64) : M Unit := do
  match busAddr r a with
  | some p =>
    let _ ← reachWrite r p n v
    skip
  | none => skip

/-- Write a register by name. -/
def writeReg (r : Req) (g : Reg) (v : Nat) : M Unit := do
  let _ ← regBusWrite r g.addr (g.width / 8) (BitVec.ofNat 64 v)
  skip

/-- Perform an action that moves a queue, and then the register writes that it causes (R5, R240). -/
def withRegs (m : M Unit) : M Unit := do
  m
  writeWaitingRegs

/-- A thread's watchdog reaches LIMIT (R429): the thread is reset, or, in the course of a reset, its tree contained, with no address in
DETAIL0 (R440). -/
def watchdogExpires (k : Nat) : M Unit := do
  let s ← get
  if s.flag .wdCtrl 16 ∧ s.inReset k then contain (k / 4) 0
  else
  let bounded : Bool := match (s.thread k).hold with
    | .page _ => true
    | .epoch _ _ _ => true
    | _ => false
  if s.flag .wdCtrl 16 ∧ ¬ s.flag (.excStatus (k / 4) (k % 4)) 1 ∧ ¬ bounded then
    resetThread k
    survive (.thread k) 50 0x10 2 1 (unitWord 3 k) 0 (.treeHealth (k / 4))

/-- A recovery has not ended 1 ms after its detection (R440). Of an array the block that MX_TALLY_LAST names is taken out, or
its lowest (log entry 40). What follows is secondary to the recovery (R439). -/
def recoveryLate (d : Domain) : M Unit := do
  let s ← get
  match d with
  | .array t n =>
    match (s.treeArrays t)[n.val]? with
    | some (_, bl) =>
      let last := s.fld (.mxTallyLast t) 39 4
      let b := if s.fld (.mxTallyLast t) 0 4 = n ∧ bl.contains last then last else bl.headD 0
      if s.flag (.mxArray t n) 22 then blockOut t n b
    | none => skip
  | .bank t b => whenM (!s.flag (.treeHealth t) 0) (fenceTree (some (.bank t b)) t)
  | .thread k => whenM (!s.flag (.treeHealth (k.k / 4)) 0) (fenceTree (some (.thread k.k)) (k.k / 4))
  | .tree t => whenM (!s.flag (.treeHealth t) 0) (fenceTree (some (.tree t)) t)
  | .landing l => whenM (s.link l).retrain (downLanding l)
  | .channel c => whenM (!s.flag (.nbHealth (c / 6) (c % 6)) 7) (failChannel c)

end Sys2Proof.Machine
end

