-- ==== Sys2Proof/Machine/Path.lean ====
section
/-! DEFINITION. Translated accesses of any length by a master that is no crew thread: translation page by page, the checks,
and reads and writes with poison by byte (R289, R293, R309). -/

namespace Sys2Proof.Machine

/-- Bytes with whether each comes from a poisoned line. -/
abbrev PBytes := List (Byte × Bool)

/-- Translate the pages of an operand [o, o + n) in ascending order; the first that fails or waits ends it. -/
def trPages (p : Port) (u : Use) (far : Bool) (o n : Nat) : List (Nat × Nat) → M (Except Tr (List Seg))
  | [] => return .ok []
  | (va, k) :: r => do
    match ← translate p u far o n (va % 2 ^ 64) with
    | .ok pa pol =>
      match ← trPages p u far o n r with
      | .ok l => return .ok (⟨pa, pol, k⟩ :: l)
      | .error t => return .error t
    | t => return .error t

/-- The segments of an operand. -/
def trSegs (p : Port) (u : Use) (far : Bool) (va n : Nat) : M (Except Tr (List Seg)) :=
  trPages p u far va n (pageParts va n)

/-- The wait of an access to n bytes of a line for a far-bank port that is not up: the line's own, or that of a dirty sector
which must leave its canopy first (R272, R277). None when no port is needed. A crew thread's accesses to other lines pass the
canopy of its grove. -/
def State.portWait (s : State) (crew : Option Nat) (pol : Nat) (write : Bool) (a n : Nat) : Option Hold :=
  let g := if inFar a then some (farHome a) else if inNear a || inHost a then crew else none
  let absent := g.any fun g => (s.sector g a).isNone
  let victim := if absent && (if write then pol = 0 else pol ≠ 3) then g.bind fun g => s.allocWait g a else none
  match victim with
  | some v => (s.farLoc v).map fun e => .port e.1 v
  | none =>
    match s.farLoc a with
    | some (p, _) =>
      let inside := if write then pol = 0 && (!absent || n = 128) else !absent
      if s.portUp p || aread false s.dead (a / 128) || inside then none else some (.port p a)
    | none => none

/-- A heartwood address lies in a segment under test, so that its access waits (R443; log entry 49). -/
def State.segHeld (s : State) (pa n : Nat) : Bool :=
  s.bist.slice.isSome && heartBase ≤ pa && pa < heartOf 64 &&
    (linesOf pa n).any fun l =>
      let h := l - heartBase / 128
      s.testing 1 (h / 32768 * 128 + h % 32 * 4 + h % 32768 / 32 / 256)

/-- The first wait of the lines of segments: for a far-bank port, or for a heartwood segment under test (R272, R443). -/
def State.segWait (s : State) (write : Bool) (l : List Seg) : Option Hold :=
  l.findSome? fun g => (lineParts g.pa g.n).findSome? fun e =>
    if s.segHeld e.1 e.2 then some .issue else s.portWait none g.pol write e.1 e.2

/-- Check segments of memory against the access tables, in ascending order; a register's check belongs to its access. True
when all are granted. -/
def segsOk (r : Req) (k : Acc) : List Seg → M Bool
  | [] => return true
  | g :: rest => do
    if inRegs g.pa then segsOk r k rest
    else
      match ← checkAcc r k g.pa g.n with
      | some _ => return false
      | none => segsOk r k rest

/-- Read line parts with poison by byte. -/
def readParts (pol : Nat) : List (Nat × Nat) → M PBytes
  | [] => return []
  | (a, n) :: r => do
    let (b, p) ← busRead pol a n
    let rest ← readParts pol r
    return b.map (·, p) ++ rest

/-- Read granted segments; none when a register access is denied. -/
def readSegs (r : Req) : List Seg → M (Option PBytes)
  | [] => return some []
  | g :: rest => do
    if inRegs g.pa then
      match ← regBusRead r g.pa g.n with
      | .error _ => return none
      | .ok b =>
        match ← readSegs r rest with
        | some l => return some (b.map (·, false) ++ l)
        | none => return none
    else
      let b ← readParts g.pol (lineParts g.pa g.n)
      match ← readSegs r rest with
      | some l => return some (b ++ l)
      | none => return none

/-- Write line parts from a list of bytes; a line that receives a poisoned byte gets the poison check pattern (R289). -/
def writeParts (pol : Nat) : List (Nat × Nat) → PBytes → M Unit
  | [], _ => skip
  | (a, n) :: r, l => do
    let here := l.take n
    busWriteAll pol (here.any (·.2)) (here.map (·.1)) a [(a, n)]
    writeParts pol r (l.drop n)

/-- Write granted segments; false when a register access is denied. -/
def writeSegs (r : Req) : List Seg → PBytes → M Bool
  | [], _ => return true
  | g :: rest, l => do
    let here := l.take g.n
    if inRegs g.pa then
      match ← regBusWrite r g.pa g.n (BitVec.ofNat 64 (ofLE (here.map (·.1)))) with
      | .denied _ => return false
      | _ => writeSegs r rest (l.drop g.n)
    else
      writeParts g.pol (lineParts g.pa g.n) here
      writeSegs r rest (l.drop g.n)

/-- Bytes that lie in unfenced earlier writes read as free values (R288). -/
def blurBytes (wrote : List (Nat × Nat)) : List Seg → PBytes → M PBytes
  | [], _ => return []
  | g :: rest, l => do
    let here ← mapAll (List.range g.n) fun i => do
      let x := l.getD i (0, false)
      if wrote.any fun w => w.1 ≤ g.pa + i && g.pa + i < w.1 + w.2 then return ((← draw).setWidth 8, x.2) else return x
    let more ← blurBytes wrote rest (l.drop g.n)
    return here ++ more

end Sys2Proof.Machine
end

