-- ==== Sys2Proof/Machine/Operands.lean ====
section
/-! DEFINITION. Operand slots and specifier words, effective addresses with their pointer updates, and the checks of an
instruction's encoding (R87-R96, R194). -/

namespace Sys2Proof.Machine

/-- Exception vectors of faults (R406). -/
def vIllegal : Nat := 0
/-- ILLEGAL_OPERAND. -/
def vOperand : Nat := 1
/-- ALIGN. -/
def vAlign : Nat := 2
/-- ADDRESS. -/
def vAddress : Nat := 3
/-- PRIVILEGE. -/
def vPrivilege : Nat := 4
/-- CLAIM. -/
def vClaim : Nat := 6
/-- SHAPE. -/
def vShape : Nat := 7
/-- STREAM. -/
def vStream : Nat := 8
/-- EPOCH. -/
def vEpoch : Nat := 9

/-- A fault with INFO and INFO2 that is not resumable. -/
def flt (vec sub info info2 : Nat) : Stop := .exc vec sub (BitVec.ofNat 64 info) (BitVec.ofNat 64 info2) false

/-- A fault whose INFO is the base word (Table: Exception vectors). -/
def fltWord (w : IWord) (vec sub : Nat) : Stop := flt vec sub w.base.toNat 0

end Sys2Proof.Machine

namespace Sys2Proof

/-- SIZE (R87). -/
def IWord.size (w : IWord) : Nat := field w.base 16 2
/-- RM (R87). -/
def IWord.rm (w : IWord) : Nat := field w.base 13 3
/-- Mode of dst (R87). -/
def IWord.md (w : IWord) : Nat := field w.base 8 4
/-- Mode of src1 (R87). -/
def IWord.m1 (w : IWord) : Nat := field w.base 4 4
/-- Mode of src2 (R87). -/
def IWord.m2 (w : IWord) : Nat := field w.base 0 4

end Sys2Proof

namespace Sys2Proof.Machine

/-- What an operand slot accepts: its modes (none for a slot that the opcode does not use), and whether IMM where it is not
permitted is an illegal instruction (R195, R217) instead of an illegal operand (R98). -/
structure Slot where
  modes : List Nat
  strict : Bool
  deriving DecidableEq, Repr

/-- A slot that the opcode does not use (R88). -/
def noSlot : Slot := ⟨[], false⟩

/-- Modes 0x2 to 0xC: memory. -/
def memModes : List Nat := [2, 3, 4, 5, 6, 7, 8, 9, 10, 11, 12]

/-- A memory operand. -/
def memSlot : Slot := ⟨memModes, false⟩

/-- A memory operand or IMM. -/
def immSlot : Slot := ⟨1 :: memModes, false⟩

/-- Bits of a specifier that a mode requires to be 0 (R90, R194). -/
def specOk (mode : Nat) (w : W32) : Bool :=
  match mode with
  | 3 => field w 0 28 = 0
  | 8 => field w 28 4 = 0
  | 10 => field w 0 18 = 0
  | 13 => field w 5 27 = 0
  | 14 => field w 3 29 = 0
  | _ => true

/-- How a slot is encoded: fine, an illegal instruction, or an illegal operand. -/
inductive SlotRes where
  | fine | illegal | operand
  deriving DecidableEq, Repr

/-- Judge one slot (R88, R90, R93). -/
def Slot.judge (s : Slot) (mode : Nat) (w : W32) : SlotRes :=
  if s.modes.isEmpty then (if mode = 0 then .fine else .illegal)
  else if mode = 1 ∧ ¬ s.modes.contains 1 then (if s.strict then .illegal else .operand)
  else if ¬ s.modes.contains mode ∨ ¬ specOk mode w then .illegal
  else .fine

/-- The slots of an instruction. -/
structure Slots where
  d : Slot
  a : Slot
  b : Slot
  deriving DecidableEq, Repr

/-- One operand that may be an immediate. -/
def oneSlot : Slots := ⟨noSlot, immSlot, noSlot⟩

/-- Judge an instruction's slots: an illegal instruction counts before an illegal operand (R98; log entry 48). -/
def Slots.judge (s : Slots) (w : IWord) : SlotRes :=
  let l := [s.d.judge w.md w.sd, s.a.judge w.m1 w.s1, s.b.judge w.m2 w.s2]
  if l.contains .illegal then .illegal else if l.contains .operand then .operand else .fine

/-- Length of an instruction in bytes (R87). -/
def Slots.len (s : Slots) : Nat := 4 * (1 + ([s.d, s.a, s.b].filter fun x => !x.modes.isEmpty).length)

/-- Length of an instruction by the modes of its base word. -/
def wordLen (w : W32) : Nat := 4 * (1 + ([field w 8 4, field w 4 4, field w 0 4].filter fun m => m != 0).length)

/-- A computed operand: an immediate of 64 bits, an address (FAR bypasses the range cache), a claim offset, a vector or mask
register, or one element to be broadcast. -/
inductive Opnd where
  | none
  | imm (v : W64)
  | mem (va : Nat) (far : Bool)
  | claim (c off : Nat)
  | vreg (v : Nat)
  | mreg (m : Nat)
  | bcst (va : Nat)
  deriving DecidableEq, Repr

/-- The address n bytes below an address, modulo 2^64. -/
def below (a n : Nat) : Nat := wrap 64 ((a : Int) - (n : Int))

/-- The address n bytes above an address, modulo 2^64. -/
def above (a n : Nat) : Nat := (a + n) % 2 ^ 64

/-- Pointer registers as an instruction sees them, and the registers it updates. -/
structure Ptrs where
  p : List Nat
  upd : List Nat
  deriving DecidableEq, Repr

/-- A pointer register. -/
def Ptrs.get (p : Ptrs) (n : Nat) : Nat := p.p.getD n 0

/-- Update a pointer register. -/
def Ptrs.set (p : Ptrs) (n : Nat) (v : Int) : Ptrs := ⟨p.p.set n (wrap 64 v), n :: p.upd⟩

/-- An effective address, which must be canonical (R90). -/
def eaOf (i2 : Nat) (a : Int) (far : Bool) (p : Ptrs) : Except Stop (Opnd × Ptrs) :=
  let va := wrap 64 a
  if canonical va then .ok (.mem va far, p) else .error (flt vAddress 1 va i2)

/-- Compute an operand of size z from its mode and specifier word (R89-R96, R194); i2 is INFO2 of a fault. -/
def operand (w : IWord) (p : Ptrs) (mode : Nat) (x : W32) (z i2 : Nat) : Except Stop (Opnd × Ptrs) :=
  let n := field x 28 4
  let m := field x 24 4
  let pn : Int := p.get n
  let pm : Int := p.get m
  let d := sInt 28 (field x 0 28)
  let step : Int := if d = 0 then z else d
  match mode with
  | 0 => .ok (.none, p)
  | 1 => .ok (.imm (BitVec.ofInt 64 (sInt 32 x.toNat)), p)
  | 2 => eaOf i2 (sInt 32 x.toNat) false p
  | 3 => eaOf i2 pn false p
  | 4 => eaOf i2 (pn + d) false p
  | 5 => eaOf i2 (pn + pm * 2 ^ field x 21 3 + sInt 21 (field x 0 21)) false p
  | 6 => eaOf i2 pn false (p.set n (pn + step))
  | 7 => eaOf i2 (pn - step) false (p.set n (pn - step))
  | 8 => eaOf i2 ((p.get 14 : Int) + d) false p
  | 9 =>
    let l : Nat := field x 0 24 * 8
    if l = 0 then .error (fltWord w vOperand 0)
    else
      let off := (sInt 64 (wrap 64 (pn - pm))) % (l : Int)
      eaOf i2 (pm + off) false (p.set n (pm + (off + z) % (l : Int)))
  | 10 =>
    let k := field x 18 6
    if k = 0 ∨ 32 < k then .error (fltWord w vOperand 0)
    else
      let i := p.get n % 2 ^ k
      eaOf i2 (pm + (brev k i * z : Nat)) false (p.set n ((i + 1) % 2 ^ k : Nat))
  | 11 => .ok (.claim (field x 26 6) (field x 0 26), p)
  | 12 => eaOf i2 (pn + d) true p
  | 13 => .ok (.vreg (field x 0 5), p)
  | 14 => .ok (.mreg (field x 0 3), p)
  | _ =>
    match eaOf i2 (pn + d) false p with
    | .ok (.mem va _, q) => .ok (.bcst va, q)
    | r => r

/-- The operands of an instruction. -/
structure Opnds where
  d : Opnd
  a : Opnd
  b : Opnd
  p : Ptrs
  deriving DecidableEq, Repr

/-- Compute the operands in the order src1, src2, dst (R91). -/
def operands (w : IWord) (p : Ptrs) (zd za zb i2d i2a i2b : Nat) : Except Stop Opnds := do
  let (a, p) ← operand w p w.m1 w.s1 za i2a
  let (b, p) ← operand w p w.m2 w.s2 zb i2b
  let (d, p) ← operand w p w.md w.sd zd i2d
  return ⟨d, a, b, p⟩

end Sys2Proof.Machine
end

