-- ==== Sys2Proof/Machine/Crew.lean ====
section
/-! DEFINITION. The crew threads: their accesses to memory, exception entry and return, interrupts, pending conditions, and
what every instruction does around its own effect (R84-R98, R106-R111, R403-R425). -/

namespace Sys2Proof.Machine

/-- A register of thread k, by selector (R84). -/
def thr (k sel : Nat) : Reg := .thr (k / 4) (k % 4) sel

/-- FLAGS of thread k. -/
def State.flags (s : State) (k : Nat) : W64 := s.reg (thr k 0x10)

/-- The world of thread k (R403). -/
def State.thrWorld (s : State) (k : Nat) : Bool := bit (s.flags k) 34

/-- EXC_STATUS of thread k. -/
def excReg (k : Nat) : Reg := .excStatus (k / 4) (k % 4)

/-- Thread k is parked (R412). -/
def State.parked (s : State) (k : Nat) : Bool := s.flag (excReg k) 1

/-- PC of thread k. -/
def State.pc (s : State) (k : Nat) : Nat := (s.reg (thr k 0x1B)).toNat

/-- The pointer registers of thread k. -/
def State.ptrs (s : State) (k : Nat) : Ptrs := ⟨(List.range 16).map fun n => (s.reg (thr k n)).toNat, []⟩

/-- Commit pointer updates (R91). -/
def commitPtrs (k : Nat) (p : Ptrs) : M Unit := forAll p.upd fun n => wr (thr k n) (BitVec.ofNat 64 (p.get n))

/-- The port of thread k in a world and at a level (R293, R403). -/
def State.portOf (s : State) (k : Nat) (world user : Bool) : Port :=
  let e := s.reg (.epTag (k / 4) (k % 4))
  ⟨⟨BitVec.ofNat 10 k, world⟩, user, k / 32, some (k / 4), waiterOf k, some (field e 0 32, bit e 32)⟩

/-- The port of thread k as it runs. -/
def State.crewPort (s : State) (k : Nat) : Port := s.portOf k (s.thrWorld k) (!bit (s.flags k) 33)

/-- Where an operand lies: physical address, write policy, length. -/
structure Place where
  pa : Nat
  pol : Nat
  n : Nat
  deriving DecidableEq, Repr

/-- The kind of access that the tables see. -/
def Use.acc : Use → Acc
  | .write => .wr
  | .atomic => .atomic
  | _ => .rd

/-- The tables permit a physical access of a thread, or ADDRESS DENIED or NO_TARGET is raised with the physical address (R302). -/
def permit (p : Port) (u : Use) (pa n i2 : Nat) : M Unit := do
  let no (c : Nat) : Stop := flt vAddress (if c = 5 then 0x11 else 0x10) pa i2
  if inRegs pa then
    match ← regCheck p.req u.acc pa n with
    | .error c => throw (no c)
    | .ok _ => skip
  else
    match ← checkAcc p.req u.acc pa n with
    | some (c, _) => throw (no c)
    | none => skip

/-- Check a physical access of a thread, or let it wait. -/
def grant (p : Port) (u : Use) (pa pol n i2 : Nat) : M Place := do
  permit p u pa n i2
  if inRegs pa then return ⟨pa, pol, n⟩
  else
    let s ← get
    if s.segHeld pa n then throw (.hold .issue)
    match s.portWait (some p.grove) pol u.writes pa n with
    | some h => throw (.hold h)
    | none => return ⟨pa, pol, n⟩

/-- Translate one address of an operand [o, o + n) for a thread: the physical address and policy (R293-R302, R320-R326). -/
def transl (p : Port) (u : Use) (far : Bool) (o n va i2 : Nat) : M (Nat × Nat) := do
  match ← translate p u far o n va with
  | .ok pa pol => return (pa, pol)
  | .addr c => throw (flt vAddress c va i2)
  | .epoch c i => throw (flt vEpoch c va i)
  | .wait h => throw (.hold h)

/-- The length in bytes of an open claim (R124). -/
def claimLen (w : W64) : Nat :=
  let n := field w 18 10
  2 ^ field w 5 3 * (if n = 0 then 1024 else n) * 128

/-- The heartwood address of a claim offset (R125). -/
def claimAddr (t : Nat) (w : W64) (o : Nat) : Nat :=
  let g := field w 5 3
  let i := o / 128
  heartOf t + ((field w 8 10 + i / 2 ^ g) * 32 + field w 0 5 + i % 2 ^ g) * 128 + o % 128

/-- A claim that an operand of n bytes at an offset uses: its word, or the CLAIM fault (R127). -/
def useClaim (t c o n : Nat) : M W64 := do
  let w ← rd (.claim t c)
  if ¬ bit w 32 ∨ bit w 33 then throw (flt vClaim 1 c o)
  else if claimLen w < o + n then throw (flt vClaim 2 c o)
  else return w

/-- Where an operand of n bytes of thread k lies. A scalar operand crosses no line (R92). -/
def placeOf (k : Nat) (o : Opnd) (u : Use) (n : Nat) : M Place := do
  let p := (← get).crewPort k
  let i2 := b2n u.writes
  match o with
  | .mem va far =>
    if 128 < va % 128 + n then throw (flt vAlign 0 va i2)
    else
      let (pa, pol) ← transl p u far va n va i2
      grant p u pa pol n i2
  | .claim c off =>
    let w ← useClaim (k / 4) c off n
    let pa := claimAddr (k / 4) w off
    if 128 < off % 128 + n then throw (flt vAlign 0 pa i2)
    else grant p u pa 3 n i2
  | _ => throw (flt vIllegal 0 0 0)

/-- Read a granted place: a number, and whether it is poisoned. -/
def readPlace (k : Nat) (l : Place) : M (Nat × Bool) := do
  if inRegs l.pa then
    match ← regBusRead ((← get).crewPort k).req l.pa l.n with
    | .ok b => return (ofLE b, false)
    | .error _ => return (0, false)
  else
    let (b, p) ← crewRead (k / 32) l.pol l.pa l.n
    return (ofLE b, p)

/-- Write a number, poisoned or not, to a granted place. -/
def putPlace (k : Nat) (l : Place) (v : Nat) (p : Bool) : M Unit := do
  if inRegs l.pa then
    let _ ← regBusWrite ((← get).crewPort k).req l.pa l.n (BitVec.ofNat 64 v)
    skip
  else crewWrite (k / 32) l.pol l.pa (toLE v l.n) p

/-- Write a number to a granted place. -/
def writePlace (k : Nat) (l : Place) (v : Nat) : M Unit := putPlace k l v false

/-- A source operand: the low n bytes of an immediate (R93), or a granted place. -/
inductive Src where
  | val (v : Nat)
  | at (l : Place)
  deriving DecidableEq, Repr

/-- A source operand of n bytes, checked. -/
def srcOf (k : Nat) (o : Opnd) (n : Nat) : M Src := do
  match o with
  | .imm v => return .val (v.toNat % 2 ^ (8 * n))
  | _ => return .at (← placeOf k o .read n)

/-- Read a source with poison: its value and the poisoned address. -/
def readP (k : Nat) : Src → M (Nat × Option Nat)
  | .val v => return (v, none)
  | .at l => do
    let (v, p) ← readPlace k l
    return (v, if p then some l.pa else none)

/-- Read a source whose value enters the thread's state: poison is contained (R425). -/
def readSrc (k : Nat) (x : Src) : M Nat := do
  match ← readP k x with
  | (v, none) => return v
  | (_, some a) => throw (.contain a)

/-- Write a destination; a result computed from poison leaves poison in memory, and is contained on its way to a register
(R425). -/
def writeP (k : Nat) (l : Place) (v : Nat) : Option Nat → M Unit
  | none => writePlace k l v
  | some a => if inRegs l.pa then throw (.contain a) else putPlace k l v true

/-- How an instruction ends: at the next instruction or at another address, with registers written over the pointer updates
(R91), or having done it all itself. -/
inductive Ending where
  | next (sets : List (Nat × W64))
  | jump (pc : Nat) (sets : List (Nat × W64))
  | raw
  deriving DecidableEq, Repr

/-- An exception on its way: vector, sub-code, INFO, INFO2, RESUMABLE, IMPRECISE, saved PC, and the gate's entry address
(R406-R411). -/
structure Exn where
  vec : Nat
  sub : Nat
  info : W64
  info2 : W64
  res : Bool
  imp : Bool
  pc : Nat
  gate : Option Nat
  deriving DecidableEq, Repr

/-- Engine instructions that thread k issued are still under way, past their fault points (R115). -/
def State.engBusy (s : State) (k : Nat) : Bool := (s.tree (k / 4)).sb.any fun e => e.th = k && !e.early

/-- Deliver a product into MH and ML (R106). -/
def putProduct (k : Nat) (v : BitVec 128) : M Unit := do
  wr (thr k 0x11) ((v >>> 64).setWidth 64)
  wr (thr k 0x12) (v.setWidth 64)

/-- Deliver a quotient and a remainder (R107). -/
def putQuotient (k : Nat) (q r : W64) : M Unit := do
  wr (thr k 0x13) q
  wr (thr k 0x14) r

/-- Every pending product and quotient lands (R108). -/
def landAll (k : Nat) : M Unit := do
  let x := (← get).thread k
  forAll x.muls fun m => putProduct k m.2
  match x.div with
  | some (_, q, r) => putQuotient k q r
  | none => skip
  modify fun s => s.setThread k { s.thread k with muls := [], div := none }

/-- The oldest product lands (R106). -/
def landMul (k : Nat) : M Unit := do
  match ((← get).thread k).muls with
  | [] => skip
  | m :: r =>
    modify fun s => s.setThread k { s.thread k with muls := r }
    putProduct k m.2

/-- The quotient lands (R107). -/
def landDiv (k : Nat) : M Unit := do
  match ((← get).thread k).div with
  | none => skip
  | some (_, q, r) =>
    modify fun s => s.setThread k { s.thread k with div := none }
    putQuotient k q r

/-- One more instruction starts: products four instructions old and a quotient 26 old are there (R106, R107). -/
def ageDeliveries (k : Nat) : M Unit := do
  modify fun s =>
    let x := s.thread k
    s.setThread k { x with
      starts := x.starts + 1
      muls := x.muls.map fun m => (m.1 + 1, m.2)
      div := x.div.map fun d => (d.1 + 1, d.2) }
  let x := (← get).thread k
  forAll (x.muls.filter fun m => 4 ≤ m.1) fun _ => landMul k
  match x.div with
  | some (n, _, _) => whenM (26 ≤ n) (landDiv k)
  | none => skip

/-- Thread k is at an instruction boundary: outside a REPX sequence its pending quiescent fields take effect (R46). -/
def crewQuiet (k : Nat) : M Unit := quiesce (.tree ⟨k / 4 % 64, Nat.mod_lt _ (by decide)⟩) (k % 4)

/-- A new instruction of thread k starts: the boundary before it is passed, its read unit begins (R325), and one more instruction
counts. -/
def beginInstr (k : Nat) : M Unit := do
  crewQuiet k
  modify fun s => s.endUnit (waiterOf k)
  ageDeliveries k

/-- A sign-extended address of bits [56:0]. -/
def va57 (n : Nat) : Nat := wrap 64 (sInt 57 n)

/-- VBAR of thread k in a world. -/
def State.vbar (s : State) (k : Nat) (w : Bool) : Nat :=
  va57 (s.reg (if w then .vbarS (k / 4) (k % 4) else .vbarJ (k / 4) (k % 4))).toNat

/-- KSP of thread k in a world. -/
def State.ksp (s : State) (k : Nat) (w : Bool) : Nat :=
  va57 (s.reg (if w then .kspS (k / 4) (k % 4) else .kspJ (k / 4) (k % 4))).toNat

/-- DFSTACK of thread k in a world. -/
def State.dfstack (s : State) (k : Nat) (w : Bool) : Nat :=
  va57 (s.reg (if w then .dfstackS (k / 4) (k % 4) else .dfstackJ (k / 4) (k % 4))).toNat

/-- The 64 bytes of a frame (R409). -/
def frameBytes (pc : Nat) (flags : W64) (sp : Nat) (cause : Nat) (info info2 : W64) (rep : Nat) (tide : W64) : List Byte :=
  toLE pc 8 ++ toLE flags.toNat 8 ++ toLE sp 8 ++ toLE cause 8 ++ toLE info.toNat 8 ++ toLE info2.toNat 8 ++ toLE rep 4 ++
    toLE 0 4 ++ toLE tide.toNat 8

/-- Write a frame as a kernel-level write of a world (R408 steps 3 and 4): the fault that stopped it, or nothing. -/
def writeFrame (k : Nat) (w : Bool) (f : Nat) (bs : List Byte) : M (Option Stop) := do
  if f % 64 ≠ 0 ∨ ¬ canonical f then return some (flt vAlign 0 f 1)
  else
    let p := (← get).portOf k w false
    tryCatch (do
      let (pa, pol) ← transl p .write false f 64 f 1
      let l ← grant p .write pa pol 64 1
      crewWrite (k / 32) l.pol l.pa bs false
      return none) fun e => match e with
      | .hold h => throw (.hold h)
      | e => return some e

/-- The handler starts (R408 step 5), at an instruction boundary. -/
def landAt (k : Nat) (w : Bool) (f pc vec : Nat) (p : Ptrs) : M Unit := do
  commitPtrs k p
  wr (thr k 15) (BitVec.ofNat 64 f)
  wr (thr k 0x10) (BitVec.ofNat 64 (1 <<< 33 + b2n w <<< 34))
  wr (thr k 0x19) 0
  wr (thr k 0x1B) (BitVec.ofNat 64 pc)
  wrf (excReg k) 1 1 0
  wrf (excReg k) 8 8 vec
  modify fun s => ((s.setThread k { s.thread k with hold := .none, raised := none }).forget (waiterOf k)).unissue k
  crewQuiet k

/-- A third fault (R423): the record carries the three vectors in DETAIL2 (log entry 19), and that of a double fault in progress is its
primary one (R439). The thread is reset, within 50 µs (R430). -/
def thirdFault (k : Nat) (v0 v1 v2 : Nat) : M Unit := do
  let s ← get
  let pri := (s.handling (.thread k)).getD 0xFFFF_FFFF
  set (s.endDouble k)
  recovers (.thread k) 50 0x0F 2 (unitWord 3 k)
  bump (excReg k) 32 16
  raise [.incident 0x0F 2 2 (unitWord 3 k) 0 ((← get).reg (excReg k)) (BitVec.ofNat 64 (v0 + v1 <<< 8 + v2 <<< 16)) true pri]
  resetThread k

/-- The vector and sub-code of a fault. -/
def Stop.cause : Stop → Nat × Nat
  | .exc v c _ _ _ => (v, c)
  | _ => (vAddress, 0)

/-- The world of an exception's handler: the Service world for GATE, else that of the thread (R408, R411). -/
def State.excWorld (s : State) (k : Nat) (e : Exn) : Bool := e.gate.isSome || s.thrWorld k

/-- The address of an exception's frame: 64 bytes below KSP where the thread was at user level, was parked, or comes from the
Job world through a gate, and below SP else (R408). -/
def State.excFrame (s : State) (k : Nat) (e : Exn) (p : Ptrs) : Nat :=
  below (if s.parked k || !bit (s.flags k) 33 || (e.gate.isSome && !s.thrWorld k) then s.ksp k (s.excWorld k e)
    else p.get 15) 64

/-- The bytes of an exception's frame (R409). -/
def State.excBytes (s : State) (k : Nat) (e : Exn) (p : Ptrs) : List Byte :=
  frameBytes (if s.parked k then 0 else e.pc) (s.flags k) (p.get 15)
    (e.vec + e.sub <<< 8 + (b2n e.res <<< 16 + b2n e.imp <<< 17)) e.info e.info2 (s.fld (thr k 0x19) 0 32) (s.reg .tideNow)

/-- The frame of an exception could not be written for `x`: a double fault, whose frame goes on DFSTACK (R422), or a third fault
(R423); s is the state that the frame was made in. -/
def enterDouble (k : Nat) (e : Exn) (p : Ptrs) (s : State) (x : Stop) : M Unit := do
  let w := s.excWorld k e
  let f := s.excFrame k e p
  let (pv, ps) := x.cause
  let df := below (s.dfstack k w) 64
  let flagsRA := b2n e.res <<< 16 + b2n e.imp <<< 17
  let cause := 0x1E + ps <<< 8 + flagsRA + e.vec <<< 24 + e.sub <<< 32 + pv <<< 40
  match ← writeFrame k w df (frameBytes (if s.parked k then 0 else e.pc) (s.flags k) (p.get 15) cause e.info
      (BitVec.ofNat 64 f) (s.fld (thr k 0x19) 0 32) (s.reg .tideNow)) with
  | some y => thirdFault k e.vec pv y.cause.1
  | none =>
    landAt k w df (above (s.vbar k w) (64 * 0x1E)) 0x1E p
    modify fun s => s.setThread k { s.thread k with dfVecs := [e.vec, pv] }
    wrf (excReg k) 0 1 1
    bump (excReg k) 16 16
    modify fun s => s.handle (.thread k) 0x0F 1 (unitWord 3 k) none
    incident 0x0F 2 1 (unitWord 3 k) (BitVec.ofNat 64 f) ((← get).reg (excReg k))

/-- Enter an exception whose waits are over (R408 steps 3 to 5, R422, R423), with the pointer updates of its instruction. -/
def enterNow (k : Nat) (e : Exn) (p : Ptrs) : M Unit := do
  let s ← get
  if s.flag (excReg k) 0 then
    let v := (s.thread k).dfVecs
    thirdFault k (v.getD 0 0) (v.getD 1 0) e.vec
  else
    match ← writeFrame k (s.excWorld k e) (s.excFrame k e p) (s.excBytes k e p) with
    | none =>
      let h := e.gate.getD (above (s.vbar k (s.excWorld k e)) (64 * e.vec))
      landAt k (s.excWorld k e) (s.excFrame k e p) h e.vec p
    | some x => enterDouble k e p s x

/-- The pending ARITH of thread k (R415). -/
def State.arith (s : State) (k : Nat) : Exn :=
  let x := s.thread k
  ⟨0x0A, 0, x.arithPc, BitVec.ofNat 64 x.arithConds, false, x.starts != x.arithStart, s.pc k, none⟩

/-- The pending ARITH is entered. -/
def enterArith (k : Nat) : M Unit := do
  let s ← get
  enterNow k (s.arith k) (s.ptrs k)
  wrf (excReg k) 2 1 0

/-- An instruction of thread k that faulted, or whose exception an ARITH replaces, counts as not started: it issues again (R408
step 2, R415). -/
def uncount (k : Nat) : M Unit := modify fun s => s.setThread k { s.thread k with starts := (s.thread k).starts - 1 }

/-- Enter an exception (R408): while engine instructions of the thread are under way it waits; an ARITH that has become pending
since is entered in its place. `early` says that the pending ARITH is one of an earlier REPX iteration (R418). -/
def enter (k : Nat) (e : Exn) (p : Ptrs) (early : Bool) : M Unit := do
  let s ← get
  if s.engBusy k then throw (.hold .engines)
  else
    landAll k
    if s.flag (excReg k) 2 && !early then
      whenM (e.vec = 0x0B || e.gate.isSome) (uncount k)
      enterArith k
    else enterNow k e p

/-- The raised fault of thread k enters its exception with the saved PC of its instruction (R413, R414). -/
def enterRaised (k : Nat) : M Unit := do
  let s ← get
  match (s.thread k).raised with
  | none => skip
  | some e => enter k ⟨e.vec, e.sub, e.info, e.info2, e.res, false, s.pc k, none⟩ (s.ptrs k) e.early

/-- A state in which thread k has raised a fault. -/
def State.raise (s : State) (k vec sub : Nat) (info info2 : W64) (res : Bool) : State :=
  s.setThread k { s.thread k with raised := some ⟨vec, sub, info, info2, res, s.flag (excReg k) 2⟩ }

/-- A thread raises a fault, once, however long its entry waits. -/
def enterFault (k vec sub : Nat) (info info2 : W64) (res : Bool) : M Unit := do
  modify fun s => s.raise k vec sub info info2 res
  enterRaised k

/-- A source's bit may be taken: its lowest bit (R417). -/
def State.takable (s : State) (k : Nat) : Option Nat :=
  let fl := s.flags k
  let pend := (s.reg (.intPend (k / 4) (k % 4)) &&& s.reg (.intEn (k / 4) (k % 4))).toNat
  if ¬ bit fl 32 then none
  else if bit fl 34 then [8, 9, 10].find? pend.testBit
  else [0, 1].find? pend.testBit

/-- Take the lowest interrupt that can be taken (R417); it waits for the thread's engine instructions. -/
def takeIrq (k : Nat) : M Unit := do
  let s ← get
  match s.takable k with
  | none => skip
  | some b =>
    if s.engBusy k then throw (.hold .issue)
    else enter k ⟨0x10, b, s.reg (.intPend (k / 4) (k % 4)), 0, false, false, s.pc k, none⟩ (s.ptrs k) false

/-- Note a wait, and contain poison (R425); an exception while one is raised ends here. -/
def settleStop (k : Nat) (m : M Unit) : M Unit :=
  tryCatch m fun e => match e with
    | .hold h => modify fun s => s.setThread k { s.thread k with hold := h }
    | .contain a => contain (k / 4) a
    | .exc _ _ _ _ _ => skip

/-- A raised fault goes on with its entry once the thread's engine instructions have completed (R408 steps 1 and 2). -/
def entryGoesOn (k : Nat) : M Unit := do
  let s ← get
  whenM ((s.thread k).raised.isSome && !s.engBusy k) (settleStop k (enterRaised k))

/-- Report arithmetic conditions of an instruction (R415); a parked thread takes none. -/
def report (k conds : Nat) (pc : W64) (startNo : Nat) : M Unit := do
  let s ← get
  if ¬ s.parked k ∧ conds ≠ 0 then
    let f := s.flags k
    wr (thr k 0x10) (f ||| BitVec.ofNat 64 ((conds % 128) <<< 8))
    let trapped := conds % 128 &&& field f 16 7
    if trapped ≠ 0 then
      let first := !s.flag (excReg k) 2
      modify fun s =>
        let x := s.thread k
        s.setThread k (if first then { x with arithPc := pc, arithStart := startNo, arithConds := trapped }
          else { x with arithConds := x.arithConds ||| trapped })
      wrf (excReg k) 2 1 1

/-- The instruction of a thread's wait has started already, so that no boundary comes before it. -/
def Hold.started : Hold → Bool
  | .engines => true
  | .port _ _ => true
  | _ => false

/-- Thread k is at a boundary at which exceptions are recognised: no REPX sequence is under way, and it does not wait inside an
instruction that has started (R418). -/
def State.atBoundary (s : State) (k : Nat) : Bool :=
  !(s.thread k).hold.started && !(bit (s.flags k) 29 && bit (s.flags k) 30)

/-- The pending ARITH is taken at a boundary, once the thread's engine instructions have completed (R408, R415). -/
def takeArith (k : Nat) : M Unit := do
  let s ← get
  if ¬ s.flag (excReg k) 2 then skip
  else if s.engBusy k then throw (.hold .issue)
  else
    landAll k
    enterArith k

/-- What an exception boundary of thread k takes before a fault or the next instruction: a pending ARITH, else an interrupt that
can be taken; answers whether there is one (R419). -/
def State.boundary (s : State) (k : Nat) : Option (M Unit) :=
  if ¬ s.atBoundary k then none
  else if s.flag (excReg k) 2 ∧ ¬ s.parked k then some (takeArith k)
  else if (s.takable k).isSome then some (takeIrq k)
  else none

/-- Conditions of a scalar instruction of thread k. -/
def reportHere (k conds : Nat) : M Unit := do
  let s ← get
  report k conds (s.reg (thr k 0x1B)) (s.thread k).starts

/-- A thread starts no instruction now: its quiescent fields are asked for and HOLD keeps them from being applied (R47, R48), or
an engine instruction with PRECISE is under way (R416). -/
def State.stalled (s : State) (k : Nat) : Bool :=
  let b := Blk.tree ⟨k / 4 % 64, Nat.mod_lt _ (by decide)⟩
  (s.flag (.cfgCtrl b) 2 && s.flag (.cfgCtrl b) 0 && s.flag (.cfgPending b) (k % 4) && !bit (s.flags k) 30)
    || (s.tree (k / 4)).sb.any fun e => e.th = k && e.precise

/-- An instruction of thread k has completed: the repeat that it belongs to counts (R109), and the PC moves on. -/
def finish (k len : Nat) (rep : Bool) : Ending → M Unit
  | .raw => skip
  | .next sets => do
    let s ← get
    let pc := s.pc k
    forAll sets fun e => wr (thr k e.1) e.2
    let go : M Unit := wr (thr k 0x1B) (BitVec.ofNat 64 (pc + len))
    if rep then
      let n := s.fld (thr k 0x19) 0 32
      if n ≤ 1 then
        wr (thr k 0x19) 0
        modify fun s => s.setReg (thr k 0x10) (setField (s.flags k) 29 2 0)
        go
      else wr (thr k 0x19) (BitVec.ofNat 64 (n - 1))
    else go
    modify fun s => s.setThread k { s.thread k with hold := .none }
  | .jump pc sets => do
    forAll sets fun e => wr (thr k e.1) e.2
    wr (thr k 0x1B) (BitVec.ofNat 64 pc)
    modify fun s => s.setThread k { s.thread k with hold := .none }

/-- A thread starts an instruction of a length. A parked thread starts none. At the boundary before it a pending ARITH or an
interrupt is taken instead (R418, R419), and a fault already raised goes on with its entry. The body's fault enters its exception, its wait leaves it to be issued again (an
instruction that waits at issue has not started), and poison in it is contained. -/
def starts (t : Tid) (len : Nat) (body : Nat → M Ending) : M Unit := do
  let k := t.k
  let s ← get
  if s.parked k then skip
  else
    settleStop k do
      let h := (s.thread k).hold
      if (s.thread k).raised.isSome then enterRaised k
      else if s.stalled k then throw (.hold .issue)
      else if let some m := s.boundary k then m
      else
        whenM (h = .none || h = .issue) (beginInstr k)
        tryCatch (do
          let r ← body k
          finish k len (bit (s.flags k) 29) r) fun e => match e with
          | .exc v c i i2 r => do
            uncount k
            enterFault k v c i i2 r
          | .hold .issue => do
            set s
            throw (.hold .issue)
          | e => throw e

/-- The checks of an instruction's encoding (R88, R98, R111): an illegal instruction, then an illegal operand. -/
def encoded (k : Nat) (w : IWord) (sl : Slots) (legal rep : Bool) : M Unit := do
  let ra := bit ((← get).flags k) 29
  let j := sl.judge w
  if ¬ legal ∨ j = .illegal ∨ (ra ∧ ¬ rep) then throw (fltWord w vIllegal 0)
  else if j = .operand then throw (fltWord w vOperand 0)
  else skip

/-- Operands or their fault. -/
def compute (k : Nat) (w : IWord) (zd za zb i2d i2a : Nat) : M Opnds := do
  match operands w ((← get).ptrs k) zd za zb i2d i2a 0 with
  | .ok o => return o
  | .error e => throw e

end Sys2Proof.Machine
end

