-- ==== Sys2Proof/Machine/Num.lean ====
section
/-! DEFINITION. Floating-point values as exact numbers, their formats, rounding with its conditions, stochastic rounding,
and exact arithmetic (R54, R55, R70-R82). -/

namespace Sys2Proof.Machine

/-- Floating-point element formats (R54). -/
inductive Fmt where
  | fp64 | fp32 | bf16 | fp16 | e4m3 | e5m2 | e2m1
  deriving DecidableEq, Repr

/-- Exponent bits. -/
def Fmt.eb : Fmt → Nat
  | .fp64 => 11
  | .fp32 => 8
  | .bf16 => 8
  | .fp16 => 5
  | .e4m3 => 4
  | .e5m2 => 5
  | .e2m1 => 2

/-- Significand bits m. -/
def Fmt.mb : Fmt → Nat
  | .fp64 => 52
  | .fp32 => 23
  | .bf16 => 7
  | .fp16 => 10
  | .e4m3 => 3
  | .e5m2 => 2
  | .e2m1 => 1

/-- Exponent bias. -/
def Fmt.bias : Fmt → Nat
  | .fp64 => 1023
  | .fp32 => 127
  | .bf16 => 127
  | .fp16 => 15
  | .e4m3 => 7
  | .e5m2 => 15
  | .e2m1 => 1

/-- Element width in bits. -/
def Fmt.width (f : Fmt) : Nat := 1 + f.eb + f.mb

/-- The canonical quiet NaN (R79); 0 for the format without one. -/
def Fmt.qnan : Fmt → Nat
  | .fp64 => 0x7FF8_0000_0000_0000
  | .fp32 => 0x7FC0_0000
  | .bf16 => 0x7FC0
  | .fp16 => 0x7E00
  | .e4m3 => 0x7F
  | .e5m2 => 0x7E
  | .e2m1 => 0

/-- The largest finite magnitude's code (R54). -/
def Fmt.maxCode : Fmt → Nat
  | .fp64 => 0x7FEF_FFFF_FFFF_FFFF
  | .fp32 => 0x7F7F_FFFF
  | .bf16 => 0x7F7F
  | .fp16 => 0x7BFF
  | .e4m3 => 0x7E
  | .e5m2 => 0x7B
  | .e2m1 => 0x7

/-- Whether a format has infinities (R54). -/
def Fmt.hasInf : Fmt → Bool
  | .e4m3 => false
  | .e2m1 => false
  | _ => true

/-- The code of +infinity. -/
def Fmt.infCode (f : Fmt) : Nat := (2 ^ f.eb - 1) * 2 ^ f.mb

/-- A value: a NaN (true for a signalling one), an infinity, or (-1)^neg * num / den; a zero keeps its sign. -/
inductive Val where
  | nan (sig : Bool)
  | inf (neg : Bool)
  | fin (neg : Bool) (num den : Nat)
  deriving DecidableEq, Repr

/-- n * 2^e as a quotient. -/
def scale2 (n : Nat) (e : Int) : Nat × Nat :=
  match e with
  | .ofNat k => (n * 2 ^ k, 1)
  | .negSucc k => (n, 2 ^ (k + 1))

/-- The value (-1)^neg * n * 2^e. -/
def Val.dyadic (neg : Bool) (n : Nat) (e : Int) : Val := .fin neg (scale2 n e).1 (scale2 n e).2

/-- The value of an element code (R54, R79). -/
def Fmt.decode (f : Fmt) (c : Nat) : Val :=
  let m := f.mb
  let neg := (c >>> (f.eb + m)) % 2 = 1
  let e := (c >>> m) % 2 ^ f.eb
  let s := c % 2 ^ m
  if f.hasInf ∧ e = 2 ^ f.eb - 1 then
    if s = 0 then .inf neg else .nan (f ≠ .e5m2 ∧ s < 2 ^ (m - 1))
  else if f = .e4m3 ∧ e = 15 ∧ s = 7 then .nan false
  else if e = 0 then .dyadic neg s ((1 : Int) - f.bias - m)
  else .dyadic neg (2 ^ m + s) ((e : Int) - f.bias - m)

/-- Conditions as bits in the order of FLAGS.STICKY (R81). -/
def cIV : Nat := 1
/-- Division by zero. -/
def cDZ : Nat := 2
/-- Overflow. -/
def cOF : Nat := 4
/-- Underflow. -/
def cUF : Nat := 8
/-- Inexact. -/
def cNX : Nat := 16
/-- Saturation. -/
def cSAT : Nat := 32
/-- Malformed. -/
def cFMT : Nat := 64

/-- How an operation rounds: the mode of R72, k and OVF8 of NUMCFG. -/
structure Rnd where
  rm : Nat
  k : Nat
  ovf8 : Bool
  deriving DecidableEq, Repr

/-- Round to nearest even, with no options used. -/
def rne : Rnd := ⟨0, 16, false⟩

/-- Whether a magnitude of lo + rem / d units rounds up, with random value r (R72, R74). -/
def roundsUp (rm k : Nat) (neg : Bool) (lo rem d r : Nat) : Bool :=
  if rem = 0 then false
  else
    match rm with
    | 1 => false
    | 2 => !neg
    | 3 => neg
    | 4 => decide (r < rem * 2 ^ k / d)
    | _ => decide (d < 2 * rem) || (decide (d = 2 * rem) && decide (lo % 2 = 1))

/-- floor(log2 (n / d)) of a positive quotient. -/
def ilog2 (n d : Nat) : Int :=
  let g : Int := (Nat.log2 n : Int) - Nat.log2 d
  let (a, b) := scale2 d g
  if a ≤ n * b then g else g - 1

/-- A positive quotient in units of 2^q, rounded: the units, and whether that is exact. -/
def roundUnits (rm k : Nat) (neg : Bool) (n d : Nat) (q : Int) (r : Nat) : Nat × Bool :=
  let (a, b) := scale2 n (-q)
  let lo := a / (b * d)
  let rem := a % (b * d)
  (lo + b2n (roundsUp rm k neg lo rem (b * d) r), rem = 0)

/-- Round a positive quotient into a format: code without sign, and conditions (R55, R71, R74). -/
def Fmt.roundMag (f : Fmt) (p : Rnd) (neg : Bool) (n d r : Nat) : Nat × Nat :=
  let m : Int := f.mb
  let emin : Int := (1 : Int) - f.bias
  let e := ilog2 n d
  let (mn, md) := match f.decode f.maxCode with
    | .fin _ a b => (a, b)
    | _ => (0, 1)
  let rm := if p.rm = 4 ∧ mn * d < n * md then 0 else p.rm
  let q := max e emin - m
  let (u, exact) := roundUnits rm p.k neg n d q r
  let (v, _) := roundUnits rm p.k neg n d (e - m) r
  let tiny := decide (e < emin) && !(decide (e = emin - 1) && decide (v = 2 ^ (f.mb + 1)))
  let nx := if exact then 0 else cNX
  let (a, b) := scale2 u q
  if mn * b < a * md then
    let inf := match rm with
      | 1 => false
      | 2 => !neg
      | 3 => neg
      | _ => true
    match f with
    | .e2m1 => (f.maxCode, cOF ||| cNX ||| cSAT)
    | .e4m3 => if p.ovf8 then (f.qnan, cOF ||| cNX) else (f.maxCode, cOF ||| cNX ||| cSAT)
    | .e5m2 =>
      if p.ovf8 then (if inf then f.infCode else f.maxCode, cOF ||| cNX) else (f.maxCode, cOF ||| cNX ||| cSAT)
    | _ => (if inf then f.infCode else f.maxCode, cOF ||| cNX)
  else
    let code :=
      if u < 2 ^ f.mb then u
      else
        let (w, x) := if u = 2 ^ (f.mb + 1) then (2 ^ f.mb, q + 1) else (u, q)
        (x + m + f.bias).toNat * 2 ^ f.mb + (w - 2 ^ f.mb)
    (code, nx ||| (if tiny ∧ ¬ exact then cUF else 0))

/-- The sign bit of a format over a magnitude code. -/
def Fmt.signed (f : Fmt) (neg : Bool) (c : Nat) : Nat := if neg then c + 2 ^ (f.eb + f.mb) else c

/-- A value into a format with random value r: code and conditions (R70, R71, R79). -/
def Fmt.encode (f : Fmt) (p : Rnd) (r : Nat) : Val → Nat × Nat
  | .nan sig => (f.qnan, if sig ∨ f = .e2m1 then cIV else 0)
  | .inf neg =>
    match f with
    | .e2m1 => (f.signed neg f.maxCode, cSAT)
    | .e4m3 => if p.ovf8 then (f.qnan, cIV) else (f.signed neg f.maxCode, cSAT)
    | _ => (f.signed neg f.infCode, 0)
  | .fin neg n d =>
    if n = 0 then (f.signed neg 0, 0)
    else
      let (c, x) := f.roundMag p neg n d r
      (if f = .e4m3 ∧ c = f.qnan then c else f.signed neg c, x)

/-- The rounding of a magnitude a / b toward a target whose largest magnitude is lim: beyond it SR rounds as RNE does (R74). -/
def Rnd.within (p : Rnd) (lim a b : Nat) : Rnd := if p.rm = 4 ∧ lim * b < a then { p with rm := 0 } else p

/-- A value into an integer of n bits, signed: code and conditions (R70, R71). -/
def intOf (n : Nat) (p : Rnd) (r : Nat) : Val → Nat × Nat
  | .nan _ => (0, cIV)
  | .inf neg => (if neg then 2 ^ (n - 1) else 2 ^ (n - 1) - 1, cSAT)
  | .fin neg a b =>
    let lim := if neg then 2 ^ (n - 1) else 2 ^ (n - 1) - 1
    let (u, exact) := roundUnits (p.within lim a b).rm p.k neg a b 0 r
    if neg then
      if 2 ^ (n - 1) < u then (2 ^ (n - 1), cSAT ||| cNX) else (wrap n (-u), if exact then 0 else cNX)
    else if 2 ^ (n - 1) ≤ u then (2 ^ (n - 1) - 1, cSAT ||| cNX)
    else (u, if exact then 0 else cNX)

/-- A value into an unsigned integer of n bits, saturated (R104, R203). -/
def uintOf (n : Nat) (p : Rnd) (r : Nat) : Val → Nat × Nat
  | .nan _ => (0, cIV)
  | .inf neg => (if neg then 0 else 2 ^ n - 1, cSAT)
  | .fin neg a b =>
    let lim := if neg then 0 else 2 ^ n - 1
    let (u, exact) := roundUnits (p.within lim a b).rm p.k neg a b 0 r
    if neg ∧ u ≠ 0 then (0, cSAT ||| cNX)
    else if 2 ^ n ≤ u then (2 ^ n - 1, cSAT ||| cNX)
    else (u, if exact then 0 else cNX)

/-- An integer as a value. -/
def Val.ofInt (i : Int) : Val := .fin (i < 0) i.natAbs 1

/-- Negation. -/
def Val.neg : Val → Val
  | .nan s => .nan s
  | .inf n => .inf !n
  | .fin n a b => .fin (!n) a b

/-- Magnitude. -/
def Val.abs : Val → Val
  | .nan s => .nan s
  | .inf _ => .inf false
  | .fin _ a b => .fin false a b

/-- A value is a zero. -/
def Val.isZero : Val → Bool
  | .fin _ 0 _ => true
  | _ => false

/-- A value is a NaN. -/
def Val.isNan : Val → Bool
  | .nan _ => true
  | _ => false

/-- A value is a signalling NaN. -/
def Val.isSig : Val → Bool
  | .nan s => s
  | _ => false

/-- A value is a NaN or an infinity. -/
def Val.nonfin : Val → Bool
  | .fin _ _ _ => false
  | _ => true

/-- The sign bit of a value. -/
def Val.sign : Val → Bool
  | .nan _ => false
  | .inf n => n
  | .fin n _ _ => n

/-- The condition of signalling operands. -/
def sigs (l : List Val) : Nat := if l.any Val.isSig then cIV else 0

/-- A magnitude with a sign as an integer. -/
def toInt (neg : Bool) (n : Nat) : Int := if neg then -(n : Int) else n

/-- The exact sum of two finite values; an exact zero is negative only when both are, or when rounding is downward. -/
def finAdd (rdn : Bool) (n₁ : Bool) (a₁ b₁ : Nat) (n₂ : Bool) (a₂ b₂ : Nat) : Val :=
  let x := toInt n₁ (a₁ * b₂) + toInt n₂ (a₂ * b₁)
  if x = 0 then .fin (if a₁ = 0 ∧ a₂ = 0 ∧ n₁ = n₂ then n₁ else rdn) 0 1
  else .fin (x < 0) x.natAbs (b₁ * b₂)

/-- The exact sum of two values, and conditions; `rdn` for rounding toward minus infinity. -/
def Val.add (rdn : Bool) (x y : Val) : Val × Nat :=
  match x, y with
  | .nan _, _ => (.nan false, sigs [x, y])
  | _, .nan _ => (.nan false, sigs [x, y])
  | .inf a, .inf b => if a = b then (.inf a, 0) else (.nan false, cIV)
  | .inf a, _ => (.inf a, 0)
  | _, .inf b => (.inf b, 0)
  | .fin n₁ a₁ b₁, .fin n₂ a₂ b₂ => (finAdd rdn n₁ a₁ b₁ n₂ a₂ b₂, 0)

/-- The exact product of two values, and conditions. -/
def Val.mul (x y : Val) : Val × Nat :=
  match x, y with
  | .nan _, _ => (.nan false, sigs [x, y])
  | _, .nan _ => (.nan false, sigs [x, y])
  | .inf a, z => if z.isZero then (.nan false, cIV) else (.inf (a != z.sign), 0)
  | z, .inf b => if z.isZero then (.nan false, cIV) else (.inf (z.sign != b), 0)
  | .fin n₁ a₁ b₁, .fin n₂ a₂ b₂ => (.fin (n₁ != n₂) (a₁ * a₂) (b₁ * b₂), 0)

/-- The exact x * y + z, and conditions. -/
def Val.fma (rdn : Bool) (x y z : Val) : Val × Nat :=
  let (p, c) := x.mul y
  let (s, d) := p.add rdn z
  (s, c ||| d ||| sigs [x, y, z])

/-- The exact quotient of two values, and conditions. -/
def Val.div (x y : Val) : Val × Nat :=
  match x, y with
  | .nan _, _ => (.nan false, sigs [x, y])
  | _, .nan _ => (.nan false, sigs [x, y])
  | .inf a, z => match z with
    | .inf _ => (.nan false, cIV)
    | _ => (.inf (a != z.sign), 0)
  | z, .inf b => (.fin (z.sign != b) 0 1, 0)
  | .fin n₁ a₁ b₁, .fin n₂ a₂ b₂ =>
    if a₂ = 0 then if a₁ = 0 then (.nan false, cIV) else (.inf (n₁ != n₂), cDZ)
    else (.fin (n₁ != n₂) (a₁ * b₂) (b₁ * a₂), 0)

/-- The integer square root of y above s, by bits below 2^k. -/
def isqrtGo (y : Nat) : Nat → Nat → Nat
  | 0, s => s
  | k + 1, s => isqrtGo y k (if (s + 2 ^ k) * (s + 2 ^ k) ≤ y then s + 2 ^ k else s)

/-- The integer square root, rounded down. -/
def isqrt (y : Nat) : Nat := isqrtGo y (Nat.log2 y / 2 + 1) 0

/-- The square root of a value: exact, or the middle of an interval of relative width below 2^-180 that holds it and no
number of any format's precision, so that it rounds as the root does. -/
def Val.sqrt (x : Val) : Val × Nat :=
  match x with
  | .nan _ => (.nan false, sigs [x])
  | .inf true => (.nan false, cIV)
  | .inf false => (.inf false, 0)
  | .fin n 0 _ => (.fin n 0 1, 0)
  | .fin true _ _ => (.nan false, cIV)
  | .fin false a b =>
    let k := 2 * (Nat.log2 b + 200)
    let y := a * b * 2 ^ k
    let s := isqrt y
    if s * s = y then (.fin false s (b * 2 ^ (k / 2)), 0) else (.fin false (2 * s + 1) (2 * b * 2 ^ (k / 2)), 0)

/-- Order of two values that are not NaN: x < y; zeros of either sign are equal. -/
def Val.lt (x y : Val) : Bool :=
  match x, y with
  | .nan _, _ => false
  | _, .nan _ => false
  | .inf a, .inf b => a && !b
  | .inf a, _ => a
  | _, .inf b => !b
  | .fin n₁ a₁ b₁, .fin n₂ a₂ b₂ =>
    decide (toInt n₁ (a₁ * b₂) < toInt n₂ (a₂ * b₁))

/-- Equality of two values that are not NaN. -/
def Val.eqv (x y : Val) : Bool := !x.isNan && !y.isNan && !x.lt y && !y.lt x

/-- Maximum under R80, and conditions. -/
def Val.max (x y : Val) : Val × Nat :=
  let c := sigs [x, y]
  if x.isNan then (if y.isNan then .nan false else y, c)
  else if y.isNan then (x, c)
  else if x.isZero ∧ y.isZero then (.fin (x.sign && y.sign) 0 1, c)
  else (if x.lt y then y else x, c)

/-- Minimum under R80, and conditions. -/
def Val.min (x y : Val) : Val × Nat :=
  let c := sigs [x, y]
  if x.isNan then (if y.isNan then .nan false else y, c)
  else if y.isNan then (x, c)
  else if x.isZero ∧ y.isZero then (.fin (x.sign || y.sign) 0 1, c)
  else (if y.lt x then y else x, c)

/-- Round a value with conditions already found. -/
def Fmt.fin (f : Fmt) (p : Rnd) (r : Nat) (v : Val × Nat) : Nat × Nat :=
  let (c, x) := f.encode p r v.1
  (c, x ||| v.2)

/-- Rounding toward minus infinity is in force. -/
def Rnd.rdn (p : Rnd) : Bool := p.rm = 3

/-- mix64 of R76. -/
def mix64 (z : W64) : W64 :=
  let z := (z ^^^ (z >>> 30)) * 0xBF58_476D_1CE4_E5B9
  let z := (z ^^^ (z >>> 27)) * 0x94D0_49BB_1331_11EB
  z ^^^ (z >>> 31)

/-- sr_seed of R76. -/
def srSeed (seed : W64) (slot ltree unit lane : Nat) (stream : W64) : W64 :=
  let ctx : W64 := BitVec.ofNat 64 ((slot % 2 ^ 16) <<< 48 + (ltree % 64) <<< 40 + (unit % 16) <<< 32 + lane % 2 ^ 16)
  let s := mix64 (mix64 (seed ^^^ ctx) ^^^ stream)
  if s = 0 then 0x9E37_79B9_7F4A_7C15 else s

/-- One step of a lane's generator (R75). -/
def srStep (x : W64) : W64 :=
  let x := x ^^^ (x >>> 12)
  let x := x ^^^ (x <<< 25)
  x ^^^ (x >>> 27)

/-- A generator after n steps. -/
def srSteps : Nat → W64 → W64
  | 0, x => x
  | n + 1, x => srSteps n (srStep x)

/-- The random value of k bits at position n of a lane's draw order (R75, R77). -/
def srDraw (k n : Nat) (seed : W64) : Nat :=
  ((srSteps (n + 1) seed * 0x2545_F491_4F6C_DD1D) >>> (64 - k)).toNat

/-- What an operation that may round stochastically draws from: job seed, slot, logical tree, unit code and stream value
(R76). -/
structure SrCtx where
  seed : W64
  slot : Nat
  ltree : Nat
  unit : Nat
  stream : W64
  deriving DecidableEq, Repr

/-- The random value of a lane's position; 0 when the mode is not SR. -/
def SrCtx.draw (c : SrCtx) (p : Rnd) (lane n : Nat) : Nat :=
  if p.rm = 4 then srDraw p.k n (srSeed c.seed c.slot c.ltree c.unit lane c.stream) else 0

end Sys2Proof.Machine
end

