-- ==== Sys2Proof/Machine/Formats.lean ====
section
/-! DEFINITION. The stored formats: block scaling, quantisation, Q4, Q4X, T5 and integers, rows of elements with their side
arrays, and telemetry (R53-R66, R70, R71, R83, R220). -/

namespace Sys2Proof.Machine

/-- The floating-point element format of a format code (R53); Q4, Q4X and T5 decode as E2M1. -/
def fmtOf : Nat → Fmt
  | 0 => .fp64
  | 1 => .fp32
  | 2 => .bf16
  | 3 => .fp16
  | 4 => .e4m3
  | 5 => .e5m2
  | 6 => .e4m3
  | 7 => .e5m2
  | _ => .e2m1

/-- Element bits of a format code (R53); T5 is packed otherwise. -/
def codeBits : Nat → Nat
  | 0x8 => 8
  | 0xB => 4
  | 0xD => 32
  | c => (fmtOf c).width

/-- A format code with an E8M0 scale per 32 elements. -/
def isMx (c : Nat) : Bool := c = 6 || c = 7 || c = 9 || c = 0xA

/-- A format code of integers. -/
def isInt (c : Nat) : Bool := c = 8 || c = 0xB || c = 0xD

/-- Telemetry of some elements (R83). -/
structure Tel where
  sat : Nat
  esc : Nat
  nonfin : Nat
  amax : Nat
  deriving DecidableEq, Repr

/-- No elements. -/
def Tel.none : Tel := ⟨0, 0, 0, 0⟩

/-- The telemetry of two groups of elements. -/
def Tel.plus (a b : Tel) : Tel := ⟨a.sat + b.sat, a.esc + b.esc, a.nonfin + b.nonfin, max a.amax b.amax⟩

/-- The telemetry of one element: its magnitude as FP32 rounded up, NaN and infinities, and whether it saturated or was
escaped (R83). -/
def Tel.elem (v : Val) (conds : Nat) (esc : Bool) : Tel :=
  let amax := match v with
    | .nan _ => 0
    | .inf _ => 0x7F80_0000
    | v => (Fmt.fp32.encode ⟨2, 16, false⟩ 0 v.abs).1
  ⟨b2n (conds.testBit 5), b2n esc, b2n v.nonfin, amax⟩

/-- Record telemetry under a tag (R83). -/
def tally (tag : Nat) (t : Tel) : M Unit := modify fun (s : State) =>
  if tag = 0 ∨ t = Tel.none then s
  else
    let cap (v : Nat) := min v (2 ^ 32 - 1)
    let a := Reg.telemSat tag
    let b := Reg.telemAmax tag
    let s := s.setReg a (BitVec.ofNat 64 (cap (s.fld a 0 32 + t.sat) + cap (s.fld a 32 32 + t.esc) <<< 32))
    s.setReg b (BitVec.ofNat 64 (max (s.fld b 0 32) t.amax + cap (s.fld b 32 32 + t.nonfin) <<< 32))

/-- A value times 2^(x - 127), or a quiet NaN for the scale byte 0xFF (R56). -/
def mxValue (x : Nat) (v : Val) : Val :=
  if x = 0xFF then .nan false
  else
    match v with
    | .fin n a b =>
      let (c, d) := scale2 a ((x : Int) - 127)
      .fin n c (b * d)
    | v => v

/-- A product whose NaN is quiet and raises nothing (R56). -/
def quietMul (a b : Val) : Val := (a.mul b).1

/-- Element j of packed 4-bit codes (R60). -/
def nibble (bs : List Byte) (j : Nat) : Nat := ((bs.getD (j / 2) 0).toNat / (if j % 2 = 0 then 1 else 16)) % 16

/-- Trit j of a 64-element T5 block from a byte offset, with FMT for a bad byte (R63, R64). -/
def t5Trit (bs : List Byte) (off j : Nat) : Int × Nat :=
  let c := (bs.getD (off + j / 5) 0).toNat
  if 242 < c then (0, cFMT) else (((c / 3 ^ (j % 5)) % 3 : Nat) - 1, 0)

/-- FMT of a T5 block: a byte above 242, or a padding trit that is not 0 (R64). -/
def t5Bad (bs : List Byte) (off : Nat) : Nat :=
  if ((List.range 13).any fun i => 242 < (bs.getD (off + i) 0).toNat) || (t5Trit bs off 64).1 ≠ 0 then cFMT else 0

/-- A Q4X escape record at an offset: entries in use, or none and FMT when it is malformed (R62). -/
def q4xRecord (side : List Byte) (off : Nat) : List (Nat × Nat) × Nat :=
  let r := leAt side off 6
  let n := (r >>> 10) % 4
  let i := r % 32
  let j := (r >>> 5) % 32
  if n = 3 ∨ (n = 2 ∧ i = j) ∨ (r >>> 12) % 16 ≠ 0 then ([], cFMT)
  else ((if 1 ≤ n then [(i, (r >>> 16) % 2 ^ 16)] else []) ++ (if n = 2 then [(j, (r >>> 32) % 2 ^ 16)] else []), 0)

/-- v rounded up to a multiple of 8. -/
def up8 (v : Nat) : Nat := (v + 7) / 8 * 8

/-- Element bytes of n elements of a format code. -/
def elemBytes (c n : Nat) : Nat := if c = 0xC then 13 * (n / 64) else (codeBits c * n + 7) / 8

/-- Side-array bytes of n elements of a format code (R220). -/
def sideBytes (c n : Nat) : Nat :=
  if c = 0xA then up8 (n / 32) + 6 * (n / 32)
  else if isMx c then n / 32
  else if c = 0xC then 2 * (n / 64)
  else 0

/-- The value of element j of a row of n elements, and FMT (R54-R66). -/
def elemVal (c n : Nat) (el side : List Byte) (j : Nat) : Val × Nat :=
  match c with
  | 0x8 => (.ofInt (sInt 8 (leAt el j 1)), 0)
  | 0xB => (.ofInt (sInt 4 (nibble el j)), 0)
  | 0xD => (.ofInt (sInt 32 (leAt el (4 * j) 4)), 0)
  | 0xC =>
    let (t, x) := t5Trit el (13 * (j / 64)) (j % 64)
    (quietMul (.ofInt t) (Fmt.bf16.decode (leAt side (2 * (j / 64)) 2)), x)
  | 0x9 => (mxValue (leAt side (j / 32) 1) (Fmt.e2m1.decode (nibble el j)), 0)
  | 0xA =>
    let (es, x) := q4xRecord side (up8 (n / 32) + 6 * (j / 32))
    match es.find? fun e => e.1 = j % 32 with
    | some e => (Fmt.bf16.decode e.2, x)
    | none => (mxValue (leAt side (j / 32) 1) (Fmt.e2m1.decode (nibble el j)), x)
  | c =>
    let f := fmtOf c
    let b := f.width / 8
    let v := f.decode (leAt el (b * j) b)
    (if isMx c then mxValue (leAt side (j / 32) 1) v else v, 0)

/-- The values of a row, and FMT of any malformed part of it. -/
def rowVals (c n : Nat) (el side : List Byte) : List Val × Nat :=
  let l := (List.range n).map (elemVal c n el side)
  let bad := if c = 0xC then (List.range (n / 64)).foldl (fun m b => m ||| t5Bad el (13 * b)) 0
    else l.foldl (fun m e => m ||| e.2) 0
  (l.map (·.1), bad)

/-- Pack 4-bit codes two per byte (R60). -/
def packNibbles : List Nat → List Byte
  | [] => []
  | [a] => [BitVec.ofNat 8 a]
  | a :: b :: r => BitVec.ofNat 8 (a + 16 * b) :: packNibbles r

/-- Pack codes of some bits, which are 4 or whole bytes. -/
def packCodes (bits : Nat) (l : List Nat) : List Byte :=
  if bits = 4 then packNibbles l else l.flatMap fun c => toLE c (bits / 8)

/-- The scale byte for a largest magnitude (R59). -/
def mxScale (f : Fmt) (amax : Val) : Nat :=
  let emax : Int := match f with
    | .e4m3 => 8
    | .e5m2 => 15
    | _ => 2
  match amax with
  | .fin _ 0 _ => 0
  | .fin _ a b => (max 0 (min 254 (ilog2 a b - emax + 127))).toNat
  | _ => 0xFF

/-- A value divided by 2^(x - 127). -/
def unscale (x : Nat) : Val → Val
  | .fin n a b =>
    let (c, d) := scale2 a (127 - (x : Int))
    .fin n c (b * d)
  | v => v

/-- What quantising gave: codes, the scale, escapes as index and value, conditions, telemetry. -/
structure Quant where
  codes : List Nat
  scale : Nat
  escs : List (Nat × Nat)
  conds : Nat
  tel : Tel
  deriving DecidableEq, Repr

/-- The largest magnitude of some values; a NaN or an infinity prevails. -/
def amaxOf (l : List Val) : Val :=
  match l.find? Val.nonfin with
  | some v => v
  | none => l.foldl (fun m v => if m.lt v.abs then v.abs else m) (.fin false 0 1)

/-- Quantise elements with a chosen scale; those named are escaped (R59, R61). `draw` gives an element's random value. A NaN
that an escape or the scale 0xFF carries raises nothing, a signalling one included, and its escaped element's code is 0b0111
whatever its sign (R61, R71, R79; DESIGN CHOICE, log entry 148). -/
def quantWith (f : Fmt) (p : Rnd) (draw : Nat → Nat) (x : Nat) (esc : List Nat) (l : List Val) : Quant :=
  let q : Rnd := { p with ovf8 := false }
  let one (j : Nat) (v : Val) : Nat × Option Nat × Nat × Tel :=
    if esc.contains j then
      let (c, cd) := Fmt.bf16.encode p (draw j) v
      let cd := if v.nonfin then 0 else cd
      (if v.sign then 0xF else 0x7, some c, cd, Tel.elem v 0 true)
    else if x = 0xFF then (0, none, 0, Tel.elem v 0 false)
    else
      let (c, cd) := f.encode q (draw j) (unscale x v)
      (c, none, cd, Tel.elem v cd false)
  let rs := (List.range l.length).map fun j => (j, one j (l.getD j (.fin false 0 1)))
  { codes := rs.map fun r => r.2.1
    scale := x
    escs := rs.filterMap fun r => r.2.2.1.map fun c => (r.1, c)
    conds := rs.foldl (fun m r => m ||| r.2.2.2.1) 0
    tel := rs.foldl (fun t r => t.plus r.2.2.2.2) Tel.none }

/-- Whether element i comes before element j in the order of R61. -/
def q4xBefore (l : List Val) (i j : Nat) : Bool :=
  let a := l.getD i (.fin false 0 1)
  let b := l.getD j (.fin false 0 1)
  if a.nonfin then !b.nonfin || decide (i < j)
  else if b.nonfin then false
  else b.abs.lt a.abs || (!a.abs.lt b.abs && decide (i < j))

/-- The first k elements of a block in the order of R61. -/
def q4xFirst (l : List Val) : Nat → List Nat → List Nat
  | 0, _ => []
  | k + 1, rest =>
    match rest with
    | [] => []
    | i :: r =>
      let b := r.foldl (fun m j => if q4xBefore l j m then j else m) i
      b :: q4xFirst l k (rest.erase b)

/-- Quantise a block under R59 (format codes 6, 7, 9) or R61 (0xA). -/
def quantBlock (c : Nat) (p : Rnd) (draw : Nat → Nat) (l : List Val) : Quant :=
  let f := fmtOf c
  if c = 0xA then
    let o := q4xFirst l 3 (List.range l.length)
    let x := mxScale f ((l.getD (o.getD 2 0) (.fin false 0 1)).abs)
    let thr : Val := .dyadic false 6 ((x : Int) - 127)
    let esc := (o.take 2).filter fun i =>
      let v := l.getD i (.fin false 0 1)
      v.nonfin || thr.lt v.abs
    quantWith f p draw x esc l
  else quantWith f p draw (mxScale f (amaxOf l)) [] l

/-- The six bytes of an escape record (R61). -/
def escRecord (es : List (Nat × Nat)) : List Byte :=
  match es with
  | [] => toLE 0 6
  | [a] => toLE (a.1 + 1 <<< 10 + a.2 <<< 16) 6
  | a :: b :: _ => toLE (a.1 + b.1 <<< 5 + 2 <<< 10 + a.2 <<< 16 + b.2 <<< 32) 6

/-- A list in blocks of n. -/
def blocks {α : Type} (n : Nat) : Nat → List α → List (List α)
  | 0, _ => []
  | k + 1, l => if l.isEmpty then [] else l.take n :: blocks n k (l.drop n)

/-- What storing a row gave: element bytes, side bytes, conditions, telemetry. -/
structure Stored where
  el : List Byte
  side : List Byte
  conds : Nat
  tel : Tel
  deriving DecidableEq, Repr

/-- One value into an unscaled format code: code and conditions. -/
def codeOf (c : Nat) (p : Rnd) (r : Nat) (v : Val) : Nat × Nat :=
  match c with
  | 0x8 => intOf 8 p r v
  | 0xB => intOf 4 p r v
  | 0xD => intOf 32 p r v
  | c => (fmtOf c).encode p r v

/-- A row of values into a format code other than T5 (R59-R61, R70, R71). -/
def storeRow (c : Nat) (p : Rnd) (draw : Nat → Nat) (l : List Val) : Stored :=
  if isMx c then
    let bs := blocks 32 l.length l
    let qs := (List.range bs.length).map fun b => quantBlock c p (fun j => draw (32 * b + j)) (bs.getD b [])
    let sc := qs.map fun q => BitVec.ofNat 8 q.scale
    { el := packCodes (codeBits c) (qs.flatMap Quant.codes)
      side := if c = 0xA then sc ++ List.replicate (up8 sc.length - sc.length) 0 ++ qs.flatMap fun q => escRecord q.escs
        else sc
      conds := qs.foldl (fun m q => m ||| q.conds) 0
      tel := qs.foldl (fun t q => t.plus q.tel) Tel.none }
  else
    let rs := (List.range l.length).map fun j =>
      let v := l.getD j (.fin false 0 1)
      (v, codeOf c p (draw j) v)
    { el := packCodes (codeBits c) (rs.map fun r => r.2.1)
      side := []
      conds := rs.foldl (fun m r => m ||| r.2.2) 0
      tel := rs.foldl (fun t r => t.plus (Tel.elem r.1 r.2.2 false)) Tel.none }

/-- A code converted between formats: an integer that saturates in an integer format is not rounded (R66, R70, R71, R77). -/
def codeFrom (sf df : Nat) (p : Rnd) (r : Nat) (v : Val) : Nat × Nat :=
  let (c, x) := codeOf df p r v
  (c, if isInt sf ∧ isInt df then x &&& cSAT else x)

/-- A conversion into a narrower format: by quantisation, or into fewer bits (R83). -/
def narrows (sf df : Nat) : Bool := (isMx df && !isMx sf) || codeBits df < codeBits sf

/-- A conversion that rounds (R70): FP16 to BF16 or back, or between INT32 and FP32. -/
def roundsBetween (sf df : Nat) : Bool :=
  (sf == 2 && df == 3) || (sf == 3 && df == 2) || (sf == 1 && df == 0xD) || (sf == 0xD && df == 1)

/-- The telemetry that a conversion counts: all of it into a narrower format, else its saturations (R71, R83). -/
def telOf (sf df : Nat) (t : Tel) : Tel := if narrows sf df then t else { Tel.none with sat := t.sat }

/-- The telemetry of the elements that a store into an unscaled format rounds. -/
def roundedTel (c : Nat) (p : Rnd) (draw : Nat → Nat) (l : List Val) : Tel :=
  (List.range l.length).foldl (fun t j =>
    let v := l.getD j (.fin false 0 1)
    let x := (codeOf c p (draw j) v).2
    if x &&& cNX = 0 then t else t.plus (Tel.elem v x false)) Tel.none

/-- The telemetry that a ferry counts: every element that it rounds or quantises (R286). From a block format into an unscaled
one these are the elements whose scaled value the target does not hold (R70). -/
def ferryTel (sf df : Nat) (p : Rnd) (draw : Nat → Nat) (l : List Val) (t : Tel) : Tel :=
  if roundsBetween sf df then t
  else if isMx sf && !isMx df then roundedTel df p draw l
  else telOf sf df t

/-- Q4 and Q4X exchange their codes and scales as they stand (R136). -/
def exchanges (sf df : Nat) : Bool := (sf == 9 && df == 0xA) || (sf == 0xA && df == 9)

/-- A trit from a value and a block scale: rounded, saturated with SAT; a NaN gives 0 with IV (R70). -/
def tritOf (p : Rnd) (r : Nat) (s v : Val) : Int × Nat :=
  let (q, c) := v.div s
  match q with
  | .nan _ => (0, cIV)
  | q =>
    let p := match q with
      | .fin _ a b => p.within 1 a b
      | _ => p
    let (u, d) := intOf 32 p r q
    let i := sInt 32 u
    if 1 < i ∨ i < -1 then (if i < 0 then -1 else 1, (c &&& cDZ) ||| cSAT ||| (if q.nonfin then 0 else cNX))
    else (i, (c &&& cDZ) ||| d)

/-- Five trits as a byte (R63). -/
def t5Byte (l : List Int) : Byte :=
  BitVec.ofNat 8 ((List.range 5).foldl (fun m i => m + (l.getD i 0 + 1).toNat * 3 ^ i) 0)

/-- The 13 bytes of a block of 64 trits, with padding trit 0 (R63). -/
def t5Pack (l : List Int) : List Byte := (List.range 13).map fun i => t5Byte ((l.drop (5 * i)).take 5)

/-- The rounding options in force: NUMCFG with a mode (R71, R74). -/
def rnd (rm : Nat) : M Rnd := do
  let s ← get
  return ⟨rm, s.fld .numcfg 0 5, s.flag .numcfg 8⟩

/-- The stochastic context of a unit of a logical tree with a stream value (R76). -/
def srCtx (unit ltree : Nat) (stream : W64) : M SrCtx := do
  let s ← get
  return ⟨s.reg .jobSeed, s.fld .partSlot 0 16, ltree, unit, stream⟩

end Sys2Proof.Machine
end

