-- ==== Sys2Proof/Machine/Ferry.lean ====
section
/-! DEFINITION. The ferries: manifests, descriptors, conversion, CRC and completion (R283-R291). -/

namespace Sys2Proof.Machine

/-- The manifest that a ferry runs. -/
def State.ferry (s : State) (f : Nat) : Option Manifest := aread none s.ferries f

/-- A state with a ferry's manifest set. -/
def State.setFerry (s : State) (f : Nat) (m : Option Manifest) : State := { s with ferries := awrite none s.ferries f m }

/-- FY_STATUS of a ferry. -/
def fyReg (f : Nat) : Reg := .fyStatus (f / 8) (f % 8)

/-- The port of a ferry that runs a manifest: user level in its queue's world (R297). -/
def ferryPort (f : Nat) (m : Manifest) : Port :=
  ⟨⟨BitVec.ofNat 10 (0x100 + f), m.world⟩, true, f / 8, none, .ferry ⟨f % 64, Nat.mod_lt _ (by decide)⟩, m.tag⟩

/-- A manifest ends early, with a code of Table: Manifest status. -/
def ferryFail {α : Type} (code : Nat) : M α := throw (.exc code 0 0 0 false)

/-- The tag of a queue's class when a manifest starts; none for class NONE (R322). -/
def State.ferryTag (s : State) (q : Nat) : Option (Nat × Bool) :=
  let i := q - 0x800
  match s.fld (.epFq (i / 32)) (2 * (i % 32)) 2 with
  | 1 => some (s.epoch, false)
  | 2 => some ((s.epoch + 1) % 2 ^ 32, false)
  | 3 => some ((s.epoch + 1) % 2 ^ 32, true)
  | _ => none

/-- The STATUS word (Table: Manifest status). Of 2^20 complete rows ROW holds the low 20 bits (log entry 137). -/
def fyStatusWord (m : Manifest) (code desc row : Nat) : Nat :=
  code + (m.conds % 128) <<< 8 + b2n m.poisoned <<< 15 + desc <<< 16 + (row % 2 ^ 20) <<< 28

/-- STATUS is written into the queue entry: false when that is denied or its translation fails (log entry 161), nothing while the
ferry waits for its translation (R303). -/
def ferryStatus (f : Nat) (m : Manifest) (w : Nat) : M (Option Bool) := do
  let s ← get
  match ← ringAt m.queue true (s.qAddr m.queue (s.qHead m.queue) + 0x28) with
  | .ok a _ =>
    match ← writePhys (s.qReq m.queue) a (toLE w 8) with
    | some _ => return some false
    | none => return some true
  | .wait h =>
    modify fun (s : State) => s.setHold (.ferry ⟨f % 64, Nat.mod_lt _ (by decide)⟩) h
    return none
  | _ => return some false

/-- A ferry has no manifest any more. -/
def ferryIdle (f : Nat) : M Unit := do
  modify fun (s : State) =>
    { (s.forget (.ferry ⟨f % 64, Nat.mod_lt _ (by decide)⟩)).setFerry f none with epUnits := adel s.epUnits f }
  wrf (fyReg f) 0 1 0

/-- A manifest ends with an error (R291): rows below ROW are complete. Until the translation of its STATUS is there it stays, and
remembers the code. -/
def ferryEnd (f code : Nat) : M Unit := do
  match (← get).ferry f with
  | none => skip
  | some m =>
    let w := fyStatusWord m code m.desc m.row
    match ← ferryStatus f m w with
    | none => modify fun (s : State) => match s.ferry f with
      | some m => s.setFerry f (some { m with ending := some code })
      | none => s
    | some ok =>
      ferryIdle f
      setQState m.queue 0
      wrf (.qctxBase m.queue) 61 3 (if ok then 4 else 5)
      event ((← get).fld (.qctxStat m.queue) 11 10) 0x0011 0 (BitVec.ofNat 64 w) (BitVec.ofNat 64 m.queue)

/-- Run an action of a ferry: a wait is noted, and an early end ends the manifest. -/
def ferryDo (f : Nat) (m : M Unit) : M Unit :=
  tryCatch m fun e => match e with
    | .exc code _ _ _ _ => ferryEnd f code
    | .hold h => modify fun (s : State) => s.setHold (.ferry ⟨f % 64, Nat.mod_lt _ (by decide)⟩) h
    | .contain _ => skip

/-- The segments of an access of a ferry, granted and served: a fault ends the manifest with ADDRESS, and a page or a port that
is not there is waited for (R291, R303, R326, R272). -/
def ferrySegs (f : Nat) (m : Manifest) (write : Bool) (va n : Nat) : M (List Seg) := do
  let p := ferryPort f m
  match ← trSegs p (if write then .write else .read) true (va % 2 ^ 64) n with
  | .error (.wait h) => throw (.hold h)
  | .error _ => ferryFail 2
  | .ok l =>
    if ← segsOk p.req (if write then .wr else .rd) l then
      match (← get).segWait write l with
      | some h => throw (.hold h)
      | none => return l
    else ferryFail 2

/-- Read for a ferry. -/
def ferryRead (f : Nat) (m : Manifest) (l : List Seg) : M PBytes := do
  match ← readSegs (ferryPort f m).req l with
  | some b => return b
  | none => ferryFail 2

/-- Write for a ferry, counting the bytes. -/
def ferryWrite (f : Nat) (m : Manifest) (l : List Seg) (b : PBytes) : M Unit := do
  if ← writeSegs (ferryPort f m).req l b then
    modify fun s => s.addFld (.fyBytes (f / 8) (f % 8)) 0 48 b.length
  else ferryFail 2

/-- A manifest header is well formed (R284, R291). -/
def headerOk (h : List Byte) : Bool :=
  let z (lo n : Nat) := zeros ((h.drop lo).take n)
  let nd := leAt h 2 2
  1 ≤ nd && nd ≤ 4096 && leAt h 4 1 < 2 && !(leAt h 5 1).testBit 6 && leAt h 6 1 < 16 && z 7 1 && z 0x1A 6 && z 0x30 16

/-- Formats that a format may be converted to (Table: Ferry conversions; MXFP8 is 6 and 7). -/
def convTo : Nat → List Nat
  | 1 => [2, 3, 4, 5, 6, 7, 9, 0xA, 0xD, 8]
  | 2 => [1, 2, 3, 4, 5, 6, 7, 9, 0xA]
  | 3 => [1, 2, 3, 4, 5, 6, 7, 9, 0xA]
  | 4 => [1, 2]
  | 5 => [1, 2]
  | 6 => [1, 2]
  | 7 => [1, 2]
  | 8 => [1, 2]
  | 9 => [1, 2, 0xA]
  | 0xA => [1, 2, 9]
  | 0xD => [1]
  | _ => []

/-- A descriptor is well formed (R284, R286, R291). -/
def descOk (d : List Byte) : Bool :=
  let op := leAt d 0 1
  let sf := leAt d 1 1
  let df := leAt d 2 1
  let ctl := leAt d 3 1
  let len := leAt d 0x18 4
  let rows := leAt d 0x1C 4
  let conv := ctl.testBit 3
  let blk (c : Nat) := if isMx c then len % 32 = 0 else true
  1 ≤ op && op ≤ 3 && ctl % 8 ≤ 4 && ctl / 16 % 4 != 3 && !ctl.testBit 7 && leAt d 4 1 < 64
    && zeros ((d.drop 5).take 3) && zeros ((d.drop 0x38).take 8) && 1 ≤ len && len ≤ 2 ^ 24 && 1 ≤ rows && rows ≤ 2 ^ 20
    && (op != 3 || leAt d 0x10 8 == 0)
    && (if conv then op = 1 && (convTo sf).contains df && blk sf && blk df else sf = 0 && df = 0)

/-- The descriptor in progress; poison in it, or a reserved encoding, ends the manifest with DESC_BAD, and a CRCADDR that is not
8-byte aligned with ALIGN (R291; log entry 42). -/
def ferryDesc (f : Nat) (m : Manifest) : M (List Byte) := do
  let l ← ferrySegs f m false (leAt m.header 8 8 + 64 * m.desc) 64
  let b ← ferryRead f m l
  let d := b.map (·.1)
  if b.any (·.2) ∨ ¬ descOk d then ferryFail 1
  else if leAt m.header 0x10 8 % 8 ≠ 0 then ferryFail 3
  else return d

/-- After a descriptor is reached, it is read: a malformed one ends the manifest at once. -/
def ferryPeek (f : Nat) : M Unit := do
  match (← get).ferry f with
  | none => skip
  | some m => if m.desc < leAt m.header 2 2 then
      ferryDo f do
        let _ ← ferryDesc f m
        skip

/-- The queue that ferry f visits next (R283). -/
def State.ferryTurn (s : State) (f : Nat) : Option Nat := s.visits (8 + f) fun q => 0x800 + 64 * f ≤ q && q < 0x840 + 64 * f

/-- MANIFEST: an idle ferry visits its running queue n when its turn comes, and takes the header at HEAD (R283, R284, R291). A
withdrawn part's queues of the Job world are stopped (R432). A list that is not 64-byte aligned ends it with ALIGN (log entry
42). -/
def startManifest (f n : Nat) : M Unit := do
  let q := 0x800 + 64 * f + n
  let s ← get
  if (s.ferry f).isSome ∨ s.testing 7 f ∨ s.ferryTurn f ≠ some q then skip
  else
    visited (8 + f) q
    match ← headEntry q with
    | none => skip
    | some h =>
      modify fun (s : State) => s.setFerry f (some ⟨q, s.qWorld q, h, 0, 0, 0, false, 0, false, s.ferryTag q, .none, [], none⟩)
      wrf (fyReg f) 0 1 1
      wrf (fyReg f) 1 6 n
      wrf (fyReg f) 7 12 0
      if ¬ headerOk h then ferryEnd f 5
      else if leAt h 8 8 % 64 ≠ 0 then ferryEnd f 3
      else ferryPeek f

/-- The row address of a stride. -/
def rowAddr (base stride r : Nat) : Nat := wrap 64 ((base : Int) + sInt 32 stride * (r : Int))

/-- The elements that byte k of a row of a format holds. -/
def elsOf (c k : Nat) : List Nat := if codeBits c = 4 then [2 * k, 2 * k + 1] else [k / (codeBits c / 8)]

/-- The block of 32 that byte k of a row's side arrays belongs to (R220). -/
def sideBlock (c n k : Nat) : Option Nat :=
  if c = 0xA then (if k < n / 32 then some k else if k < up8 (n / 32) then none else some ((k - up8 (n / 32)) / 6))
  else some k

/-- Elements of a row that a byte from a poisoned line enters: its own code, or the side arrays of its block (R289). -/
def badEls (c n : Nat) (el side : PBytes) : List Nat :=
  ((List.range el.length).flatMap fun k => if (el.getD k (0, false)).2 then elsOf c k else [])
    ++ (List.range side.length).flatMap fun k =>
      match (side.getD k (0, false)).2, sideBlock c n k with
      | true, some b => (List.range 32).map (32 * b + ·)
      | _, _ => []

/-- The unit in which poison spreads over a destination row: a block of 32 that is quantised together, or one element. -/
def spreads (c : Nat) : Nat := if isMx c then 32 else 1

/-- Convert a row of n elements (R286): element bytes, side bytes, conditions, telemetry. Q4 and Q4X exchange their codes
(R136). -/
def convRow (d : List Byte) (p : Rnd) (draw : Nat → Nat) (n : Nat) (el side : List Byte) : Stored :=
  let sf := leAt d 1 1
  let df := leAt d 2 1
  if sf = 9 ∧ df = 0xA then
    ⟨el, side ++ List.replicate (up8 (n / 32) - n / 32 + 6 * (n / 32)) 0, 0, Tel.none⟩
  else if sf = 0xA ∧ df = 9 then ⟨el, side.take (n / 32), 0, Tel.none⟩
  else
    let (vs, fm) := rowVals sf n el side
    let r := storeRow df p draw vs
    { r with conds := r.conds ||| fm, tel := ferryTel sf df p draw vs r.tel }

/-- Mark bytes by whether their block is bad. -/
def markBytes (bs : List Byte) (bad : Nat → Bool) : PBytes := (List.range bs.length).map fun k => (bs.getD k 0, bad k)

/-- A converted row with its bytes marked that are derived from a poisoned line (R289): codes and scales that are exchanged byte
by byte, else every element of a block into which a poisoned byte enters. -/
def convMarks (sf df n : Nat) (el side : PBytes) (st : Stored) : PBytes × PBytes :=
  if exchanges sf df then
    (markBytes st.el fun k => (el.getD k (0, false)).2,
      markBytes st.side fun k => decide (k < n / 32) && (side.getD k (0, false)).2)
  else
    let bad := (badEls sf n el side).map (· / spreads df)
    (markBytes st.el fun k => (elsOf df k).any fun e => bad.contains (e / spreads df),
      markBytes st.side fun k => (sideBlock df n k).any bad.contains)

/-- The address of byte i of segments. -/
def segAt : List Seg → Nat → Option Nat
  | [], _ => none
  | g :: r, i => if i < g.n then some (g.pa + i) else segAt r (i - g.n)

/-- The codeword of a whole line as it passes a ferry undecoded: of a heartwood, or of a far-bank line's sector in its home canopy (R121,
R258). A near-bank controller and the ports have decoded theirs. -/
def State.wordAt (s : State) (a : Nat) : Option Sector :=
  if s.heartWhole a 128 then
    some ⟨false, aread false s.poison (a / 128), s.bytes a 128, (s.lineFlaw (a / 128)).errs, false⟩
  else if inFar a then s.sector (farHome a) a
  else none

/-- A state in which a whole line has been written with a codeword as it was received: into a heartwood, the near bank, or a far-bank
line's sector in its home canopy (R121, R258). -/
def State.putWord (s : State) (a : Nat) (x : Sector) : State :=
  if (inNear a && !s.lost a) || s.heartWhole a 128 then
    (((s.setBytes a x.data).setLinePoison (a / 128) x.poison)).setFlaw (a / 128) ⟨x.errs, false⟩
  else if inFar a then
    match s.sector (farHome a) a with
    | some y => s.putSector (farHome a) a { y with data := x.data, errs := x.errs, poison := x.poison }
    | none => s
  else s

/-- The whole lines of segments: byte of the operand, and address. -/
def wholeLines : Nat → List Seg → List (Nat × Nat)
  | _, [] => []
  | o, g :: r =>
    ((linesOf g.pa g.n).filterMap fun l =>
      if g.pa ≤ l * 128 ∧ l * 128 + 128 ≤ g.pa + g.n then some (o + (l * 128 - g.pa), l * 128) else none)
      ++ wholeLines (o + g.n) r

/-- A state after a steered copy: a codeword with symbol errors passes a ferry as it is (R258, R285). -/
def State.steer (s : State) (src dst : List Seg) : State :=
  (wholeLines 0 src).foldl (fun s e =>
    match s.wordAt e.2, segAt dst e.1 with
    | some x, some d => if !x.errs.isEmpty && d % 128 = 0 && segAt dst (e.1 + 127) = some (d + 127) then s.putWord d x else s
    | _, _ => s) s

/-- One row of a descriptor (R285-R289). -/
def ferryRow (f : Nat) (m : Manifest) (d : List Byte) : M Unit := do
  let op := leAt d 0 1
  let ctl := leAt d 3 1
  let conv := ctl.testBit 3
  let sf := leAt d 1 1
  let df := leAt d 2 1
  let n := leAt d 0x18 4
  let r := m.row
  let sa := rowAddr (leAt d 8 8) (leAt d 0x20 4) r
  let da := rowAddr (leAt d 0x10 8) (leAt d 0x24 4) r
  let sl ← (if op = 2 then return [] else ferrySegs f m false sa (if conv then elemBytes sf n else n))
  let ss ← (if conv ∧ 0 < sideBytes sf n then ferrySegs f m false (rowAddr sa (leAt d 0x28 4) 1) (sideBytes sf n)
    else return [])
  let dl ← (if op = 3 then return [] else ferrySegs f m true da (if conv then elemBytes df n else n))
  let ds ← (if conv ∧ 0 < sideBytes df n then ferrySegs f m true (rowAddr da (leAt d 0x2C 4) 1) (sideBytes df n)
    else return [])
  let el ← (do blurBytes m.wrote sl (← ferryRead f m sl))
  let side ← (do blurBytes m.wrote ss (← ferryRead f m ss))
  let p ← rnd (ctl % 8)
  let ctx ← srCtx 5 f (BitVec.ofNat 64 (leAt d 0x30 8))
  let (oe, os, conds, tel) :=
    if op = 2 then
      ((List.range n).map fun i => (d.getD (8 + i % 8) 0, false), ([] : PBytes), 0, Tel.none)
    else if ¬ conv then (el, [], 0, Tel.none)
    else
      let st := convRow d p (fun c => ctx.draw p ((r * n + c) % 256) ((r * n + c) / 256)) n (el.map (·.1)) (side.map (·.1))
      let (me, ms) := convMarks sf df n el side st
      (me, ms, st.conds, st.tel)
  if op ≠ 3 then
    ferryWrite f m dl oe
    ferryWrite f m ds os
    whenM (op = 1 && !conv && ctl / 16 % 4 = 0) (modify fun s => s.steer sl dl)
  tally (leAt d 4 1) tel
  let taken := if op = 3 then el else oe ++ os
  let data := taken.map (·.1)
  let crc := match ctl / 16 % 4 with
    | 1 => crc32c m.crc data
    | 2 => crc64 m.crc data
    | _ => 0
  modify fun s => s.setFerry f (some { m with
    row := r + 1
    crc := crc
    crcBad := m.crcBad || taken.any (·.2)
    conds := m.conds ||| conds
    poisoned := m.poisoned || (el ++ side).any (·.2)
    hold := .none
    wrote := (dl ++ ds).map (fun g => (g.pa, g.n)) ++ m.wrote })

/-- Rows of a descriptor until it is done. -/
def ferryRows (f : Nat) (d : List Byte) : Nat → M Unit
  | 0 => skip
  | k + 1 => do
    match (← get).ferry f with
    | none => skip
    | some m =>
      if m.row < leAt d 0x1C 4 then
        ferryRow f m d
        ferryRows f d k

/-- The CRC result of a descriptor, at CRCADDR (R287). -/
def ferryCrc (f : Nat) (m : Manifest) (d : List Byte) : M Unit := do
  if leAt d 3 1 / 16 % 4 ≠ 0 then
    let l ← ferrySegs f m true (leAt m.header 0x10 8 + 8 * m.desc) 8
    ferryWrite f m l ((toLE m.crc 8).map (·, m.crcBad))
    modify fun s => s.setFerry f (some { m with wrote := l.map (fun g => (g.pa, g.n)) ++ m.wrote })

/-- Run the descriptor in progress, whose OP is the one named, to its end (R285-R288): a FENCE orders it after all earlier
writes, and its read unit then ends. -/
def runDesc (f op : Nat) : M Unit := do
  match (← get).ferry f with
  | none => skip
  | some m =>
    match m.ending with
    | some c => ferryEnd f c
    | none =>
    if leAt m.header 2 2 ≤ m.desc then skip
    else
      ferryDo f do
        let d ← ferryDesc f m
        if leAt d 0 1 = op then
          if (leAt d 3 1).testBit 6 ∧ m.row = 0 then
            modify fun s => s.setFerry f (some { m with wrote := [] })
          ferryRows f d (leAt d 0x1C 4)
          match (← get).ferry f with
          | none => skip
          | some m => ferryCrc f m d
          modify fun (s : State) => match s.ferry f with
            | some m => { s.setFerry f (some { m with desc := m.desc + 1, row := 0, crc := 0, crcBad := false, hold := .none }) with
                epUnits := adel s.epUnits f }
            | none => s
          wrf (fyReg f) 7 12 (m.desc + 1)
          ferryPeek f

/-- FERRY_DONE: a manifest whose descriptors have all run completes (R289). -/
def endManifest (f : Nat) : M Unit := do
  match (← get).ferry f with
  | none => skip
  | some m =>
    let h := m.header
    match m.ending with
    | some c => ferryEnd f c
    | none =>
    if leAt h 2 2 ≤ m.desc then
      let q := m.queue
      let done ← ferryStatus f m (fyStatusWord m (if m.poisoned then 4 else 0) 0 0)
      whenM done.isSome (ferryIdle f)
      if done = some true then
        whenM ((leAt h 5 1).testBit 7) (bumpFerry (leAt h 5 1) (leAt h 6 1))
        whenM ((leAt h 4 1).testBit 0) (event (leAt h 0x18 2 % 1024) 0x0010 0
          (BitVec.ofNat 64 (q + leAt h 0 2 <<< 32)) (BitVec.ofNat 64 (leAt h 0x20 8)))
        modify fun s => s.addFld (fyReg f) 32 32 1
        setHead q ((← get).qHead q + 1)
      else whenM (done = some false) (stopQueue q 5)

end Sys2Proof.Machine
end

