-- ==== Sys2Proof/Machine/Landings.lean ====
section
/-! DEFINITION. The landings as masters and targets: descriptors, their packets and ends, inbound packets, forwarding and
in-line reduction (R368-R383, R329, R433). -/

namespace Sys2Proof.Machine

/-- The pair of a landing's accesses (R374, R375). -/
def landReq (l : Nat) (world : Bool) : Req := ⟨BitVec.ofNat 10 (0x150 + l), world⟩

/-- The sub-code of a denial: NO_TARGET for an address that names nothing, else DENIED (R375). -/
def denySub (cause : Nat) : Nat := if cause = 5 then 0x11 else 0x10

/-- Resolve the parts of a landing transfer against the registered frames (R329): segments, or a sub-code. It waits while a
commit holds the set (R336). -/
def landPages (rq : Req) (write : Bool) : List (Nat × Nat) → M (Except Nat (List Seg))
  | [] => return .ok []
  | (a, n) :: r => do
    match ← landVer rq write a with
    | .fault => return .error (0x80 + (← rdf .epFaultLast 0 8))
    | .wait => throw (.hold .issue)
    | .go f =>
      match ← landPages rq write r with
      | .ok x => return .ok (⟨f, 3, n⟩ :: x)
      | .error c => return .error c

/-- Check segments against their targets' tables: the sub-code of the first denial. -/
def landCheck (r : Req) (k : Acc) : List Seg → M (Option Nat)
  | [] => return none
  | g :: rest => do
    match ← checkAcc r k g.pa g.n with
    | some (c, _) => return some (denySub c)
    | none => landCheck r k rest

/-- The segments of n bytes that a landing accesses, resolved and granted; or the sub-code of the refusal. An access to a
far-bank port that is not up waits (R272). -/
def landSegs (r : Req) (write : Bool) (a n : Nat) : M (Except Nat (List Seg)) := do
  match ← landPages r write (pageParts a n) with
  | .error c => return .error c
  | .ok x =>
    match ← landCheck r (if write then .wr else .rd) x with
    | some c => return .error c
    | none =>
      match (← get).segWait write x with
      | some h => throw (.hold h)
      | none => return .ok x

/-- Bytes of an element of a: FP32, or BF16 (Table: Reduction formats). -/
def redA (f : Nat) : Nat := if f = 0 then 4 else 2

/-- Bytes of an element of b and of the result. -/
def redB (f : Nat) : Nat := if f = 1 then 2 else 4

/-- OP of a landing descriptor. -/
def dOp (d : List Byte) : Nat := ldesc d 2 1

/-- It reduces: REDUCE or REDUCE_COPY. -/
def dRed (d : List Byte) : Bool := dOp d = 3 || dOp d = 4

/-- RFMT. -/
def dFmt (d : List Byte) : Nat := ldesc d 4 1 / 16 % 8

/-- Bytes that one row of a descriptor moves out of or into local memory. -/
def dRow (d : List Byte) : Nat := ldesc d 0x20 4 * (if dRed d then redA (dFmt d) else 1)

/-- The remote address of byte off of a row. -/
def dRemote (d : List Byte) (base row off : Nat) : Nat :=
  rowAddr base (ldesc d 0x2C 4) row + (if dRed d && dFmt d = 2 then 2 * off else off)

/-- A landing descriptor is well formed (R373, R374, R378, R379). Strides move no element of a descriptor with one row. -/
def landDescOk (s : State) (d : List Byte) : Bool :=
  let op := dOp d
  let red := ldesc d 4 1
  let len := ldesc d 0x20 4
  let rows := ldesc d 0x24 2
  let al (n off : Nat) := ldesc d off 8 % n = 0
  let st (n off : Nat) := rows = 1 || ldesc d off 4 % n = 0
  1 ≤ op && op ≤ 4 && ldesc d 3 1 < 16 && ldesc d 5 1 = 0 && ldesc d 6 2 != s.partId && 1 ≤ rows
    && red % 16 ≤ 2 && dFmt d ≤ 2 && red < 128
    && ldesc d 0x30 4 < 2 ^ 20 && 1 ≤ len && (op = 4 || ldesc d 0x18 8 = 0)
    && (if dRed d then
      len ≤ 2 ^ 22 && al (redA (dFmt d)) 8 && st (redA (dFmt d)) 0x28
        && al (redB (dFmt d)) 0x10 && al (redB (dFmt d)) 0x18 && st (redB (dFmt d)) 0x2C
      else len ≤ 2 ^ 24)

/-- Bytes of the next packet of a row from byte off: at most 4,096, not crossing a 4 KiB boundary of ADDR (R368). With RFMT 2
the bytes of a, laid from ADDR, do not cross it (log entry 44). -/
def chunk (d : List Byte) (row off : Nat) : Nat :=
  min (dRow d - off) (4096 - dRemote d (ldesc d 0x10 8) row off % 4096)

/-- Line i of a packet that byte j of its data lies in (R368). -/
def pktLine (addr j : Nat) : Nat := (addr % 128 + j) / 128

/-- PMASK of the data of a packet (R368). -/
def pmaskOf (addr : Nat) (b : PBytes) : Nat :=
  (List.range 32).foldl (fun m i =>
    if (List.range b.length).any fun j => (b.getD j (0, false)).2 && pktLine addr j = i then m + 2 ^ i else m) 0

/-- AUX of a REDUCE packet: second operand, ROP, RFMT and COPY (Table: Packet header). -/
def redAux (d : List Byte) (row off : Nat) : Nat :=
  let c := dOp d = 4
  (if c then dRemote d (ldesc d 0x18 8) row off % 2 ^ 52 else 0) + (ldesc d 4 1 % 16) <<< 52 + dFmt d <<< 56 + b2n c <<< 59

/-- A running descriptor changes. -/
def changeRun (l q : Nat) (f : LRun → LRun) : M Unit := modify fun s =>
  match s.lrun l q with
  | some r => s.setRun l (f r)
  | none => s

/-- Send the next packet of a descriptor (R374); false when it has none to send. Local bytes that fail their check end it
with LOCAL_ADDRESS (R378). -/
def sendNext (l q : Nat) : M Bool := do
  let s ← get
  match s.lrun l q with
  | none => return false
  | some r =>
    let d := r.desc
    if r.err.isSome ∨ ldesc d 0x24 2 ≤ r.row ∨ 512 ≤ (s.link l).await.length then return false
    else
      let n := chunk d r.row r.off
      let addr := dRemote d (ldesc d 0x10 8) r.row r.off
      let next (r : LRun) : LRun := if r.off + n < dRow d then { r with off := r.off + n } else { r with row := r.row + 1, off := 0 }
      let pkt (type aux pm : Nat) (data : List Byte) (tid : Nat) : Packet :=
        s.mkPacket (ldesc d 6 2) type (s.qWorld q) addr aux tid pm n data
      if dOp d = 2 then
        sendRun l r r.row (pkt 2 0 0 [])
        changeRun l q next
        return true
      else
        let rq := landReq l (s.qWorld q)
        match ← landSegs rq false ((rowAddr (ldesc d 8 8) (ldesc d 0x28 4) r.row + r.off) % 2 ^ 64) n with
        | .error c =>
          failRun l q r.row 2 c
          return false
        | .ok g =>
          match ← readSegs rq g with
          | none =>
            failRun l q r.row 2 0x10
            return false
          | some b =>
            sendRun l r r.row (pkt (if dRed d then 4 else 1) (if dRed d then redAux d r.row r.off else 0) (pmaskOf addr b)
              (b.map (·.1)))
            changeRun l q fun r => next { r with poisoned := r.poisoned || b.any (·.2) }
            return true

/-- With RNOTIFY, a descriptor whose packets are all acknowledged sends its NOTIFY (R374, R377 step 1); false when it does not. -/
def sendNotify (l q : Nat) : M Bool := do
  let s ← get
  match s.lrun l q with
  | none => return false
  | some r =>
    let d := r.desc
    let rows := ldesc d 0x24 2
    if r.err.isSome ∨ r.row < rows ∨ r.notify ∨ ¬ (ldesc d 3 1).testBit 3 ∨ ((s.link l).await.any fun a => a.queue = q) ∨
        512 ≤ (s.link l).await.length then return false
    else
      let nt := ldesc d 0x30 4
      changeRun l q fun r => { r with notify := true }
      sendRun l { r with notify := true } rows fun tid =>
        s.mkPacket (ldesc d 6 2) 6 (s.qWorld q) (nt / 2 ^ 10 % 2 ^ 10) 0 tid 0 0 []
      return true

/-- A descriptor sends a packet, if it can: one whose local bytes are to be had from a far-bank port waits for it (R272). -/
def sendOne (l q : Nat) : M Bool :=
  tryCatch (do if ← sendNext l q then return true else sendNotify l q) fun e => match e with
    | .hold (.port _ a) => do
      modify fun s => s.setLink l { s.link l with held := some a }
      return false
    | _ => return false

/-- The first of some queues whose descriptor sends a packet. -/
def sendFirst (l : Nat) : List Nat → M (Option Nat)
  | [] => return none
  | q :: r => do if ← sendOne l q then return some q else sendFirst l r

/-- The queues whose descriptors a landing runs, from the one whose turn it is. -/
def LinkSt.turns (x : LinkSt) : List Nat :=
  let q := sortNat (x.runs.map (·.queue))
  q.filter (x.runTurn ≤ ·) ++ q.filter (· < x.runTurn)

/-- The descriptors of a landing send packets in turn, one each (R374). -/
def pumpTurns (l : Nat) : Nat → M Unit
  | 0 => skip
  | n + 1 => do
    match ← sendFirst l ((← get).link l).turns with
    | none => skip
    | some q =>
      modify fun s => s.setLink l { s.link l with runTurn := q + 1 }
      pumpTurns l n

/-- A landing goes on with its descriptors: 512 packets at most await a reply (R374). -/
def pumpLanding (l : Nat) : M Unit := do
  modify fun s => s.setLink l { s.link l with held := none }
  pumpTurns l 600

/-- The queue that a landing visits next (R374). -/
def State.landTurn (s : State) (l : Nat) : Option Nat :=
  s.visits (72 + l) fun q => 0x1800 + 64 * l ≤ q && q < 0x1840 + 64 * l && (s.lrun l q).isNone

/-- A landing takes the descriptor at HEAD of its running queue n when its turn comes, or goes on with the one that it runs (R373, R374).
A malformed one has failed at once (R378); one with no meaning of OP is taken by any of the four commands. -/
def startRun (l n op : Nat) : M Unit := do
  let q := 0x1800 + 64 * l + n
  let s ← get
  match s.lrun l q with
  | some r => whenM (dOp r.desc = op) (pumpLanding l)
  | none =>
    if s.landByte l % 4 = 0 ∨ 16 ≤ (s.link l).runs.length ∨ s.landTurn l ≠ some q then skip
    else
      match ← headEntry q with
      | none => visited (72 + l) q
      | some d =>
        if dOp d ≠ op ∧ 1 ≤ dOp d ∧ dOp d ≤ 4 then skip
        else
          visited (72 + l) q
          modify fun s => s.setLink l { s.link l with
            runs := (s.link l).runs ++ [⟨q, d, 0, 0, false, 0, false, none, 0xFFFF⟩] }
          if landDescOk s d then pumpLanding l
          else failRun l q 0 1 0

/-- A descriptor completes: all is acknowledged, its NOTIFY too (R377). -/
def endRun (l n : Nat) : M Unit := do
  let q := 0x1800 + 64 * l + n
  let s ← get
  match s.lrun l q with
  | none => skip
  | some r =>
    let waits := (s.link l).await.any fun a => a.queue = q
    let told := r.notify || !(ldesc r.desc 3 1).testBit 3
    if r.err.isNone ∧ ldesc r.desc 0x24 2 ≤ r.row ∧ ¬ waits ∧ told then endGood l r

/-- A descriptor that has failed ends once no reply is due (R378). -/
def endFailed (l n : Nat) : M Unit := do
  let q := 0x1800 + 64 * l + n
  let s ← get
  match s.lrun l q with
  | none => skip
  | some r =>
    match r.err with
    | none => skip
    | some (code, sub) =>
      if (s.link l).await.any fun a => a.queue = q then skip else endBad l r code sub

/-- The landing that a TID names. -/
def tidLand (tid : Nat) : Nat := tid / 2 ^ 27 % 16

/-- The packet of this part that a reply answers: one of its destination, or of a part on the way that has dropped it (R372). -/
def State.awaited (s : State) (tid part : Nat) (dropped : Bool) : Option Await :=
  if 2 ^ 31 ≤ tid then none
  else (s.link (tidLand tid)).await.find? fun a => a.tid = tid && (dropped || a.pkt.dpart.toNat = part)

/-- A packet no longer awaits its reply. -/
def State.answered (s : State) (a : Await) : State :=
  let l := tidLand a.tid
  s.setLink l { s.link l with await := (s.link l).await.filter fun x => x.tid != a.tid }

/-- No reply came within LAND_GCTRL.TIMEOUT (R378). -/
def packetTimeout (l tid : Nat) : M Unit := do
  match ((← get).link l).await.find? fun a => a.tid = tid with
  | none => skip
  | some a =>
    modify fun s => s.setLink l { s.link l with await := (s.link l).await.filter fun x => x.tid != tid }
    failRun l a.queue a.row 6 0

/-- Send a packet again after a CRC failure, at most three times (R369). -/
def resend (a : Await) : M Unit := do
  let l := tidLand a.tid
  if 3 ≤ a.tries then
    modify fun s => s.answered a
    failRun l a.queue a.row 8 0
  else
    match ← sendPacket a.pkt with
    | none =>
      modify fun s => s.answered a
      failRun l a.queue a.row 4 0
    | some v => modify fun s => s.setLink l { s.link l with
        await := (s.link l).await.map fun x => if x.tid = a.tid then { x with tries := x.tries + 1, via := v } else x }

/-- An ACK arrives (R369, R377, R378, R380): code POISON is that of a reduction that met poison and went on (log entry 45). A
READ waits for its bytes and not for the ACK. Code CRC for no packet that awaits a reply is for a reply or a JACK that this part has
sent. -/
def ackPacket (p : Packet) : M Unit := do
  let tid := p.tid.toNat
  let code := p.addr.toNat % 256
  if 2 ^ 31 ≤ tid then
    if code = 8 then
      if ← repeatJournal tid then skip else resendReplies p
  else
    match (← get).awaited tid p.spart.toNat (code = 4 || code = 5) with
    | none => whenM (code = 8) (resendReplies p)
    | some a =>
      let l := tidLand tid
      if code = 8 then resend a
      else if code = 0 ∨ code = 9 then
        if a.pkt.type.toNat ≠ 2 then
          modify fun s => s.answered a
          changeRun l a.queue fun r => { r with
            conds := r.conds ||| p.addr.toNat / 2 ^ 16 % 128
            poisoned := r.poisoned || code = 9 }
      else
        modify fun s => s.answered a
        failRun l a.queue a.row code (p.addr.toNat / 256 % 256)
      pumpLanding l

/-- The data of a packet with its poison by byte. -/
def pktBytes (p : Packet) : PBytes :=
  (List.range p.data.length).map fun j => (p.data.getD j 0, p.pmask.getLsbD (pktLine p.addr.toNat j))

/-- Serve a packet that has arrived; one that must wait is kept with the address of a far-bank port that it waits for (R272,
R336, R443). -/
def keepWaiting (l : Nat) (p : Packet) (m : M Unit) : M Unit :=
  tryCatch m fun e => match e with
    | .hold h => modify fun s => s.setLink l { s.link l with
        inq := (s.link l).inq ++ [(p, match h with | .port _ a => some a | _ => none)] }
    | _ => skip

/-- A READCPL arrives and its bytes are written locally, poison with them (R377). -/
def readDone (p : Packet) : M Unit := do
  let s ← get
  match s.awaited p.tid.toNat p.spart.toNat false with
  | none => skip
  | some a =>
    let l := tidLand a.tid
    if a.pkt.type.toNat ≠ 2 ∨ a.pkt.addr ≠ p.addr ∨ a.pkt.len ≠ p.len then skip
    else
      match s.lrun l a.queue with
      | none => modify fun s => s.answered a
      | some r =>
        let d := r.desc
        let off := p.addr.toNat - rowAddr (ldesc d 0x10 8) (ldesc d 0x2C 4) a.row
        let rq := landReq l (s.qWorld a.queue)
        keepWaiting l p do
          match ← landSegs rq true ((rowAddr (ldesc d 8 8) (ldesc d 0x28 4) a.row + off) % 2 ^ 64) p.len with
          | .error c =>
            modify fun s => s.answered a
            failRun l a.queue a.row 2 c
          | .ok g =>
            modify fun s => s.answered a
            if ← writeSegs rq g (pktBytes p) then
              changeRun l a.queue fun r => { r with poisoned := r.poisoned || (pktBytes p).any (·.2) }
            else failRun l a.queue a.row 2 0x10
          pumpLanding l

/-- An inbound request's range against the access table of its landing, and against the host window (R375): the sub-code of
a refusal. -/
def inboundCheck (l : Nat) (r : Req) (k : Acc) (a n : Nat) : M (Option Nat) := do
  let s ← get
  match s.aclSel (0x4000 + l) r k a (a + n - 1) with
  | some c =>
    deny r k.writes a (0x4000 + l) c
    return some 0x10
  | none => if hostBase < a + n ∧ a < 2 ^ 52 then return some 0x11 else return none

/-- The segments of an inbound request, or the sub-code of its refusal (R375). -/
def inbound (l : Nat) (r : Req) (write : Bool) (a n : Nat) : M (Except Nat (List Seg)) := do
  match ← inboundCheck l r (if write then .wr else .rd) a n with
  | some c => return .error c
  | none => landSegs r write a n

/-- A packet that arrives for this part (R369, R433): nothing on a landing that is not up or is fenced; a CRC failure is
answered with code CRC. -/
def arrives (l : Nat) (p : Packet) (m : M Unit) : M Unit := do
  let s ← get
  if s.landUp l ∧ ¬ (s.link l).retrain ∧ ¬ s.flag .landFence l ∧ p.dpart.toNat = s.partId then
    if pktCrc p ≠ p.crc.toNat then sendAck p 8 0 0 else m

/-- Two packets have a line of ADDR's range in common; an element of a result has at most twice the bytes of the one that a REDUCE
carries. -/
def samePlace (p q : Packet) : Bool :=
  p.addr.toNat / 128 ≤ (q.addr.toNat + 2 * q.len) / 128 && q.addr.toNat / 128 ≤ (p.addr.toNat + 2 * p.len) / 128

/-- An accepted request is served, or kept with the address of a far-bank port that it waits for (R272, R336, R443). A REDUCE waits
behind an earlier one of its landing to the same line (R380). -/
def accepted (l : Nat) (p : Packet) (m : Req → M Unit) : M Unit := do
  let behind := p.type = 4 && ((← get).link l).inq.any fun e => e.1.type = 4 && samePlace p e.1
  keepWaiting l p (if behind then throw (.hold .issue) else m (landReq l p.world))

/-- A request that has arrived for this part is accepted; one of the Job world is refused from the end of its job's drain until the
scrub completes (R249). -/
def request (l : Nat) (p : Packet) (m : Req → M Unit) : M Unit := do
  if ¬ p.world ∧ (← get).job.drained then sendAck p 3 0x10 0 else accepted l p m

/-- The bytes of a WRITE go to memory, and the ACK back (R375). -/
def serveWrite (l : Nat) (p : Packet) (r : Req) : M Unit := do
  match ← inbound l r true p.addr.toNat p.len with
  | .error c => sendAck p 3 c 0
  | .ok g =>
    if ← writeSegs r g (pktBytes p) then sendAck p 0 0 0 else sendAck p 3 0x10 0

/-- An inbound WRITE (R375). -/
def inWrite (l : Nat) (p : Packet) : M Unit := arrives l p (request l p (serveWrite l p))

/-- The bytes of a READREQ in a READCPL, and the ACK of every case (R375; log entry 46). -/
def serveRead (l : Nat) (p : Packet) (r : Req) : M Unit := do
  match ← inbound l r false p.addr.toNat p.len with
  | .error c => sendAck p 3 c 0
  | .ok g =>
    match ← readSegs r g with
    | none => sendAck p 3 0x10 0
    | some b =>
      sendReply ((← get).mkPacket p.spart.toNat 3 p.world p.addr.toNat 0 p.tid.toNat
        (pmaskOf p.addr.toNat b) p.len (b.map (·.1)))
      sendAck p 0 0 0

/-- An inbound READREQ. -/
def inRead (l : Nat) (p : Packet) : M Unit := arrives l p (request l p (serveRead l p))

/-- Combine one element: SUM rounded to nearest even, MAX or MIN; only IV, OF and NX are raised (R73, R80, R379, R380). -/
def combine (rop f a b : Nat) : Nat × Nat :=
  let fa : Fmt := if f = 0 then .fp32 else .bf16
  let fb : Fmt := if f = 1 then .bf16 else .fp32
  let x := fa.decode a
  let y := fb.decode b
  let v := if rop = 0 then x.add false y else if rop = 1 then x.max y else x.min y
  let (c, e) := fb.fin rne 0 v
  (c, e &&& 21)

/-- Combine the elements of a packet: result bytes with poison, and conditions. -/
def combineAll (rop f : Nat) (a b : PBytes) : PBytes × Nat :=
  let na := redA f
  let nb := redB f
  let word (l : PBytes) (n i : Nat) := ofLE (((l.drop (n * i)).take n).map (·.1))
  let bad (l : PBytes) (n i : Nat) := ((l.drop (n * i)).take n).any (·.2)
  let rs := (List.range (a.length / na)).map fun i =>
    (combine rop f (word a na i) (word b nb i), bad a na i || bad b nb i)
  (rs.flatMap fun r => (toLE r.1.1 nb).map (·, r.2), rs.foldl (fun c r => c ||| r.1.2) 0)

/-- A REDUCE combines its elements with those of memory, and the ACK goes back (R375, R379, R380). It waits while a self-test
slice holds the reduction unit (R443). Reserved ROP and RFMT values come from no descriptor; such a packet is refused with
DESC_BAD (log entry 47). -/
def serveReduce (l : Nat) (p : Packet) (r : Req) : M Unit := do
  if (← get).testing 8 l then throw (.hold .issue)
  else
    let aux := p.aux.toNat
    let rop := aux / 2 ^ 52 % 16
    let f := aux / 2 ^ 56 % 8
    if 2 < rop ∨ 2 < f then sendAck p 1 0 0
    else
      let n := p.data.length / redA f * redB f
      let ba := if aux.testBit 59 then aux % 2 ^ 52 else p.addr.toNat
      match ← inbound l r false ba n with
      | .error c => sendAck p 3 c 0
      | .ok gb =>
        match ← inbound l r true p.addr.toNat n with
        | .error c => sendAck p 3 c 0
        | .ok gd =>
          match ← readSegs r gb with
          | none => sendAck p 3 0x10 0
          | some b =>
            let (res, conds) := combineAll rop f (pktBytes p) b
            if ← writeSegs r gd res then sendAck p (if res.any (·.2) then 9 else 0) 0 conds
            else sendAck p 3 0x10 0

/-- An inbound REDUCE. -/
def inReduce (l : Nat) (p : Packet) : M Unit := arrives l p (request l p (serveReduce l p))

/-- The requests that wait on a landing are tried again, in their order. -/
def retryInbound (l : Nat) : M Unit := do
  let q := ((← get).link l).inq
  modify fun s => s.setLink l { s.link l with inq := [] }
  forAll q fun e =>
    if e.1.type.toNat = 3 then readDone e.1
    else accepted l e.1 (if e.1.type.toNat = 1 then serveWrite l e.1 else if e.1.type.toNat = 2 then serveRead l e.1
      else serveReduce l e.1)

/-- What requests and descriptors of the landings wait for may have come: a port is up or has ended a request, a commit or a
self-test has ended. A scrub that waits for requests may start then (R249 step 4). -/
def landingsGo : M Unit := do
  forAll (((← get).links.filter fun e => !e.2.inq.isEmpty).map (·.1)) retryInbound
  forAll (((← get).links.filter fun e => !e.2.runs.isEmpty).map (·.1)) pumpLanding
  drainedScrub

/-- An inbound NOTIFY (R375). -/
def inNotify (l : Nat) (p : Packet) : M Unit :=
  arrives l p (request l p fun _ => do
    bumpFerry (p.addr.toNat % 64) (p.addr.toNat / 64 % 16)
    sendAck p 0 0 0)

/-- A packet that is sent on: one hop fewer, and the CRC64 over the new header. The CRC is linear, so that a packet that came with a wrong
one keeps it wrong by as much, which no forwarding part checks (R369, R372). -/
def hopOn (p : Packet) : Packet :=
  let q := { p with hops := p.hops - 1 }
  { q with crc := p.crc ^^^ BitVec.ofNat 64 (pktCrc p ^^^ pktCrc q) }

/-- A packet for another part is sent on or dropped (R372). -/
def forward (l : Nat) (p : Packet) : M Unit := do
  let s ← get
  if s.landUp l ∧ ¬ (s.link l).retrain ∧ ¬ s.flag .landFence l ∧ p.dpart.toNat ≠ s.partId then
    if p.hops = 0 then sendAck p 5 0 0
    else
      match s.route p.dpart.toNat with
      | none => sendAck p 4 0 0
      | some o => sendOn .fwd o (hopOn p)

/-- A JACK arrives: a commit that waited for it may be over, and what waited for the commit. -/
def inJack (l : Nat) (p : Packet) : M Unit := do
  arrives l p (takeJack (bit p.addr 0) (field p.addr 32 32))
  landingsGo

/-- A packet that has come whole on a landing goes to another part, or to the unit of this one that its TYPE names (R368, R372). -/
def servePacket (l : Nat) (p : Packet) : M Unit := do
  if p.dpart.toNat ≠ (← get).partId then forward l p
  else
    match p.type.toNat with
    | 1 => inWrite l p
    | 2 => inRead l p
    | 3 => arrives l p (readDone p)
    | 4 => inReduce l p
    | 5 => arrives l p (ackPacket p)
    | 6 => inNotify l p
    | 7 => arrives l p (journalPacket l p)
    | 8 => inJack l p
    | _ => skip

/-- The packet at the front of received bytes, and the bytes behind it, once it has come whole (Table: Packet header): WRITE, READCPL,
REDUCE and JOURNAL carry LEN bytes of data (Table: Packet types). -/
def unwire (b : List Byte) : Option (Packet × List Byte) :=
  let len := leAt b 6 2 % 2 ^ 13
  let type := leAt b 4 1
  let n := if type = 1 ∨ type = 3 ∨ type = 4 ∨ type = 7 then len else 0
  let pad := up8 n
  if b.length < 40 + pad then none
  else some
    (⟨BitVec.ofNat 16 (leAt b 0 2), BitVec.ofNat 16 (leAt b 2 2), BitVec.ofNat 8 type, BitVec.ofNat 6 (leAt b 5 1),
      (leAt b 5 1).testBit 6, len, BitVec.ofNat 64 (leAt b 8 8), BitVec.ofNat 64 (leAt b 0x10 8), BitVec.ofNat 32 (leAt b 0x18 4),
      BitVec.ofNat 32 (leAt b 0x1C 4), (b.drop 32).take n, BitVec.ofNat 64 (leAt b (32 + pad) 8)⟩, b.drop (40 + pad))

/-- The packets that received bytes hold are served; what follows the last of them waits for more. Where a packet would begin, four zero
bytes say that the rest of the flit is filling (log entry 23). -/
def rxPackets (l : Nat) : Nat → List Byte → M Unit
  | 0, _ => skip
  | k + 1, b =>
    if leAt b 0 4 = 0 then skip
    else
      match unwire b with
      | none => modify fun s => s.setLink l { s.link l with rx := b }
      | some (p, r) => do
        servePacket l p
        rxPackets l k r

/-- The content of an accepted DATA flit joins what has come before (R364). -/
def rxContent (l : Nat) (c : List Byte) : M Unit := do
  let b := ((← get).link l).rx ++ c
  modify fun s => s.setLink l { s.link l with rx := [] }
  rxPackets l (b.length / 40 + 1) b

/-- A DATA flit arrives (R363, R364, R366): its codeword is decoded; when it is accepted, its packets are served; and when nothing waits
to be sent then, an IDLE flit carries the ACK. A decoder's error may leave another flit than was sent, which stands as it is. -/
def takeData (l seq a : Nat) (f : DataFlit) : M Unit := do
  match ← codewordAt l f.first (linkErrs f.errs) with
  | none => skip
  | some e =>
    let b := flitXor (flitBytes 1 seq a f.content) e
    let h := leAt b 0 4
    if h / 2 ^ 24 % 8 = 1 then
      if ← dataFlit l (h % 4096) (h / 4096 % 4096) then
        rxContent l (b.drop 4)
        let x := (← get).link l
        whenM (!x.waits) (send (.idle l x.ack))

end Sys2Proof.Machine
end

