-- ==== Sys2Proof/Machine/Mgmt.lean ====
section
/-! DEFINITION. The management interfaces: MCTP and vendor messages, PLDM, SPDM, I3C common command codes, and the TAP
(R395-R402, R457, R458). Every answer is a message sent. -/

namespace Sys2Proof.Machine

/-- Interface numbers in answers. -/
def vendorIface : Nat := 1
/-- PLDM. -/
def pldmIface : Nat := 2
/-- SPDM. -/
def spdmIface : Nat := 3
/-- I3C common command codes. -/
def i3cIface : Nat := 4
/-- JTAG. -/
def tapIface : Nat := 6
/-- MCTP control. -/
def mctpIface : Nat := 7

/-- Send an answer of a code with bytes. An MCTP packet that waits on the I3C bus is told by an in-band interrupt with the data byte
0xAE, where the part has a dynamic address and ENINT is enabled (R395; log entry 172). -/
def answer (iface code : Nat) (data : List Nat) : M Unit := do
  let s ← get
  whenM ([vendorIface, pldmIface, spdmIface, mctpIface].contains iface && s.flag .mgmtstat 15 && s.mgmt.events.testBit 0)
    (send (.ibi 0xAE))
  send (.answer iface code data)

/-- Little-endian bytes of a number as numbers. -/
def leNats (v n : Nat) : List Nat := (toLE v n).map BitVec.toNat

/-- The management master (R397). -/
def mgmtReq : Req := ⟨0x160, true⟩

/-- Set Endpoint ID (R396). -/
def setEid (eid : Nat) : M Unit := do
  wrf .mgmtstat 0 8 eid
  answer mctpIface 0 [eid]

/-- An answer whose content a standard fixes and the spec does not restate (log entry 11). -/
def standard (iface cmd : Nat) : M Unit := answer iface 0 [(Config.standardReply iface cmd).toNat]

/-- A record of the incident ring as management reads it: a denied or poisoned record reads 0 (R397). -/
def readRecord (a : Nat) : M (List Byte) := do
  match ← readPhys mgmtReq a 64 with
  | .ok (b, _) => return b
  | .error _ => return List.replicate 64 0

/-- READ_INCIDENTS: records of the ring from an index (R397). -/
def readIncidents (start n : Nat) : M Unit := do
  let base := (← get).fld .incRing 18 34 * 2 ^ 18
  let out ← mapAll (List.range n) fun i => readRecord (base + (start + i) % 4096 * 64)
  answer vendorIface 0 (out.flatten.map BitVec.toNat)

/-- READ_REG: width 4 or 8; another width, or a denied access, is answered DENIED (R397). -/
def readRegister (a n : Nat) : M Unit := do
  if n ≠ 4 ∧ n ≠ 8 then answer vendorIface 1 []
  else
    match ← reach mgmtReq a n with
    | .ok b => answer vendorIface 0 (b.map BitVec.toNat)
    | .error _ => answer vendorIface 1 []

/-- WRITE_REG (R397): status 0, 1 for a denied access, 2 for a write refused under R49. -/
def writeRegister (a n : Nat) (v : W64) : M Unit := do
  if n ≠ 4 ∧ n ≠ 8 then answer vendorIface 1 []
  else
    match ← reachWrite mgmtReq a n v with
    | .done => answer vendorIface 0 []
    | .refused => answer vendorIface 2 []
    | .denied _ => answer vendorIface 1 []

/-- DEBUG_TOKEN (R397): status and the new debug level, which an accepted token names and which rises once the secrets are cleared
(R402). -/
def debugToken (t : List Byte) : M Unit := do
  let s ← get
  let ok := s.tokenOk t
  takeToken t
  answer vendorIface (b2n !ok) [if ok then leAt t 4 1 else s.fld .dbgstat 0 2]

/-- SetEventReceiver (R398). -/
def setReceiver (eid : Nat) : M Unit := do
  modify fun s => { s with mgmt := { s.mgmt with receiver := eid } }
  answer pldmIface 0 []

/-- The unit of a PLDM sensor. -/
inductive SensorUnit where
  | volt | ampere | watt | celsius | none
  deriving DecidableEq, Repr

/-- The PDR repository: sensor IDs with their units (Table: PLDM sensors). -/
def sensorPdrs : List (Nat × SensorUnit) :=
  [(1, .volt), (2, .ampere), (3, .watt), (4, .celsius), (5, .celsius), (6, .celsius), (7, .celsius), (8, .celsius), (9, .celsius),
    (10, .celsius), (11, .none)]

/-- The reading of a PLDM sensor. -/
def State.sensor (s : State) (id : Nat) : Nat := s.mgmt.sensors.getD (id - 1) 0

/-- The readings of the PLDM sensors, of which the part measures voltage and current (Table: PLDM sensors). -/
def State.readings (s : State) (v i : Nat) : List Nat :=
  [v, i, s.fld .pwrStatus 32 12] ++ (List.range 7).map (s.power.temps.getD · 0) ++ [b2n (s.flag .pwrStatus 8)]

/-- The PLDM sensors take new readings (R398). The receiver of events is told of those that changed, or not: which changes raise an
event the spec does not say, so that a free value decides (log entry 173). -/
def setSensors (l : List Nat) : M Unit := do
  let old ← get
  let v := l.getD 0 old.power.vin
  set { old with
    mgmt := { old.mgmt with sensors := old.readings v (l.getD 1 0) }
    power := { old.power with vin := v } }
  forAll sensorPdrs fun e => do
    let s ← get
    whenM (s.mgmt.receiver != 0 && s.sensor e.1 != old.sensor e.1) (do
      whenM (bit (← draw) 0) (send (.platformEvent s.mgmt.receiver e.1 (s.sensor e.1))))

/-- RequestUpdate (R399): one session at a time; in a session ALREADY_IN_UPDATE_MODE, 0x81 in DSP0267 (log entry 11). -/
def requestUpdate (ep : Nat) : M Unit := do
  if (← get).mgmt.update.isSome then answer pldmIface 0x81 []
  else
    modify fun s => { s with mgmt := { s.mgmt with update := some (ep, []) } }
    wrf .mgmtstat 19 1 1
    answer pldmIface 0 []

/-- The inactive slot of a component: the one that the selector does not name (R399, R451). -/
def State.inactive (s : State) (c : Nat) : Nat := 1 - s.slotOf c

/-- VerifyComplete for a component whose image has been transferred: it is in the inactive slot, and its signature and rollback
version are verified (R399). -/
def verifyComponent (comp : Nat) (image : List Byte) : M Unit := do
  let s ← get
  match s.mgmt.update with
  | none => answer pldmIface 1 []
  | some (ep, done) =>
    let c := comp - 1
    if comp < 1 ∨ 3 < comp ∨ compSize c < image.length then answer pldmIface 1 []
    else
      let k := s.inactive c
      let t := (s.eraseFlash (compAddr c k) (compSize c)).setFlash (compAddr c k) image
      set t
      let code := t.imgCheck (t.compBytes c k) (compReq c k)
      if code = 0 then
        modify fun s => { s with mgmt := { s.mgmt with update := some (ep, c :: done.filter (· != c)) } }
        answer pldmIface 0 []
      else
        modify fun s => { s with mgmt := { s.mgmt with update := some (ep, done.filter (· != c)) } }
        answer pldmIface 2 [code]

/-- ActivateFirmware (R399, R451): the other selector copy is written with SEQ + 1 and the verified components' slots. -/
def activate : M Unit := do
  let s ← get
  match s.mgmt.update with
  | none => answer pldmIface 1 []
  | some (_, done) =>
    let slots := (List.range 3).map fun c => if done.contains c then s.inactive c else s.slotOf c
    let (k, seq) := match s.selected with
      | some (k, n, _) => (1 - k, (n + 1) % 2 ^ 32)
      | none => (0, 1)
    let used := toLE seq 4 ++ slots.flatMap fun x => toLE x 1
    let b := used ++ List.replicate (60 - used.length) 0
    set { s.setFlash (selAddr k) (b ++ toLE (crc32c 0 b) 4) with mgmt := { s.mgmt with update := none } }
    wrf .mgmtstat 19 1 0
    answer pldmIface 0 []

/-- MGMTSTAT.SPDMREQ follows the requesters that hold state. -/
def countSpdm : M Unit := do
  wrf .mgmtstat 20 3 (← get).mgmt.spdm.length

/-- SPDM error codes: Busy, UnexpectedRequest, InvalidRequest, UnsupportedRequest. -/
inductive SpdmErr where
  | busy | unexpected | invalid | unsupported
  deriving DecidableEq, Repr

/-- The ErrorCode that DSP0274 gives an error (log entry 11). -/
def SpdmErr.code : SpdmErr → Nat
  | .busy => 3
  | .unexpected => 4
  | .invalid => 1
  | .unsupported => 7

/-- Answer with an SPDM ERROR. -/
def spdmError (e : SpdmErr) : M Unit := answer spdmIface e.code []

/-- A request of an SPDM endpoint (R400): GET_VERSION gives it state, a fifth requester is told Busy, and other requests need
state that was negotiated. -/
def spdm (ep : Nat) (needs : Bool) (m : M Unit) : M Unit := do
  let s ← get
  match aget s.mgmt.spdm ep with
  | some ok => if needs && !ok then spdmError .unexpected else m
  | none => if 4 ≤ s.mgmt.spdm.length then spdmError .busy else if needs then spdmError .unexpected else m

/-- GET_VERSION: the requester's state starts afresh (R400). -/
def spdmVersion (ep : Nat) : M Unit := do
  modify fun s => { s with mgmt := { s.mgmt with spdm := aput s.mgmt.spdm ep false } }
  countSpdm
  answer spdmIface 0 [0x12, 0x13]

/-- NEGOTIATE_ALGORITHMS (R400): ML-DSA-65 and SHAKE256 are selected where the requester offers them. -/
def spdmNegotiate (ep : Nat) (mldsa shake : Bool) : M Unit := do
  modify fun s => { s with mgmt := { s.mgmt with spdm := aput s.mgmt.spdm ep (mldsa && shake) } }
  countSpdm
  answer spdmIface 0 [b2n mldsa, b2n shake]

/-- A certificate chain: slot 0 the identity chain, slot 1 the owner chain (R400, R450). -/
def State.chain (s : State) (slot : Nat) : List Byte :=
  if slot = 0 then s.flashBytes 0x1_0000 0xF_0000 else s.flashBytes 0x203_0000 0x3_0000

/-- GET_DIGESTS (R400). -/
def spdmDigests : M Unit := do
  let s ← get
  answer spdmIface 0 ((digestBytes (shake512 (s.chain 0)) ++ digestBytes (shake512 (s.chain 1))).map
    BitVec.toNat)

/-- GET_CERTIFICATE (R400). -/
def spdmCert (slot off n : Nat) : M Unit := do
  if 1 < slot then spdmError .invalid
  else answer spdmIface 0 ((((← get).chain slot).drop off |>.take n).map BitVec.toNat)

/-- Measurement 5: owner state, level, FALLBACK and DEGRADED bits, a zero byte, RC0 to RC3 (Table: Measurements). -/
def State.measure5 (s : State) : List Byte :=
  toLE (s.fld .bootStatus 9 2) 1 ++ toLE (s.fld .dbgstat 0 2) 1
    ++ toLE (s.sec.fallback % 4 + 4 * b2n (s.flag .structStatus 16) + 8 * b2n (s.flag .structStatus 18)) 1 ++ toLE 0 1
    ++ (List.range 4).flatMap fun k => toLE (s.sec.rpmc.getD k 0) 4

/-- The measurements (Table: Measurements). -/
def State.measurement (s : State) (i : Nat) : List Byte :=
  match i with
  | 1 => digestBytes Config.romDigest
  | 2 => digestBytes s.sec.bootDigest
  | 3 => digestBytes s.sec.svcDigest
  | 4 => (List.range 8).flatMap fun k => toLE (s.reg (.structDigest k)).toNat 8
  | 5 => s.measure5
  | 6 => digestBytes s.sec.owner
  | _ => []

/-- A signed answer: ERROR once the identity key is cleared (R444). -/
def spdmSigned (body : List Byte) : M Unit := do
  if (← get).sec.keysGone then spdmError .unsupported
  else answer spdmIface 0 ((body ++ Config.mldsaSign identityKeys.2 body).map BitVec.toNat)

/-- The capability flags CERT_CAP, CHAL_CAP, MEAS_CAP = 2 and SET_CERT_CAP (R400), at their places in DSP0274 (log entry 11). -/
def spdmCaps : Nat := 1 <<< 1 + 1 <<< 2 + 2 <<< 3 + 1 <<< 19

/-- A measurement as a DMTF measurement block: index, specification, size, type, value size and value (R457). The type says a raw bit
stream for index 5 and a digest else; what kind of thing was measured the spec does not say (log entry 174). -/
def State.measureBlock (s : State) (i : Nat) : List Byte :=
  let v := s.measurement i
  toLE i 1 ++ toLE 1 1 ++ toLE (v.length + 3) 2 ++ toLE ((Config.measureKind i).toNat + b2n (i = 5) <<< 7) 1 ++ toLE v.length 2 ++ v

/-- The blocks of a MEASUREMENTS answer, with their number and their length (R457). -/
def measureRecord (n : Nat) (b : List Byte) : List Byte := toLE n 1 ++ toLE b.length 3 ++ b

/-- CHALLENGE (R400). -/
def spdmChallenge (slot : Nat) (nonce : List Byte) : M Unit := do
  if slot ≠ 0 then spdmError .invalid
  else spdmSigned (digestBytes (shake512 ((← get).chain 0)) ++ nonce)

/-- GET_MEASUREMENTS: one block by its index, or all with index 0xFF; index 0 asks for their number (R457). -/
def spdmMeasure (i : Nat) : M Unit := do
  let s ← get
  if i = 0 then answer spdmIface 0 [6]
  else if i = 0xFF then spdmSigned (measureRecord 6 ((List.range 6).flatMap fun k => s.measureBlock (k + 1)))
  else if 6 < i then spdmError .invalid
  else spdmSigned (measureRecord 1 (s.measureBlock i))

/-- SET_CERTIFICATE, of version 1.3: the owner chain of slot 1 (R400). -/
def spdmSetCert (v13 : Bool) (chain : List Byte) : M Unit := do
  if ¬ v13 then spdmError .unsupported
  else if 0x3_0000 < chain.length then spdmError .invalid
  else
    modify fun s => (s.eraseFlash 0x203_0000 0x3_0000).setFlash 0x203_0000 chain
    answer spdmIface 0 []

/-- A requester's state expires (R400). -/
def spdmExpire (ep : Nat) : M Unit := do
  modify fun s => { s with mgmt := { s.mgmt with spdm := adel s.mgmt.spdm ep } }
  countSpdm

/-- ENEC and DISEC: events enabled or disabled (R395). -/
def setEvents (f : Nat → Nat) : M Unit := do
  modify fun s => { s with mgmt := { s.mgmt with events := f s.mgmt.events } }
  answer i3cIface 0 []

/-- The I3C dynamic address (R395). -/
def setDaddr (a : Option Nat) : M Unit := do
  wrf .mgmtstat 8 7 (a.getD 0)
  wrf .mgmtstat 15 1 (b2n a.isSome)
  answer i3cIface 0 []

/-- SETDASA names the part by its static address 0x48 + MADDR (R395). -/
def setDasa (static a : Nat) : M Unit := do
  let s ← get
  if static = 0x48 + s.fld .mgmtstat 16 3 ∧ ¬ s.flag .mgmtstat 15 then setDaddr (some a)

/-- ENTDAA gives an address to a part without one (R395). -/
def entDaa (a : Nat) : M Unit := do
  if ¬ (← get).flag .mgmtstat 15 then setDaddr (some a)

/-- The Provisional ID (R395). -/
def provisionalId : Nat :=
  0x1A5C <<< 33 + 1 <<< 32 + (shake512 identityKeys.1).toNat % 2 ^ 32

/-- A TAP instruction that needs a debug level; without it the instruction behaves as BYPASS (R402). -/
def tapAt (level op : Nat) (m : M Unit) : M Unit := do
  if level ≤ (← get).fld .dbgstat 0 2 then
    modify fun s => { s with mgmt := { s.mgmt with tap := op } }
    m
  else modify fun s => { s with mgmt := { s.mgmt with tap := 0xFF } }

/-- DBG_TOKEN: a frame is shifted in while the nonce is shifted out; the seventh completes the token (R458). -/
def tokenFrame (frame : List Byte) : M Unit := do
  let s ← get
  answer tapIface 0 ((List.range 4).flatMap fun k => leNats (s.reg (.dbgNonce k)).toNat 8)
  let l := s.sec.frames ++ frame
  if l.length < 7 * 512 then modify fun s => { s with sec := { s.sec with frames := l } }
  else
    modify fun s => { s with sec := { s.sec with frames := [] } }
    if zeros (l.drop 3376) then takeToken (l.take 3376) else
      drawNonce
      refuseToken 2

/-- DBG_ACCESS: a register or memory access as the boot processor (R402). -/
def debugAccess (a : Nat) (wr : Bool) (n : Nat) (v : W64) : M Unit := do
  let r : Req := ⟨0x180, true⟩
  if wr then
    let _ ← reachWrite r a n v
    answer tapIface 0 []
  else
    match ← reach r a n with
    | .ok b => answer tapIface 0 (b.map BitVec.toNat)
    | .error _ => answer tapIface 0 (leNats 0 n)

/-- SCAN: what the scan chains hold is a free value (R402; log entry 11). -/
def scanChains : M Unit := do
  answer tapIface 0 [(← draw).toNat]

end Sys2Proof.Machine
end

