-- ==== Sys2Proof/Machine/BlockRows.lean ====
section
/-! DEFINITION. One meaning per row of the block outside the instruction set: register commands, queues and jobs, ferries,
memory tiers, translation, epochs, tide, self-test, landings, the host port, management, boot and power. -/

namespace Sys2Proof.Machine

/-- CFG_CTRL is written with QREQ 1 and HOLD as it stands (R48). -/
def quietRequest (r : Req) (b : Blk) : M Unit := do
  writeReg r (.cfgCtrl b) (2 + (← get).fld (.cfgCtrl b) 0 1)

/-- FB_CTRL_p is written with CLR 1 and TIMEOUT as it stands (R272). -/
def clearPortErr (r : Req) (p : Nat) : M Unit := do
  writeReg r (.fbCtrl p) (1024 + (← get).fld (.fbCtrl p) 0 10)

/-- RERIG_DONE: every matrix instruction accepted earlier has completed (R166), and the schedule of self-tests follows the
blocks present (R442). -/
def rerigIsDone (us : Nat) (failed : List UnitRef) : M Unit := do
  let s ← get
  if s.trees.any fun (e : Nat × TreeSt) => e.2.sb.any fun x => 4 ≤ x.work.eng then skip
  else
    endRerig us failed
    noteCycle

/-- An entry of the tide table fires and acts (R350-R353). -/
def fires (i act : Nat) (m : M Unit) : M Unit := do
  if ← ttFire i act ((← get).bistNumber i) then m

/-- DCHECK: a condition that is false at fire is a miss (R354, R355). -/
def deadlineCheck (i : Nat) : M Unit := do
  let s ← get
  whenM (!s.ttCheck i) (ttMiss i 7 (s.ttTime i))

/-- EVENT: a TIDE_EVENT on the entry's queue (Table: Tide actions). -/
def tideEvent (i : Nat) : M Unit := do
  let s ← get
  event (s.ttField i 3 0 10) 0x0031 (s.ttField i 3 16 16) (BitVec.ofNat 64 (s.ttField i 2 0 64)) (BitVec.ofNat 64 i)

/-- A landing in TRAINING or DOWN tries to train again; it may find no peer (R362). -/
def trainAgain (l : Nat) (peer : Option PeerInfo) : M Unit :=
  match peer with
  | some p => tryTrain l p
  | none => skip

/-- A landing in TRAINING has found its peer (R360). -/
def trainFirst (l : Nat) (p : PeerInfo) : M Unit := do
  whenM ((← get).landState l == 1) (trained l p)

/-- NEGOTIATE_ALGORITHMS follows GET_VERSION (R400; log entry 11). -/
def negotiate (ep : Nat) (mldsa shake : Bool) : M Unit := do
  if (aget (← get).mgmt.spdm ep).isSome then spdmNegotiate ep mldsa shake else spdmError .unexpected

/-- SETMWL (R395). -/
def setWriteLen (n : Nat) : M Unit := do
  modify fun s => { s with mgmt := { s.mgmt with mwl := n } }
  answer i3cIface 0 []

/-- SETMRL (R395). -/
def setReadLen (n : Nat) : M Unit := do
  modify fun s => { s with mgmt := { s.mgmt with mrl := n } }
  answer i3cIface 0 []

/-- The boundary-scan cells that SAMPLE/PRELOAD captures: pin levels that the spec does not give (R402; log entry 9). -/
def boundaryScan : M Unit := do
  answer tapIface 0 [(← draw).toNat]

/-- What the module's power controller and its monitors do while the rails are up (R469, R475). -/
def onPower (m : M Unit) : M Unit := do
  if (← get).power.on then m

/-- A write of a command register whose action the request itself names: judged and stored as every write (R5, R49). -/
def gated (r : Req) (g : Reg) (v : Nat) (m : M Unit) : M Unit := do
  if (← get).hostMute r then skip
  else
    match ← regCheck r .wr g.addr (g.width / 8) with
    | .ok (some (b, g)) =>
      let x := BitVec.ofNat 64 v
      match (← get).refusal g x with
      | some c => refuse b g.addr c
      | none =>
        storeReg g x
        m
    | _ => skip

/-- RUN (R250). -/
def execRun (q : Fin 2048) (s : State) : Host.Outcome State Fault Refusal :=
  run (withRegs (dispatchRun q)) s

/-- BARRIER (R243). -/
def execBarrier (q : Fin 2048) (s : State) : Host.Outcome State Fault Refusal :=
  run (withRegs (dispatchBarrier q)) s

/-- BARRIER_CLEAR (R243). -/
def execBarrierClear (q : Fin 2048) (s : State) : Host.Outcome State Fault Refusal :=
  run (clearBarrier q) s

/-- SIGNAL (R243). -/
def execSignal (q : Fin 2048) (s : State) : Host.Outcome State Fault Refusal :=
  run (withRegs (dispatchSignal q)) s

/-- EVENTS_LOST (R244). -/
def execEventsLost (e : Fin 1024) (s : State) : Host.Outcome State Fault Refusal :=
  run (writeLost (0x1C00 + e)) s

/-- QUEUE_ERROR (R241). -/
def execQueueError (q : Fin 8192) (s : State) : Host.Outcome State Fault Refusal :=
  run (do
    whenM (← seqMismatch q) (stopQueue q 2)) s

/-- DOORBELL_TAIL (R246). -/
def execDoorbellTail (r : Req) (q : Fin 8192) (width : Nat) (v : BitVec 64) (s : State) :
    Host.Outcome State Fault Refusal :=
  run (do
    let _ ← regBusWrite r (Reg.doorbell q).addr width v) s

/-- DOORBELL_HEAD (R246). -/
def execDoorbellHead (r : Req) (q : Fin 8192) (width : Nat) (v : BitVec 64) (s : State) :
    Host.Outcome State Fault Refusal :=
  run (do
    let _ ← regBusWrite r (Reg.doorbell q).addr width v) s

/-- JOB_START (R248). -/
def execJobStart (r : Req) (s : State) : Host.Outcome State Fault Refusal :=
  run (writeReg r .jobCtrl 1) s

/-- JOB_END (R248). -/
def execJobEnd (r : Req) (s : State) : Host.Outcome State Fault Refusal :=
  run (writeReg r .jobCtrl 2) s

/-- JOB_END_DRAIN (R249). -/
def execJobEndDrain (s : State) : Host.Outcome State Fault Refusal :=
  run (drainJob) s

/-- JOB_END_SCRUB (R460). -/
def execJobEndScrub (us : Nat) (s : State) : Host.Outcome State Fault Refusal :=
  run (endScrub us) s

/-- FAR_SCRUB_DONE (R391). -/
def execFarScrubDone (us : Nat) (s : State) : Host.Outcome State Fault Refusal :=
  run (scrubFar us) s

/-- RERIG_CMD_GO (R39). -/
def execRerigCmdGo (r : Req) (s : State) : Host.Outcome State Fault Refusal :=
  run (writeReg r .rerigCmd 1) s

/-- RERIG_DONE (R39). -/
def execRerigDone (us : Nat) (failed : List UnitRef) (s : State) : Host.Outcome State Fault Refusal :=
  run (rerigIsDone us failed) s

/-- CFG_HOLD (R47). -/
def execCfgHold (r : Req) (b : Blk) (hold : Bool) (s : State) : Host.Outcome State Fault Refusal :=
  run (writeReg r (.cfgCtrl b) (b2n hold)) s

/-- QREQ (R48). -/
def execQreq (r : Req) (b : Blk) (s : State) : Host.Outcome State Fault Refusal :=
  run (quietRequest r b) s

/-- QUIESCENT_APPLY (R46). -/
def execQuiescentApply (b : Blk) (sub : Fin 64) (s : State) : Host.Outcome State Fault Refusal :=
  run (quiesce b sub) s

/-- CFG_CLEAR (R49). -/
def execCfgClear (r : Req) (b : Blk) (s : State) : Host.Outcome State Fault Refusal :=
  run (writeReg r (.cfgClear b) 1) s

/-- REGISTER_WRITE (R5). -/
def execRegisterWrite (r : Req) (addr : BitVec 52) (width : Nat) (v : BitVec 64) (s : State) :
    Host.Outcome State Fault Refusal :=
  run (busWriteReg r addr.toNat width v) s

/-- TELEM_CLR (R83). -/
def execTelemClr (r : Req) (v : BitVec 64) (s : State) : Host.Outcome State Fault Refusal :=
  run (writeReg r .telemClr v.toNat) s

/-- HW_ERRCLR (R121). -/
def execHwErrclr (r : Req) (tree : Fin 64) (s : State) : Host.Outcome State Fault Refusal :=
  run (writeReg r (.hwErrclr tree) 1) s

/-- MX_TALLY_CLR (R162). -/
def execMxTallyClr (r : Req) (tree : Fin 64) (s : State) : Host.Outcome State Fault Refusal :=
  run (writeReg r (.mxTallyClr tree) 1) s

/-- VU_PASSES_CLR (R212). -/
def execVuPassesClr (r : Req) (tree : Fin 64) (s : State) : Host.Outcome State Fault Refusal :=
  run (writeReg r (.vuPassesClr tree) 1) s

/-- SE_CLR (R227). -/
def execSeClr (r : Req) (tree : Fin 64) (s : State) : Host.Outcome State Fault Refusal :=
  run (writeReg r (.seClr tree) 1) s

/-- FERRY_DONE_WRITE (R237). -/
def execFerryDoneWrite (r : Req) (tree : Fin 64) (k : Fin 16) (v : BitVec 32) (s : State) :
    Host.Outcome State Fault Refusal :=
  run (writeReg r (.ferryDone tree k) v.toNat) s

/-- MANIFEST (R283). -/
def execManifest (f : Fin 64) (n : Fin 64) (s : State) : Host.Outcome State Fault Refusal :=
  run (withRegs (startManifest f n)) s

/-- COPY (R285). -/
def execCopy (f : Fin 64) (s : State) : Host.Outcome State Fault Refusal :=
  run (withRegs (runDesc f 1)) s

/-- FILL (R285). -/
def execFill (f : Fin 64) (s : State) : Host.Outcome State Fault Refusal :=
  run (withRegs (runDesc f 2)) s

/-- CHECK (R287). -/
def execCheck (f : Fin 64) (s : State) : Host.Outcome State Fault Refusal :=
  run (withRegs (runDesc f 3)) s

/-- FERRY_DONE (R289). -/
def execFerryDone (f : Fin 64) (s : State) : Host.Outcome State Fault Refusal :=
  run (withRegs (endManifest f)) s

/-- NB_REFRESH (R264). -/
def execNbRefresh (c : Fin 48) (s : State) : Host.Outcome State Fault Refusal :=
  run (refreshNb c) s

/-- NB_PATROL_SCRUB (R265). -/
def execNbPatrolScrub (c : Fin 48) (tags : List TagErr) (finds : NearFinds) (s : State) :
    Host.Outcome State Fault Refusal :=
  run (patrolNb c tags finds) s

/-- NB_RETRAIN_DONE (R267). -/
def execNbRetrainDone (c : Fin 48) (ok : Bool) (s : State) : Host.Outcome State Fault Refusal :=
  run (retrainNb c ok) s

/-- HW_PATROL_SCRUB (R123). -/
def execHwPatrolScrub (tree : Fin 64) (errs : List HeartErr) (s : State) : Host.Outcome State Fault Refusal :=
  run (patrolHw tree errs) s

/-- HW_CORRECT_WRITEBACK (R121). -/
def execHwCorrectWriteback (tree : Fin 64) (bank : Fin 32) (row : Fin 1024) (w : WriteBack) (s : State) :
    Host.Outcome State Fault Refusal :=
  run (writebackHw tree bank row w) s

/-- CANOPY_FILL (R276). -/
def execCanopyFill (g : Fin 8) (fill : CanFill) (s : State) : Host.Outcome State Fault Refusal :=
  run (fillCanopy g fill) s

/-- CLEAN (R279). -/
def execClean (r : Req) (g : Fin 8) (scope : Bool) (s : State) : Host.Outcome State Fault Refusal :=
  run (writeReg r (.cmoCmd g) (8 + 4 * b2n scope)) s

/-- INVAL (R279). -/
def execInval (r : Req) (g : Fin 8) (scope : Bool) (s : State) : Host.Outcome State Fault Refusal :=
  run (writeReg r (.cmoCmd g) (9 + 4 * b2n scope)) s

/-- CLINV (R279). -/
def execClinv (r : Req) (g : Fin 8) (scope : Bool) (s : State) : Host.Outcome State Fault Refusal :=
  run (writeReg r (.cmoCmd g) (10 + 4 * b2n scope)) s

/-- CLINV_ALL (R279). -/
def execClinvAll (r : Req) (g : Fin 8) (scope : Bool) (s : State) : Host.Outcome State Fault Refusal :=
  run (writeReg r (.cmoCmd g) (11 + 4 * b2n scope)) s

/-- CMO_DONE (R279). -/
def execCmoDone (g : Fin 8) (s : State) : Host.Outcome State Fault Refusal :=
  run (endCmo g) s

/-- FB_LINK_UP (R270). -/
def execFbLinkUp (p : Fin 4) (caps : List Nat) (s : State) : Host.Outcome State Fault Refusal :=
  run (do
    upFb p caps
    landingsGo) s

/-- FB_LINK_LOSS (R272). -/
def execFbLinkLoss (p : Fin 4) (s : State) : Host.Outcome State Fault Refusal :=
  run (lossFb p) s

/-- VIRAL (R272). -/
def execViral (p : Fin 4) (s : State) : Host.Outcome State Fault Refusal :=
  run (viralFb p) s

/-- FB_TIMEOUT (R272). -/
def execFbTimeout (p : Fin 4) (k : Nat) (s : State) : Host.Outcome State Fault Refusal :=
  run (do
    timeoutFb p k
    landingsGo) s

/-- FB_ERR_CLR (R272). -/
def execFbErrClr (r : Req) (p : Fin 4) (s : State) : Host.Outcome State Fault Refusal :=
  run (clearPortErr r p) s

/-- NB_CLR (R266). -/
def execNbClr (r : Req) (c : Fin 48) (s : State) : Host.Outcome State Fault Refusal :=
  run (writeReg r (.nbClr (c / 6) (c % 6)) 1) s

/-- FY_CLR (R283). -/
def execFyClr (r : Req) (f : Fin 64) (s : State) : Host.Outcome State Fault Refusal :=
  run (writeReg r (.fyClr (f / 8) (f % 8)) 1) s

/-- TLB_INV_RANGE (R301). -/
def execTlbInvRange (r : Req) (world : Bool) (s : State) : Host.Outcome State Fault Refusal :=
  run (writeReg r .tlbInvCmd (8 + 4 * b2n world)) s

/-- TLB_INV_WORLD (R301). -/
def execTlbInvWorld (r : Req) (world : Bool) (s : State) : Host.Outcome State Fault Refusal :=
  run (writeReg r .tlbInvCmd (9 + 4 * b2n world)) s

/-- TLB_INV_ALL (R301). -/
def execTlbInvAll (r : Req) (s : State) : Host.Outcome State Fault Refusal :=
  run (writeReg r .tlbInvCmd 10) s

/-- TLB_INV_DONE (R301). -/
def execTlbInvDone (s : State) : Host.Outcome State Fault Refusal :=
  run (endInv) s

/-- ATS_INVALIDATE_REQUEST (R305). -/
def execAtsInvalidateRequest (base size : BitVec 64) (s : State) : Host.Outcome State Fault Refusal :=
  run (atsInvalidate base.toNat size.toNat) s

/-- TRANSLATION_COMPLETION (R303). -/
def execTranslationCompletion (k : Nat) (hpa size : BitVec 64) (rd wr : Bool) (s : State) :
    Host.Outcome State Fault Refusal :=
  run (atsDone k hpa.toNat size.toNat rd wr) s

/-- PRG_RESPONSE (R305). -/
def execPrgResponse (k : Nat) (code : PrgCode) (s : State) : Host.Outcome State Fault Refusal :=
  run (prgDone k code) s

/-- PRI_WAIT_EXPIRY (R305). -/
def execPriWaitExpiry (k : Nat) (s : State) : Host.Outcome State Fault Refusal :=
  run (prgExpired k) s

/-- ACC_RULE_COMMIT (R310). -/
def execAccRuleCommit (r : Req) (b : Blk) (k : Fin 21) (n : Fin 64) (v : BitVec 64) (s : State) :
    Host.Outcome State Fault Refusal :=
  run (writeReg r (.accRule b k n 3) v.toNat) s

/-- ACC_DENY_CLR (R311). -/
def execAccDenyClr (r : Req) (s : State) : Host.Outcome State Fault Refusal :=
  run (writeReg r .accDenyClr 1) s

/-- LOAD (R319). -/
def execLoad (r : Req) (s : State) : Host.Outcome State Fault Refusal :=
  run (writeReg r .epCmd 1) s

/-- UNLOAD (R319). -/
def execUnload (r : Req) (s : State) : Host.Outcome State Fault Refusal :=
  run (writeReg r .epCmd 2) s

/-- COMMIT (R336). -/
def execCommit (r : Req) (s : State) : Host.Outcome State Fault Refusal :=
  run (writeReg r .epCmd 4) s

/-- CANCEL (R336). -/
def execCancel (r : Req) (s : State) : Host.Outcome State Fault Refusal :=
  run (writeReg r .epCmd 16) s

/-- RESYNC (R340). -/
def execResync (r : Req) (s : State) : Host.Outcome State Fault Refusal :=
  run (writeReg r .epCmd 8) s

/-- COMMIT_FLIP (R336). -/
def execCommitFlip (s : State) : Host.Outcome State Fault Refusal :=
  run (do
    commitGo
    landingsGo) s

/-- COMMIT_DRAIN_TIMEOUT (R336). -/
def execCommitDrainTimeout (s : State) : Host.Outcome State Fault Refusal :=
  run (do
    drainTimeout
    landingsGo) s

/-- JOURNAL_TIMEOUT (R340). -/
def execJournalTimeout (s : State) : Host.Outcome State Fault Refusal :=
  run (do
    journalTimedOut
    landingsGo) s

/-- TIDE_MARK (R345). -/
def execTideMark (s : State) : Host.Outcome State Fault Refusal :=
  run (tideMarkEdge) s

/-- BEACON_SEND (R347). -/
def execBeaconSend (s : State) : Host.Outcome State Fault Refusal :=
  run (sendBeacons) s

/-- BEACON_LOSS (R349). -/
def execBeaconLoss (l : Fin 16) (s : State) : Host.Outcome State Fault Refusal :=
  run (beaconLost l) s

/-- HOLDOVER_EXPIRY (R349). -/
def execHoldoverExpiry (s : State) : Host.Outcome State Fault Refusal :=
  run (holdoverEnds) s

/-- TIDE_SET (R344). -/
def execTideSet (r : Req) (v : BitVec 64) (s : State) : Host.Outcome State Fault Refusal :=
  run (writeReg r .tideSet v.toNat) s

/-- STEP_ORIGIN (R356). -/
def execStepOrigin (r : Req) (v : BitVec 64) (s : State) : Host.Outcome State Fault Refusal :=
  run (writeReg r .stepOrigin v.toNat) s

/-- STEP_ADVANCE (R356). -/
def execStepAdvance (s : State) : Host.Outcome State Fault Refusal :=
  run (originStep) s

/-- TT_ENTRY_COMMIT (R352). -/
def execTtEntryCommit (r : Req) (e : Fin 512) (v : BitVec 64) (s : State) : Host.Outcome State Fault Refusal :=
  run (writeReg r (.ttEntry e 3) v.toNat) s

/-- TT_EN (R351). -/
def execTtEn (r : Req) (en : Bool) (s : State) : Host.Outcome State Fault Refusal :=
  run (writeReg r .ttCtrl (b2n en)) s

/-- TT_CLR (R353). -/
def execTtClr (r : Req) (s : State) : Host.Outcome State Fault Refusal :=
  run (writeReg r .ttClr 1) s

/-- QSTART (R350). -/
def execQstart (e : Fin 512) (s : State) : Host.Outcome State Fault Refusal :=
  run (fires e 1 (do ttStart ((← get).ttQueues e))) s

/-- CWOPEN (R350). -/
def execCwopen (e : Fin 512) (s : State) : Host.Outcome State Fault Refusal :=
  run (fires e 2 (setWindow true)) s

/-- CWCLOSE (R357). -/
def execCwclose (e : Fin 512) (s : State) : Host.Outcome State Fault Refusal :=
  run (fires e 3 (setWindow false)) s

/-- BIST (R441). -/
def execBist (e : Fin 512) (s : State) : Host.Outcome State Fault Refusal :=
  run (fires e 4 (do bistStart ((← get).ttField e 2 0 64))) s

/-- REFRESH (R264). -/
def execRefresh (e : Fin 512) (s : State) : Host.Outcome State Fault Refusal :=
  run (fires e 5 (do ttRefresh ((← get).ttField e 2 0 48))) s

/-- COLLECT (R350). -/
def execCollect (e : Fin 512) (s : State) : Host.Outcome State Fault Refusal :=
  run (fires e 6 (do ttStart ((← get).ttQueues e))) s

/-- DCHECK (R354). -/
def execDcheck (e : Fin 512) (s : State) : Host.Outcome State Fault Refusal :=
  run (fires e 7 (deadlineCheck e)) s

/-- EVENT (R350). -/
def execEvent (e : Fin 512) (s : State) : Host.Outcome State Fault Refusal :=
  run (fires e 8 (tideEvent e)) s

/-- TIDE_MISS (R355). -/
def execTideMiss (e : Fin 512) (s : State) : Host.Outcome State Fault Refusal :=
  run (ttDeadline e) s

/-- BIST_SLICE_RUN (R443). -/
def execBistSliceRun (res : BistResult) (s : State) : Host.Outcome State Fault Refusal :=
  run (do
    bistRun res
    landingsGo) s

/-- BIST_SLICE_ABANDON (R443). -/
def execBistSliceAbandon (s : State) : Host.Outcome State Fault Refusal :=
  run (do
    bistAbandon
    landingsGo) s

/-- BIST_CYCLE_LATE (R442). -/
def execBistCycleLate (s : State) : Host.Outcome State Fault Refusal :=
  run (bistLate) s

/-- LANDING_TRAIN (R360). -/
def execLandingTrain (l : Fin 16) (peer : PeerInfo) (s : State) : Host.Outcome State Fault Refusal :=
  run (trainFirst l peer) s

/-- LANDING_TRAIN_RETRY (R362). -/
def execLandingTrainRetry (l : Fin 16) (peer : Option PeerInfo) (s : State) : Host.Outcome State Fault Refusal :=
  run (trainAgain l peer) s

/-- RETRAIN (R360). -/
def execRetrain (r : Req) (l : Fin 16) (s : State) : Host.Outcome State Fault Refusal :=
  run (writeReg r (.landCtrl l) 1) s

/-- LAND_CLR (R366). -/
def execLandClr (r : Req) (l : Fin 16) (s : State) : Host.Outcome State Fault Refusal :=
  run (writeReg r (.landCtrl l) 2) s

/-- LAND_UNFENCE (R433). -/
def execLandUnfence (r : Req) (l : Fin 16) (s : State) : Host.Outcome State Fault Refusal :=
  run (writeReg r .landUnfence (2 ^ l.val)) s

/-- LANE_LOSS (R361). -/
def execLaneLoss (l : Fin 16) (lane : Fin 4) (s : State) : Host.Outcome State Fault Refusal :=
  run (loseLane l lane) s

/-- DATA (R366). -/
def execData (l : Fin 16) (seq ack : BitVec 12) (f : DataFlit) (s : State) :
    Host.Outcome State Fault Refusal :=
  run (takeData l seq.toNat ack.toNat f) s

/-- NAK (R366). -/
def execNak (l : Fin 16) (ack : BitVec 12) (s : State) : Host.Outcome State Fault Refusal :=
  run (nakFlit l ack.toNat) s

/-- BEACON (R348). -/
def execBeacon (l : Fin 16) (b : BeaconMsg) (s : State) : Host.Outcome State Fault Refusal :=
  run (takeBeacon l b) s

/-- TRAIN (R360). -/
def execTrain (l : Fin 16) (peer : TrainInfo) (s : State) : Host.Outcome State Fault Refusal :=
  run (trainFlit l peer) s

/-- IDLE (R364). -/
def execIdle (l : Fin 16) (ack : BitVec 12) (s : State) : Host.Outcome State Fault Refusal :=
  run (idleFlit l ack.toNat) s

/-- REPLAY (R366). -/
def execReplay (l : Fin 16) (s : State) : Host.Outcome State Fault Refusal :=
  run (replayLanding l) s

/-- PACKET_FORWARD (R372). -/
def execPacketForward (l : Fin 16) (p : Packet) (s : State) : Host.Outcome State Fault Refusal :=
  run (forward l p) s

/-- PKT_WRITE (R375). -/
def execPktWrite (l : Fin 16) (p : Packet) (s : State) : Host.Outcome State Fault Refusal :=
  run (inWrite l p) s

/-- READREQ (R375). -/
def execReadreq (l : Fin 16) (p : Packet) (s : State) : Host.Outcome State Fault Refusal :=
  run (inRead l p) s

/-- READCPL (R377). -/
def execReadcpl (l : Fin 16) (p : Packet) (s : State) : Host.Outcome State Fault Refusal :=
  run (arrives l p (readDone p)) s

/-- PKT_REDUCE (R379). -/
def execPktReduce (l : Fin 16) (p : Packet) (s : State) : Host.Outcome State Fault Refusal :=
  run (inReduce l p) s

/-- ACK (R377). -/
def execAck (l : Fin 16) (p : Packet) (s : State) : Host.Outcome State Fault Refusal :=
  run (arrives l p (ackPacket p)) s

/-- NOTIFY (R375). -/
def execNotify (l : Fin 16) (p : Packet) (s : State) : Host.Outcome State Fault Refusal :=
  run (inNotify l p) s

/-- JOURNAL (R339). -/
def execJournal (l : Fin 16) (p : Packet) (s : State) : Host.Outcome State Fault Refusal :=
  run (arrives l p (journalPacket l p)) s

/-- JACK (R383). -/
def execJack (l : Fin 16) (p : Packet) (s : State) : Host.Outcome State Fault Refusal :=
  run (inJack l p) s

/-- LAND_WRITE (R373). -/
def execLandWrite (l : Fin 16) (n : Fin 64) (s : State) : Host.Outcome State Fault Refusal :=
  run (startRun l n 1) s

/-- LAND_READ (R373). -/
def execLandRead (l : Fin 16) (n : Fin 64) (s : State) : Host.Outcome State Fault Refusal :=
  run (startRun l n 2) s

/-- REDUCE (R379). -/
def execReduce (l : Fin 16) (n : Fin 64) (s : State) : Host.Outcome State Fault Refusal :=
  run (startRun l n 3) s

/-- REDUCE_COPY (R379). -/
def execReduceCopy (l : Fin 16) (n : Fin 64) (s : State) : Host.Outcome State Fault Refusal :=
  run (startRun l n 4) s

/-- LAND_DONE (R377). -/
def execLandDone (l : Fin 16) (n : Fin 64) (s : State) : Host.Outcome State Fault Refusal :=
  run (withRegs (endRun l n)) s

/-- LAND_ERROR (R378). -/
def execLandError (l : Fin 16) (n : Fin 64) (s : State) : Host.Outcome State Fault Refusal :=
  run (withRegs (endFailed l n)) s

/-- LAND_PACKET_TIMEOUT (R378). -/
def execLandPacketTimeout (l : Fin 16) (tid : BitVec 32) (s : State) : Host.Outcome State Fault Refusal :=
  run (packetTimeout l tid.toNat) s

/-- FLR (R391). -/
def execFlr (s : State) : Host.Outcome State Fault Refusal :=
  run (hostReset) s

/-- HOT_RESET (R391). -/
def execHotReset (s : State) : Host.Outcome State Fault Refusal :=
  run (hostReset) s

/-- LINK_DISABLE (R391). -/
def execLinkDisable (s : State) : Host.Outcome State Fault Refusal :=
  run (hostReset) s

/-- PERST_N (R391). -/
def execPerstN (s : State) : Host.Outcome State Fault Refusal :=
  run (hostReset) s

/-- D3HOT (R393). -/
def execD3hot (s : State) : Host.Outcome State Fault Refusal :=
  run (enterD3) s

/-- D0 (R393). -/
def execD0 (s : State) : Host.Outcome State Fault Refusal :=
  run (enterD0) s

/-- PCIE_LINK_LOSS (R392). -/
def execPcieLinkLoss (s : State) : Host.Outcome State Fault Refusal :=
  run (setPcieLink 0 0 0) s

/-- BAR2_ACCESS (R388). -/
def execBar2Access (off : Nat) (wr : Bool) (len : Nat) (bytes : List (BitVec 8)) (s : State) :
    Host.Outcome State Fault Refusal :=
  run (bar2 off wr len bytes) s

/-- MSIX_UNMASK (R389). -/
def execMsixUnmask (v : MsixEntry) (s : State) : Host.Outcome State Fault Refusal :=
  run (unmaskMsix v) s

/-- HOST_COMPLETION_FAILURE (R390). -/
def execHostCompletionFailure (line : Nat) (e : HostEnd) (s : State) : Host.Outcome State Fault Refusal :=
  run (hostFails line e) s

/-- SET_ENDPOINT_ID (R396). -/
def execSetEndpointId (eid : BitVec 8) (s : State) : Host.Outcome State Fault Refusal :=
  run (setEid eid.toNat) s

/-- GET_ENDPOINT_ID (R396). -/
def execGetEndpointId (s : State) : Host.Outcome State Fault Refusal :=
  run (do answer mctpIface 0 [(← get).fld .mgmtstat 0 8]) s

/-- GET_ENDPOINT_UUID (R396). -/
def execGetEndpointUuid (s : State) : Host.Outcome State Fault Refusal :=
  run (answer mctpIface 0 (leNats Config.endpointUuid.toNat 16)) s

/-- GET_MCTP_VERSION_SUPPORT: one version, 1.3.1 (R396), as DSP0236 codes it (log entry 11). -/
def execGetMctpVersionSupport (s : State) : Host.Outcome State Fault Refusal :=
  run (answer mctpIface 0 [1, 0xF1, 0xF3, 0xF1, 0x00]) s

/-- GET_MESSAGE_TYPE_SUPPORT (R396). -/
def execGetMessageTypeSupport (s : State) : Host.Outcome State Fault Refusal :=
  run (answer mctpIface 0 [0x00, 0x01, 0x05, 0x7E]) s

/-- GET_VENDOR_DEFINED_MSG_SUPPORT (R396). -/
def execGetVendorDefinedMsgSupport (s : State) : Host.Outcome State Fault Refusal :=
  run (answer mctpIface 0 [0x1D, 0x7A]) s

/-- READ_INCIDENTS (R397). -/
def execReadIncidents (start : BitVec 32) (count : Nat) (s : State) : Host.Outcome State Fault Refusal :=
  run (readIncidents start.toNat count) s

/-- READ_REG (R397). -/
def execReadReg (addr : BitVec 52) (width : Nat) (s : State) : Host.Outcome State Fault Refusal :=
  run (readRegister addr.toNat width) s

/-- WRITE_REG (R397). -/
def execWriteReg (addr : BitVec 52) (width : Nat) (v : BitVec 64) (s : State) : Host.Outcome State Fault Refusal :=
  run (writeRegister addr.toNat width v) s

/-- DEBUG_TOKEN (R459). -/
def execDebugToken (token : List (BitVec 8)) (s : State) : Host.Outcome State Fault Refusal :=
  run (debugToken token) s

/-- SET_EVENT_RECEIVER (R398). -/
def execSetEventReceiver (eid : BitVec 8) (s : State) : Host.Outcome State Fault Refusal :=
  run (setReceiver eid.toNat) s

/-- PLDM_SENSOR_UPDATE (R398). -/
def execPldmSensorUpdate (vals : List Nat) (s : State) : Host.Outcome State Fault Refusal :=
  run (setSensors vals) s

/-- REQUEST_UPDATE (R399). -/
def execRequestUpdate (ep : BitVec 8) (s : State) : Host.Outcome State Fault Refusal :=
  run (requestUpdate ep.toNat) s

/-- VERIFY_COMPLETE (R399). -/
def execVerifyComplete (comp : BitVec 16) (image : List (BitVec 8)) (s : State) : Host.Outcome State Fault Refusal :=
  run (verifyComponent comp.toNat image) s

/-- ACTIVATE_FIRMWARE (R399). -/
def execActivateFirmware (s : State) : Host.Outcome State Fault Refusal :=
  run (activate) s

/-- GET_VERSION (R400). -/
def execGetVersion (ep : BitVec 8) (s : State) : Host.Outcome State Fault Refusal :=
  run (spdm ep.toNat false (spdmVersion ep.toNat)) s

/-- GET_CAPABILITIES (R400). -/
def execGetCapabilities (ep : BitVec 8) (s : State) : Host.Outcome State Fault Refusal :=
  run (spdm ep.toNat false (answer spdmIface 0 (leNats spdmCaps 4))) s

/-- NEGOTIATE_ALGORITHMS (R400). -/
def execNegotiateAlgorithms (ep : BitVec 8) (mldsa shake : Bool) (s : State) : Host.Outcome State Fault Refusal :=
  run (spdm ep.toNat false (negotiate ep.toNat mldsa shake)) s

/-- GET_DIGESTS (R400). -/
def execGetDigests (ep : BitVec 8) (s : State) : Host.Outcome State Fault Refusal :=
  run (spdm ep.toNat true spdmDigests) s

/-- GET_CERTIFICATE (R400). -/
def execGetCertificate (ep : BitVec 8) (slot : BitVec 4) (off len : Nat) (s : State) :
    Host.Outcome State Fault Refusal :=
  run (spdm ep.toNat true (spdmCert slot.toNat off len)) s

/-- CHALLENGE (R400). -/
def execChallenge (ep : BitVec 8) (slot : BitVec 4) (nonce : List (BitVec 8)) (s : State) :
    Host.Outcome State Fault Refusal :=
  run (spdm ep.toNat true (spdmChallenge slot.toNat nonce)) s

/-- GET_MEASUREMENTS (R457). -/
def execGetMeasurements (ep : BitVec 8) (idx : BitVec 8) (s : State) : Host.Outcome State Fault Refusal :=
  run (spdm ep.toNat true (spdmMeasure idx.toNat)) s

/-- SET_CERTIFICATE (R400). -/
def execSetCertificate (ep : BitVec 8) (v13 : Bool) (chain : List (BitVec 8)) (s : State) :
    Host.Outcome State Fault Refusal :=
  run (spdm ep.toNat true (spdmSetCert v13 chain)) s

/-- SPDM_STATE_EXPIRY (R400). -/
def execSpdmStateExpiry (ep : BitVec 8) (s : State) : Host.Outcome State Fault Refusal :=
  run (spdmExpire ep.toNat) s

/-- ENEC (R395). -/
def execEnec (events : BitVec 8) (s : State) : Host.Outcome State Fault Refusal :=
  run (setEvents fun x => x ||| events.toNat) s

/-- DISEC (R395). -/
def execDisec (events : BitVec 8) (s : State) : Host.Outcome State Fault Refusal :=
  run (setEvents fun x => x &&& (255 - events.toNat)) s

/-- RSTDAA (R395). -/
def execRstdaa (s : State) : Host.Outcome State Fault Refusal :=
  run (setDaddr none) s

/-- ENTDAA (R395). -/
def execEntdaa (addr : BitVec 7) (s : State) : Host.Outcome State Fault Refusal :=
  run (entDaa addr.toNat) s

/-- SETDASA (R395). -/
def execSetdasa (static addr : BitVec 7) (s : State) : Host.Outcome State Fault Refusal :=
  run (setDasa static.toNat addr.toNat) s

/-- SETMWL (R395). -/
def execSetmwl (n : BitVec 16) (s : State) : Host.Outcome State Fault Refusal :=
  run (setWriteLen n.toNat) s

/-- SETMRL (R395). -/
def execSetmrl (n : BitVec 16) (s : State) : Host.Outcome State Fault Refusal :=
  run (setReadLen n.toNat) s

/-- GETMWL (R395). -/
def execGetmwl (s : State) : Host.Outcome State Fault Refusal :=
  run (do answer i3cIface 0 (leNats (← get).mgmt.mwl 2)) s

/-- GETMRL (R395). -/
def execGetmrl (s : State) : Host.Outcome State Fault Refusal :=
  run (do answer i3cIface 0 (leNats (← get).mgmt.mrl 2)) s

/-- GETPID (R395). -/
def execGetpid (s : State) : Host.Outcome State Fault Refusal :=
  run (answer i3cIface 0 (leNats provisionalId 6)) s

/-- GETBCR (R395). -/
def execGetbcr (s : State) : Host.Outcome State Fault Refusal :=
  run (standard i3cIface 0x8E) s

/-- GETDCR (R395). -/
def execGetdcr (s : State) : Host.Outcome State Fault Refusal :=
  run (standard i3cIface 0x8F) s

/-- GETSTATUS (R395). -/
def execGetstatus (s : State) : Host.Outcome State Fault Refusal :=
  run (standard i3cIface 0x90) s

/-- CLEAR_FAULTS (R475). -/
def execClearFaults (s : State) : Host.Outcome State Fault Refusal :=
  runAny (onPower clearFaultBits) s

/-- VIN_UV_WARN_LIMIT (R475). -/
def execVinUvWarnLimit (s : State) : Host.Outcome State Fault Refusal :=
  runAny (onPower (pmbus 2 (linear11 58))) s

/-- PIN_OP_WARN_LIMIT (R475). -/
def execPinOpWarnLimit (s : State) : Host.Outcome State Fault Refusal :=
  runAny (onPower (do pmbus 2 (linear11 ((← get).fld .pwrCtrl 0 11)))) s

/-- STATUS_WORD (R475). -/
def execStatusWord (s : State) : Host.Outcome State Fault Refusal :=
  runAny (onPower (do pmbus 2 (← get).statusWord)) s

/-- STATUS_INPUT (R475). -/
def execStatusInput (s : State) : Host.Outcome State Fault Refusal :=
  runAny (onPower (do pmbus 1 (← get).power.input)) s

/-- STATUS_TEMPERATURE (R475). -/
def execStatusTemperature (s : State) : Host.Outcome State Fault Refusal :=
  runAny (onPower (do pmbus 1 (← get).power.temp)) s

/-- READ_VIN (R475). -/
def execReadVin (s : State) : Host.Outcome State Fault Refusal :=
  runAny (onPower (do pmbus 2 (linear11 (← get).power.vin))) s

/-- READ_IIN (R475). -/
def execReadIin (s : State) : Host.Outcome State Fault Refusal :=
  runAny (onPower (do pmbus 2 (linear11 (← inputCurrent)))) s

/-- READ_TEMPERATURE_1 (R475). -/
def execReadTemperature1 (s : State) : Host.Outcome State Fault Refusal :=
  runAny (onPower (do pmbus 2 (linear11 (((← get).power.temps.take 6).foldl max 0)))) s

/-- READ_PIN (R475). -/
def execReadPin (s : State) : Host.Outcome State Fault Refusal :=
  runAny (onPower (do pmbus 2 (linear11 (← get).power.average))) s

/-- PMBUS_REVISION (R475). -/
def execPmbusRevision (s : State) : Host.Outcome State Fault Refusal :=
  runAny (onPower (pmbus 1 0x33)) s

/-- PMBUS_OTHER_COMMAND (R475). -/
def execPmbusOtherCommand (code : BitVec 8) (s : State) : Host.Outcome State Fault Refusal :=
  runAny (onPower (pmbusOther code.toNat)) s

/-- BYPASS (R402). -/
def execBypass (s : State) : Host.Outcome State Fault Refusal :=
  run (tapAt 0 0xFF skip) s

/-- IDCODE (R402). -/
def execIdcode (s : State) : Host.Outcome State Fault Refusal :=
  run (tapAt 0 0x01 (answer tapIface 0 (leNats 0x1019_2A6B 4))) s

/-- SAMPLE_PRELOAD (R402). -/
def execSamplePreload (s : State) : Host.Outcome State Fault Refusal :=
  run (tapAt 1 0x02 boundaryScan) s

/-- EXTEST (R402). -/
def execExtest (s : State) : Host.Outcome State Fault Refusal :=
  run (tapAt 1 0x03 skip) s

/-- CLAMP (R402). -/
def execClamp (s : State) : Host.Outcome State Fault Refusal :=
  run (tapAt 1 0x04 skip) s

/-- HIGHZ (R402). -/
def execHighz (s : State) : Host.Outcome State Fault Refusal :=
  run (tapAt 1 0x05 skip) s

/-- DBG_TOKEN (R458). -/
def execDbgToken (frame : List (BitVec 8)) (s : State) : Host.Outcome State Fault Refusal :=
  run (tapAt 0 0x10 (tokenFrame frame)) s

/-- DBG_ACCESS (R402). -/
def execDbgAccess (addr : BitVec 52) (wr : Bool) (width : Nat) (v : BitVec 64) (s : State) :
    Host.Outcome State Fault Refusal :=
  run (tapAt 2 0x20 (debugAccess addr.toNat wr width v)) s

/-- SCAN (R402). -/
def execScan (s : State) : Host.Outcome State Fault Refusal :=
  run (tapAt 3 0x30 scanChains) s

/-- ENROL (R455). -/
def execEnrol (r : MboxReq) (s : State) : Host.Outcome State Fault Refusal :=
  run (gated r.by_ .secMboxCmd 1 (mailbox (some 1) r.flashOk)) s

/-- ADD_KEY (R455). -/
def execAddKey (r : MboxReq) (s : State) : Host.Outcome State Fault Refusal :=
  run (gated r.by_ .secMboxCmd 1 (mailbox (some 2) r.flashOk)) s

/-- REVOKE_KEY (R455). -/
def execRevokeKey (r : MboxReq) (s : State) : Host.Outcome State Fault Refusal :=
  run (gated r.by_ .secMboxCmd 1 (mailbox (some 3) r.flashOk)) s

/-- RELEASE (R455). -/
def execRelease (r : MboxReq) (s : State) : Host.Outcome State Fault Refusal :=
  run (gated r.by_ .secMboxCmd 1 (mailbox (some 4) r.flashOk)) s

/-- RECOVER (R455). -/
def execRecover (r : MboxReq) (s : State) : Host.Outcome State Fault Refusal :=
  run (gated r.by_ .secMboxCmd 1 (mailbox (some 5) r.flashOk)) s

/-- ROLL_COMMIT (R453). -/
def execRollCommit (r : Req) (s : State) : Host.Outcome State Fault Refusal :=
  run (writeReg r .rollCmd 1) s

/-- INC_RING_EN (R436). -/
def execIncRingEn (r : Req) (v : BitVec 64) (s : State) : Host.Outcome State Fault Refusal :=
  run (writeReg r .incRing v.toNat) s

/-- INC_HEAD (R437). -/
def execIncHead (r : Req) (head : BitVec 32) (s : State) : Host.Outcome State Fault Refusal :=
  run (writeReg r .incPtr head.toNat) s

/-- INCIDENT_WINDOW_END (R437). -/
def execIncidentWindowEnd (k : Nat) (s : State) : Host.Outcome State Fault Refusal :=
  run (windowEnds k) s

/-- INC_CLR (R436). -/
def execIncClr (r : Req) (s : State) : Host.Outcome State Fault Refusal :=
  run (writeReg r .incClr 1) s

/-- RECOVERY_TIMEOUT (R440). -/
def execRecoveryTimeout (d : Domain) (s : State) : Host.Outcome State Fault Refusal :=
  run (recoveryLate d) s

/-- WATCHDOG (R429). -/
def execWatchdog (t : Tid) (s : State) : Host.Outcome State Fault Refusal :=
  run (watchdogExpires t.k) s

/-- POWER_BRAKE_ASSERT (R466). -/
def execPowerBrakeAssert (s : State) : Host.Outcome State Fault Refusal :=
  run (brakeOn) s

/-- POWER_BRAKE_RELEASE (R466). -/
def execPowerBrakeRelease (s : State) : Host.Outcome State Fault Refusal :=
  run (brakeOff) s

/-- PWR_MEASURE (R465). -/
def execPwrMeasure (watts : Nat) (bound : Nat) (s : State) : Host.Outcome State Fault Refusal :=
  runAny (onPower (measure watts bound)) s

/-- PWR_STAT_CLR (R464). -/
def execPwrStatClr (r : Req) (s : State) : Host.Outcome State Fault Refusal :=
  run (writeReg r .pwrStat (2 ^ 48)) s

/-- THERM_SAMPLE (R468). -/
def execThermSample (temps : List Nat) (s : State) : Host.Outcome State Fault Refusal :=
  runAny (onPower (thermal temps)) s

/-- UV_WARNING (R469). -/
def execUvWarning (s : State) : Host.Outcome State Fault Refusal :=
  runAny (onPower underWarning) s

/-- UV_LOCKOUT (R469). -/
def execUvLockout (s : State) : Host.Outcome State Fault Refusal :=
  runAny underLockout s

/-- OV_LOCKOUT (R469). -/
def execOvLockout (s : State) : Host.Outcome State Fault Refusal :=
  runAny (onPower (lockout true)) s

/-- RAIL_FAULT (R469). -/
def execRailFault (rail : Fin 8) (s : State) : Host.Outcome State Fault Refusal :=
  runAny (onPower (railFails rail)) s

/-- LEAK (R477). -/
def execLeak (s : State) : Host.Outcome State Fault Refusal :=
  runAny (onPower leakFound) s

/-- POWER_UP (R470). -/
def execPowerUp (vin : Nat) (s : State) : Host.Outcome State Fault Refusal :=
  runAny (vinRises vin) s

/-- MODULE_RESET (R472). -/
def execModuleReset (s : State) : Host.Outcome State Fault Refusal :=
  runAny (onPower (modify State.moduleReset)) s

/-- COLD_START (R446). -/
def execColdStart (env : ColdEnv) (s : State) : Host.Outcome State Fault Refusal :=
  runAny (onPower (coldStartGo env)) s

/-- RAIL_FAULT_RELEASE (R469). -/
def execRailFaultRelease (s : State) : Host.Outcome State Fault Refusal :=
  runAny (releaseRail) s

/-- SECRETS_CLEARED (R444). -/
def execSecretsCleared (ok : Bool) (s : State) : Host.Outcome State Fault Refusal :=
  run (secretsEnd ok) s

/-- CONFIGURATION_REQUEST (R305). -/
def execConfigurationRequest (c : CfgReq) (s : State) : Host.Outcome State Fault Refusal :=
  run (configure c) s

/-- PCIE_LINK_UP (R392). -/
def execPcieLinkUp (speed : PcieSpeed) (width : PcieWidth) (flit : Bool) (s : State) :
    Host.Outcome State Fault Refusal :=
  run (setPcieLink (speedCode speed) (widthCode width) (b2n flit)) s

/-- UNCORRECTABLE_CODEWORD (R366). -/
def execUncorrectableCodeword (l : BadWord) (s : State) : Host.Outcome State Fault Refusal :=
  run (do
    let _ ← codewordAt l.land l.first (linkErrs l.errs)
    skip) s

end Sys2Proof.Machine
end

