-- ==== Sys2Proof/WellFormed.lean ====
section
/-! DEFINITION. Which commands are well formed: the base word of a Melac instruction carries the MAJOR and MINOR bits its
row stands for (R87, R102, R126, R132, R153, R193, R198, R217, R237, R331), and the operands of an event lie in the ranges
the spec gives. A MINOR, SUB, SIZE, RM or mode that the spec lets an instruction reject is no matter of well-formedness:
the instruction takes the exception. -/

namespace Sys2Proof

/-- MAJOR of a base word (R87). -/
def IWord.major (w : IWord) : Nat := field w.base 24 8

/-- MINOR of a base word (R87). -/
def IWord.minor (w : IWord) : Nat := field w.base 18 6

/-- The SUB of a vector major that carries four bits of it (R193). -/
def IWord.sub4 (w : IWord) : Nat := field w.base 12 4

/-- The SUB of a vector major that rounds (R193). -/
def IWord.sub1 (w : IWord) : Nat := field w.base 12 1

/-- A scalar base word of the given MAJOR and MINOR. -/
def IWord.isMM (w : IWord) (major minor : Nat) : Bool := w.major == major && w.minor == minor

/-- A vector base word of a major that does not round. -/
def IWord.isV (w : IWord) (major sub : Nat) : Bool := w.major == major && w.sub4 == sub

/-- A vector base word of a major that rounds. -/
def IWord.isVR (w : IWord) (major sub : Nat) : Bool := w.major == major && w.sub1 == sub

/-- A ring width in bytes that a register access may have. -/
def okWidth (n : Nat) : Bool := n == 1 || n == 2 || n == 4 || n == 8

/-- A master ID of Table: Master IDs; no other is ever issued (R18). -/
def Req.listed (r : Req) : Bool :=
  let m := r.master.toNat
  m < 0x141 || (0x150 ≤ m && m < 0x160) || m == 0x160 || m == 0x170 || m == 0x180 || (0x190 ≤ m && m < 0x199) || m == 0x1A0

/-- A packet of a type: its data are LEN bytes, but none of a READREQ, whose LEN gives the bytes asked for (R368). -/
def Packet.wf (p : Packet) (type : BitVec 8) : Bool :=
  p.type == type && p.len ≤ 4096 && p.data.length == (if type = 2 then 0 else p.len)

/-- Well-formedness of a command. -/
def Instr.wf : Instr → Bool
  | .nop _ w => w.isMM 1 0
  | .br _ w => w.isMM 2 0
  | .bcc _ w => w.major == 3
  | .call _ w => w.isMM 4 0
  | .ret _ w => w.isMM 5 0
  | .fenceMem _ w => w.isMM 6 0
  | .fenceEng _ w => w.isMM 6 1
  | .gate _ w => w.major == 9
  | .eret _ w => w.isMM 10 0
  | .trap _ w => w.isMM 11 0
  | .park _ w => w.major == 224
  | .add _ w => w.isMM 16 0
  | .sub _ w => w.isMM 17 0
  | .adc _ w => w.isMM 18 0
  | .sbb _ w => w.isMM 19 0
  | .and _ w => w.isMM 20 0
  | .or _ w => w.isMM 21 0
  | .xor _ w => w.isMM 22 0
  | .andn _ w => w.isMM 23 0
  | .shl _ w => w.isMM 24 0
  | .shr _ w => w.isMM 25 0
  | .sar _ w => w.isMM 26 0
  | .rol _ w => w.isMM 27 0
  | .ror _ w => w.isMM 27 1
  | .min _ w => w.isMM 28 0
  | .max _ w => w.isMM 28 1
  | .minu _ w => w.isMM 28 2
  | .maxu _ w => w.isMM 28 3
  | .cmp _ w => w.isMM 29 0
  | .tst _ w => w.isMM 29 1
  | .mov _ w => w.isMM 30 0
  | .zext _ w => w.major == 0x1E && 4 ≤ w.minor && w.minor < 8
  | .sext _ w => w.major == 0x1E && 8 ≤ w.minor && w.minor < 12
  | .neg _ w => w.isMM 31 0
  | .not _ w => w.isMM 31 1
  | .swap _ w => w.isMM 80 0
  | .cas _ w => w.isMM 80 1
  | .aadd _ w => w.isMM 80 2
  | .aand _ w => w.isMM 80 3
  | .aor _ w => w.isMM 80 4
  | .mul _ w => w.isMM 32 0
  | .mulu _ w => w.isMM 32 1
  | .muls _ w => w.isMM 32 2
  | .mulDelivery _ => true
  | .div _ w => w.isMM 33 0
  | .divu _ w => w.isMM 33 1
  | .divDelivery _ => true
  | .crc32c _ w => w.isMM 40 0
  | .crc64 _ w => w.isMM 40 1
  | .crcp _ w => w.major == 41
  | .par _ w => w.isMM 42 0
  | .popc _ w => w.isMM 42 1
  | .clz _ w => w.isMM 42 2
  | .ctz _ w => w.isMM 42 3
  | .brev _ w => w.major == 43
  | .fadd _ w => w.isMM 48 0
  | .fsub _ w => w.isMM 48 1
  | .fmul _ w => w.isMM 48 2
  | .fdiv _ w => w.isMM 48 3
  | .fsqrt _ w => w.isMM 49 0
  | .fma _ w => w.isMM 50 0
  | .fmin _ w => w.isMM 51 0
  | .fmax _ w => w.isMM 51 1
  | .fcmp _ w => w.isMM 52 0
  | .cvt _ w => w.major == 53
  | .getr _ w => w.major == 64
  | .putr _ w => w.major == 65
  | .lea _ w => w.major == 66
  | .rep _ w _ => w.isMM 72 0
  | .repx _ w _ => w.isMM 73 0
  | .vadd _ w => w.isV 128 0
  | .vsub _ w => w.isV 128 1
  | .vmul _ w => w.isV 128 2
  | .vmulh _ w => w.isV 128 3
  | .vmulhu _ w => w.isV 128 4
  | .vmin _ w => w.isV 128 5
  | .vmax _ w => w.isV 128 6
  | .vminu _ w => w.isV 128 7
  | .vmaxu _ w => w.isV 128 8
  | .vabs _ w => w.isV 128 9
  | .vneg _ w => w.isV 128 10
  | .vand _ w => w.isV 129 0
  | .vor _ w => w.isV 129 1
  | .vxor _ w => w.isV 129 2
  | .vandn _ w => w.isV 129 3
  | .vnot _ w => w.isV 129 4
  | .vshl _ w => w.isV 129 5
  | .vshr _ w => w.isV 129 6
  | .vsar _ w => w.isV 129 7
  | .vpopc _ w => w.isV 129 8
  | .vclz _ w => w.isV 129 9
  | .vcmp _ w => w.major == 0x82
  | .vfadd _ w => w.isVR 136 0
  | .vfsub _ w => w.isVR 136 1
  | .vfmul _ w => w.isVR 137 0
  | .vfdiv _ w => w.isVR 137 1
  | .vfma _ w => w.isVR 138 0
  | .vfms _ w => w.isVR 138 1
  | .vfsqrt _ w => w.isVR 139 0
  | .vfmin _ w => w.isV 140 0
  | .vfmax _ w => w.isV 140 1
  | .vfabs _ w => w.isV 140 2
  | .vfneg _ w => w.isV 140 3
  | .vtwosum _ w => w.isV 141 0
  | .vtwoprod _ w => w.isV 141 1
  | .vffn _ w => w.isVR 142 0
  | .vfcmp _ w => w.major == 0x8F
  | .vcvt _ w => w.isVR 144 0
  | .vmov _ w => w.isV 131 0
  | .vlds _ w => w.isV 131 1
  | .vsts _ w => w.isV 131 2
  | .viota _ w => w.isV 131 3
  | .vperm _ w => w.isV 132 0
  | .vslideup _ w => w.isV 132 1
  | .vslidedn _ w => w.isV 132 2
  | .vcompress _ w => w.isV 132 3
  | .vexpand _ w => w.isV 132 4
  | .vrev _ w => w.isV 132 5
  | .vgather _ w => w.major == 0x85
  | .vscatter _ w => w.major == 0x86
  | .mand _ w => w.isV 135 0
  | .mor _ w => w.isV 135 1
  | .mxor _ w => w.isV 135 2
  | .mandn _ w => w.isV 135 3
  | .mnot _ w => w.isV 135 4
  | .mset _ w => w.isV 135 5
  | .mpop _ w => w.isV 135 6
  | .mfirst _ w => w.isV 135 7
  | .mmov _ w => w.isV 135 8
  | .vrsum _ w => w.isV 145 0
  | .vrmin _ w => w.isV 145 1
  | .vrmax _ w => w.isV 145 2
  | .vrminu _ w => w.isV 145 3
  | .vrmaxu _ w => w.isV 145 4
  | .vrand _ w => w.isV 145 5
  | .vror _ w => w.isV 145 6
  | .vrxor _ w => w.isV 145 7
  | .vfrsum _ w => w.isVR 146 0
  | .vfrmin _ w => w.isV 147 0
  | .vfrmax _ w => w.isV 147 1
  | .vframax _ w => w.isV 147 2
  | .tld _ w => w.major == 160
  | .tmovtv _ w => w.major == 162
  | .tmovvt _ w => w.major == 163
  | .tshp _ w => w.major == 164
  | .tzero _ w => w.major == 165
  | .clmopen _ w => w.major == 212
  | .clmclose _ w => w.major == 213
  | .claimFree _ _ => true
  | .mma _ w => w.major == 176
  | .mmap _ w => w.major == 177
  | .mdrn _ w => w.major == 178
  | .mlda _ w => w.major == 179
  | .drainStart _ _ => true
  | .tallyPass _ _ => true
  | .tallyMismatch _ _ _ _ => true
  | .srun _ w => w.major == 192
  | .srunf _ w => w.major == 193
  | .sbwait _ w => w.major == 208
  | .sbwaitSatisfied _ => true
  | .wdone _ w => w.major == 209
  | .engineComplete _ _ => true
  | .eptag _ w => w.major == 216
  | .epdecl _ w => w.major == 217
  | .seal _ w => w.major == 218
  | .epdiscard _ w => w.major == 219
  | .epcommit _ w => w.major == 220
  | .epstat _ w => w.major == 221
  | .exceptionEntry _ _ _ _ _ _ => true
  | .takeInterrupt _ => true
  | .tideJ _ => true
  | .tideS _ => true
  | .softJ r _ => r.listed
  | .softS r _ => r.listed
  | .run _ => true
  | .barrier _ => true
  | .barrierClear _ => true
  | .signal _ => true
  | .eventsLost _ => true
  | .queueError _ => true
  | .doorbellTail r q width _ => r.listed && okWidth width && decide (q.val < 0x1C00)
  | .doorbellHead r q width _ => r.listed && okWidth width && decide (0x1C00 ≤ q.val)
  | .jobStart r => r.listed
  | .jobEnd r => r.listed
  | .jobEndDrain => true
  | .jobEndScrub _ => true
  | .farScrubDone _ => true
  | .rerigCmdGo r => r.listed
  | .rerigDone _ _ => true
  | .cfgHold r _ _ => r.listed
  | .qreq r _ => r.listed
  | .quiescentApply _ _ => true
  | .cfgClear r _ => r.listed
  | .registerWrite r _ width _ => r.listed && okWidth width
  | .telemClr r _ => r.listed
  | .hwErrclr r _ => r.listed
  | .mxTallyClr r _ => r.listed
  | .vuPassesClr r _ => r.listed
  | .seClr r _ => r.listed
  | .ferryDoneWrite r _ _ _ => r.listed
  | .manifest _ _ => true
  | .copy _ => true
  | .fill _ => true
  | .check _ => true
  | .ferryDone _ => true
  | .nbRefresh _ => true
  | .nbPatrolScrub _ _ _ => true
  | .nbRetrainDone _ _ => true
  | .hwPatrolScrub _ _ => true
  | .hwCorrectWriteback _ _ _ _ => true
  | .canopyFill _ _ => true
  | .clean r _ _ => r.listed
  | .inval r _ _ => r.listed
  | .clinv r _ _ => r.listed
  | .clinvAll r _ _ => r.listed
  | .cmoDone _ => true
  | .fbLinkUp _ caps => caps.length ≤ 4
  | .fbLinkLoss _ => true
  | .viral _ => true
  | .fbTimeout _ _ => true
  | .fbErrClr r _ => r.listed
  | .nbClr r _ => r.listed
  | .fyClr r _ => r.listed
  | .tlbInvRange r _ => r.listed
  | .tlbInvWorld r _ => r.listed
  | .tlbInvAll r => r.listed
  | .tlbInvDone => true
  | .atsInvalidateRequest _ _ => true
  | .translationCompletion _ _ _ _ _ => true
  | .prgResponse _ _ => true
  | .priWaitExpiry _ => true
  | .accRuleCommit r _ _ _ _ => r.listed
  | .accDenyClr r => r.listed
  | .load r => r.listed
  | .unload r => r.listed
  | .commit r => r.listed
  | .cancel r => r.listed
  | .resync r => r.listed
  | .commitFlip => true
  | .commitDrainTimeout => true
  | .waitTimeout _ => true
  | .journalTimeout => true
  | .tideMark => true
  | .beaconSend => true
  | .beaconLoss _ => true
  | .holdoverExpiry => true
  | .tideSet r _ => r.listed
  | .stepOrigin r _ => r.listed
  | .stepAdvance => true
  | .ttEntryCommit r _ _ => r.listed
  | .ttEn r _ => r.listed
  | .ttClr r => r.listed
  | .qstart _ => true
  | .cwopen _ => true
  | .cwclose _ => true
  | .bist _ => true
  | .refresh _ => true
  | .collect _ => true
  | .dcheck _ => true
  | .event _ => true
  | .tideMiss _ => true
  | .bistSliceRun _ => true
  | .bistSliceAbandon => true
  | .bistCycleLate => true
  | .landingTrain _ peer => peer.info.lanes != 0 && peer.exchanges.length == 16
  | .landingTrainRetry _ _ => true
  | .retrain r _ => r.listed
  | .landClr r _ => r.listed
  | .landUnfence r _ => r.listed
  | .laneLoss _ _ => true
  | .data _ _ _ bytes => bytes.content.length == 156
  | .nak _ _ => true
  | .beacon _ _ => true
  | .train _ peer => peer.lanes != 0
  | .idle _ _ => true
  | .replay _ => true
  | .packetForward _ p => p.wf p.type
  | .pktWrite _ p => p.wf 1
  | .readreq _ p => p.wf 2
  | .readcpl _ p => p.wf 3
  | .pktReduce _ p => p.wf 4
  | .ack _ p => p.wf 5
  | .notify _ p => p.wf 6
  | .journal _ p => p.wf 7
  | .jack _ p => p.wf 8
  | .landWrite _ _ => true
  | .landRead _ _ => true
  | .reduce _ _ => true
  | .reduceCopy _ _ => true
  | .landDone _ _ => true
  | .landError _ _ => true
  | .landPacketTimeout _ _ => true
  | .flr => true
  | .hotReset => true
  | .linkDisable => true
  | .perstN => true
  | .d3hot => true
  | .d0 => true
  | .pcieLinkLoss => true
  | .bar2Access _ wr len bytes => 1 ≤ len && (!wr || bytes.length == len)
  | .msixUnmask _ => true
  | .hostCompletionFailure _ _ => true
  | .setEndpointId _ => true
  | .getEndpointId => true
  | .getEndpointUuid => true
  | .getMctpVersionSupport => true
  | .getMessageTypeSupport => true
  | .getVendorDefinedMsgSupport => true
  | .readIncidents _ count => 1 ≤ count && count ≤ 8
  | .readReg _ width => okWidth width
  | .writeReg _ width _ => okWidth width
  | .debugToken token => token.length == 3376
  | .setEventReceiver _ => true
  | .pldmSensorUpdate vals => vals.length == 11
  | .requestUpdate _ => true
  | .verifyComplete _ _ => true
  | .activateFirmware => true
  | .getVersion _ => true
  | .getCapabilities _ => true
  | .negotiateAlgorithms _ _ _ => true
  | .getDigests _ => true
  | .getCertificate _ _ _ _ => true
  | .challenge _ _ _ => true
  | .getMeasurements _ _ => true
  | .setCertificate _ _ _ => true
  | .spdmStateExpiry _ => true
  | .enec _ => true
  | .disec _ => true
  | .rstdaa => true
  | .entdaa _ => true
  | .setdasa _ _ => true
  | .setmwl _ => true
  | .setmrl _ => true
  | .getmwl => true
  | .getmrl => true
  | .getpid => true
  | .getbcr => true
  | .getdcr => true
  | .getstatus => true
  | .clearFaults => true
  | .vinUvWarnLimit => true
  | .pinOpWarnLimit => true
  | .statusWord => true
  | .statusInput => true
  | .statusTemperature => true
  | .readVin => true
  | .readIin => true
  | .readTemperature1 => true
  | .readPin => true
  | .pmbusRevision => true
  | .bypass => true
  | .idcode => true
  | .samplePreload => true
  | .extest => true
  | .clamp => true
  | .highz => true
  | .dbgToken frame => frame.length == 512
  | .dbgAccess _ _ width _ => okWidth width
  | .scan => true
  | .enrol r => r.by_.listed
  | .addKey r => r.by_.listed
  | .revokeKey r => r.by_.listed
  | .release r => r.by_.listed
  | .recover r => r.by_.listed
  | .rollCommit r => r.listed
  | .incRingEn r _ => r.listed
  | .incHead r _ => r.listed
  | .incidentWindowEnd _ => true
  | .incClr r => r.listed
  | .recoveryTimeout _ => true
  | .watchdog _ => true
  | .powerBrakeAssert => true
  | .powerBrakeRelease => true
  | .pwrMeasure _ _ => true
  | .pwrStatClr r => r.listed
  | .thermSample temps => temps.length == 7
  | .uvWarning => true
  | .uvLockout => true
  | .ovLockout => true
  | .railFault _ => true
  | .leak => true
  | .powerUp _ => true
  | .moduleReset => true
  | .coldStart _ => true
  | .tileStore _ w => w.major == 161
  | .configurationRequest _ => true
  | .pcieLinkUp _ _ _ => true
  | .uncorrectableCodeword _ => true
  | .railFaultRelease => true
  | .secretsCleared _ => true
  | .pmbusOtherCommand _ => true
end Sys2Proof
end

