-- ==== Sys2Proof/Machine/Scalar.lean ====
section
/-! DEFINITION. The scalar integer, atomic, multiply, divide, bit, CRC and floating-point instructions (R99-R108, R112). -/

namespace Sys2Proof.Machine

/-- SIZE in bytes. -/
def zOf (w : IWord) : Nat := 2 ^ w.size

/-- Bit 12 of a scalar base word is 0, and RM is 0 where nothing is rounded and no option is defined (R87, R98). -/
def plain (w : IWord) : Bool := !bit w.base 12 && w.rm = 0

/-- A scalar instruction with operand sizes: its encoding is checked, its operands computed, and its body run. -/
def scalar (t : Tid) (w : IWord) (sl : Slots) (legal : Bool) (zd za zb : Nat) (body : Nat → Opnds → M Ending) : M Unit :=
  starts t sl.len fun k => do
    encoded k w sl legal true
    body k (← compute k w zd za zb 1 0)

/-- The end of an instruction: its pointer updates and FLAGS. -/
def setsFlags (k : Nat) (p : Ptrs) (f : W64) : M Ending := do
  commitPtrs k p
  return .next [(0x10, f)]

/-- d = a op b with FLAGS; the operation takes n, a, b and C (R101). -/
def alu3 (t : Tid) (w : IWord) (f : Nat → Nat → Nat → Nat → Alu) : M Unit :=
  let z := zOf w
  scalar t w ⟨memSlot, memSlot, immSlot⟩ (plain w) z z z fun k o => do
    let a ← srcOf k o.a z
    let b ← srcOf k o.b z
    let l ← placeOf k o.d .write z
    let a ← readSrc k a
    let b ← readSrc k b
    let fl := (← get).flags k
    let r := f (8 * z) a b (b2n (bit fl 2))
    writePlace k l r.v
    setsFlags k o.p (r.flags fl)

/-- FLAGS of a op b; nothing is stored. -/
def alu2 (t : Tid) (w : IWord) (f : Nat → Nat → Nat → Alu) : M Unit :=
  let z := zOf w
  scalar t w ⟨noSlot, memSlot, immSlot⟩ (plain w) z z z fun k o => do
    let a ← srcOf k o.a z
    let b ← srcOf k o.b z
    let a ← readSrc k a
    let b ← readSrc k b
    setsFlags k o.p ((f (8 * z) a b).flags ((← get).flags k))

/-- d = op a with FLAGS. -/
def alu1 (t : Tid) (w : IWord) (legal : Bool) (f : Nat → Nat → Alu) : M Unit :=
  let z := zOf w
  scalar t w ⟨memSlot, memSlot, noSlot⟩ legal z z z fun k o => do
    let a ← srcOf k o.a z
    let l ← placeOf k o.d .write z
    let a ← readSrc k a
    let r := f (8 * z) a
    writePlace k l r.v
    setsFlags k o.p (r.flags ((← get).flags k))

/-- d = op a without FLAGS; poison is carried to memory (R425). A pointer that POSTINC, PREDEC, CIRC or BITREV updates steps by the
operand's own size, which for a may differ from SIZE (R89; log entry 143). -/
def copy1 (t : Tid) (w : IWord) (sl : Slots) (legal : Bool) (za : Nat) (f : Nat → Nat) : M Unit :=
  let z := zOf w
  scalar t w sl legal z za z fun k o => do
    let a ← srcOf k o.a za
    let l ← placeOf k o.d .write z
    let (v, p) ← readP k a
    writeP k l (f v % 2 ^ (8 * z)) p
    commitPtrs k o.p
    return .next []

/-- A signed comparison of n-bit numbers. -/
def sLt (n a b : Nat) : Bool := sInt n a < sInt n b

/-- The place of an atomic target: naturally aligned, in the near bank or a heartwood (R103). An address that no window holds is an
ADDRESS fault, NO_TARGET, before it is a target elsewhere (log entry 144). -/
def atomPlace (k : Nat) (w : IWord) (o : Opnd) (z : Nat) : M Place := do
  let p := (← get).crewPort k
  match o with
  | .mem va far =>
    if va % z ≠ 0 then throw (flt vAlign 0 va 1)
    else
      let (pa, pol) ← transl p .atomic far va z va 1
      if inRegs pa ∨ inHost pa ∨ inFar pa then throw (fltWord w vOperand 0)
      else grant p .atomic pa pol z 1
  | .claim c off =>
    let x ← useClaim (k / 4) c off z
    let pa := claimAddr (k / 4) x off
    if pa % z ≠ 0 then throw (flt vAlign 0 pa 1) else grant p .atomic pa 3 z 1
  | _ => throw (flt vIllegal 0 0 0)

/-- Read an atomic target at its controller, after the canopy of the grove has cleaned and discarded its sector (R315): its value and
the poisoned address. -/
def atomRead (k : Nat) (l : Place) : M (Nat × Option Nat) := do
  whenM (inNear l.pa) (actSector 3 (k / 32) (l.pa / 128 * 128))
  let (b, p) ← rawRead l.pa l.n
  return (ofLE b, if p then some l.pa else none)

/-- Write an atomic target, poisoned or not, at its controller, where the canopy holds nothing of it (R315). -/
def atomWrite (k : Nat) (l : Place) (bs : List Byte) (p : Bool) : M Unit := do
  whenM (inNear l.pa) (actSector 3 (k / 32) (l.pa / 128 * 128))
  rawPut l.pa bs p

/-- An atomic that stores the old value of [d] in b, and then f [d] a in [d] (R102); poison of [d] is carried to both, that of a to
[d] (R425). -/
def atomic (t : Tid) (w : IWord) (f : Nat → Nat → Nat) : M Unit :=
  let z := zOf w
  scalar t w ⟨memSlot, immSlot, memSlot⟩ (plain w && 2 ≤ w.size) z z z fun k o => do
    let a ← srcOf k o.a z
    let b ← placeOf k o.b .write z
    let d ← atomPlace k w o.d z
    let (a, p) ← readP k a
    let (old, q) ← atomRead k d
    writeP k b old q
    atomWrite k d (toLE (f old a) z) (p.or q).isSome
    commitPtrs k o.p
    return .next []

/-- The 64-bit extension of n bits. -/
def ext64 (signed : Bool) (n v : Nat) : Int := if signed then sInt n v else (v % 2 ^ n : Nat)

/-- A product under way (R106). -/
def multiply (t : Tid) (w : IWord) (sa sb : Bool) : M Unit :=
  let z := zOf w
  scalar t w ⟨noSlot, memSlot, immSlot⟩ (plain w) z z z fun k o => do
    let a ← srcOf k o.a z
    let b ← srcOf k o.b z
    let a ← readSrc k a
    let b ← readSrc k b
    modify fun s =>
      let x := s.thread k
      s.setThread k { x with muls := x.muls ++ [(0, BitVec.ofInt 128 (ext64 sa (8 * z) a * ext64 sb (8 * z) b))] }
    commitPtrs k o.p
    return .next []

/-- A quotient under way; a second divide waits for the first (R107). -/
def divide (t : Tid) (w : IWord) (signed : Bool) : M Unit :=
  let z := zOf w
  scalar t w ⟨noSlot, memSlot, immSlot⟩ (plain w) z z z fun k o => do
    let a ← srcOf k o.a z
    let b ← srcOf k o.b z
    let a ← readSrc k a
    let b ← readSrc k b
    let x := ext64 signed (8 * z) a
    let y := ext64 signed (8 * z) b
    if y = 0 then throw (flt 5 0 0 0)
    else
      landDiv k
      modify fun s => s.setThread k { s.thread k with
        div := some (0, BitVec.ofInt 64 (x.tdiv y), BitVec.ofInt 64 (x.tmod y)) }
      commitPtrs k o.p
      return .next []

/-- A CRC of the bytes of a into d of zd bytes (R112); poison of d or a is carried to d. The pointer of d steps by zd (R89; log entry
143). -/
def crcInto (t : Tid) (w : IWord) (legal : Bool) (zd : Nat) (f : Nat → Nat → List Byte → Nat) : M Unit :=
  let z := zOf w
  scalar t w ⟨memSlot, memSlot, noSlot⟩ legal zd z z fun k o => do
    let a ← srcOf k o.a z
    let d ← srcOf k o.d zd
    let l ← placeOf k o.d .write zd
    let (x, p) ← readP k a
    let (c, q) ← readP k d
    writeP k l (f ((← get).reg (thr k 0x1A)).toNat c (toLE x z)) (p.or q)
    commitPtrs k o.p
    return .next []

/-- RM of an instruction that rounds: codes 0 to 4 and 7, which is FLAGS.RM (R72). -/
def roundsOk (w : IWord) : Bool := !bit w.base 12 && (w.rm ≤ 4 || w.rm = 7)

/-- The rounding mode that RM resolves to. -/
def rmOf (f : W64) (rm : Nat) : Nat := if rm = 7 then field f 24 3 else rm

/-- The format of SIZE. -/
def sizeFmt (w : IWord) : Fmt := if w.size = 3 then .fp64 else .fp32

/-- The value of a floating-point source, with the poisoned address; an IMM is an FP32 value (R93). -/
def fpVal (k : Nat) (w : IWord) (o : Opnd) : M (M (Val × Option Nat)) := do
  match o with
  | .imm v => return pure (Fmt.fp32.decode (v.toNat % 2 ^ 32), none)
  | _ =>
    let x ← srcOf k o (zOf w)
    return do
      let (v, p) ← readP k x
      return ((sizeFmt w).decode v, p)

/-- The end of a floating-point instruction: its result, and its conditions. A result of poison is poison in memory, and nothing of it
enters FLAGS (R425; log entry 171). -/
def fpEnd (k : Nat) (o : Opnds) (l : Place) (v conds : Nat) (p : Option Nat) : M Ending := do
  writeP k l v p
  commitPtrs k o.p
  whenM p.isNone (reportHere k conds)
  return .next []

/-- Rounding of a scalar instruction: the options, and its random value; an SR instruction takes the value of SR_STREAM
(R76, R77, R104). -/
def scalarRnd (k : Nat) (w : IWord) : M (Rnd × Nat) := do
  let s ← get
  let p ← rnd (rmOf (s.flags k) w.rm)
  if p.rm = 4 then
    let sr := Reg.srStream (k / 4) (k % 4)
    let c ← srCtx 0 (field (s.effReg (.srCtx (k / 4) (k % 4))) 0 6) (s.reg sr)
    wr sr (s.reg sr + 1)
    return (p, c.draw p 0 0)
  else return (p, 0)

/-- d = a op b in floating point; the operation gives an exact value and conditions; with rw the
destination is read as well. -/
def fpOp (t : Tid) (w : IWord) (sl : Slots) (legal rw : Bool) (f : Bool → Val → Val → Val → Val × Nat) : M Unit :=
  let z := zOf w
  scalar t w sl (legal && 2 ≤ w.size) z z z fun k o => do
    let a ← fpVal k w o.a
    let b ← if o.b = .none then pure (pure (.fin false 0 1, none)) else fpVal k w o.b
    let d ← if rw then fpVal k w o.d else pure (pure (.fin false 0 1, none))
    let l ← placeOf k o.d .write z
    let (a, pa) ← a
    let (b, pb) ← b
    let (d, pd) ← d
    let (p, r) ← scalarRnd k w
    let (c, x) := (sizeFmt w).fin p r (f p.rdn a b d)
    fpEnd k o l c x (pa.or (pb.or pd))

/-- The formats of CVT (R104). -/
def cvtFmt (c : Nat) : Bool := c ≤ 5 || c = 8 || c = 0xD

/-- ADD (R101). -/
def execAdd (t : Tid) (w : IWord) (s : State) : Host.Outcome State Fault Refusal := run (alu3 t w fun n a b _ => aluAdd n a b 0) s

/-- SUB. -/
def execSub (t : Tid) (w : IWord) (s : State) : Host.Outcome State Fault Refusal := run (alu3 t w fun n a b _ => aluSub n a b 0) s

/-- ADC. -/
def execAdc (t : Tid) (w : IWord) (s : State) : Host.Outcome State Fault Refusal := run (alu3 t w aluAdd) s

/-- SBB. -/
def execSbb (t : Tid) (w : IWord) (s : State) : Host.Outcome State Fault Refusal := run (alu3 t w aluSub) s

/-- AND. -/
def execAnd (t : Tid) (w : IWord) (s : State) : Host.Outcome State Fault Refusal := run (alu3 t w fun n a b _ => aluLogic n (a &&& b)) s

/-- OR. -/
def execOr (t : Tid) (w : IWord) (s : State) : Host.Outcome State Fault Refusal := run (alu3 t w fun n a b _ => aluLogic n (a ||| b)) s

/-- XOR. -/
def execXor (t : Tid) (w : IWord) (s : State) : Host.Outcome State Fault Refusal := run (alu3 t w fun n a b _ => aluLogic n (a ^^^ b)) s

/-- a and not b, of n bits. -/
def andNot (n a b : Nat) : Nat := a &&& (b ^^^ (2 ^ n - 1))

/-- ANDN. -/
def execAndn (t : Tid) (w : IWord) (s : State) : Host.Outcome State Fault Refusal :=
  run (alu3 t w fun n a b _ => aluLogic n (andNot n a b)) s

/-- SHL. -/
def execShl (t : Tid) (w : IWord) (s : State) : Host.Outcome State Fault Refusal := run (alu3 t w fun n a b _ => aluShl n a (b % n)) s

/-- SHR. -/
def execShr (t : Tid) (w : IWord) (s : State) : Host.Outcome State Fault Refusal := run (alu3 t w fun n a b _ => aluShr n a (b % n)) s

/-- SAR. -/
def execSar (t : Tid) (w : IWord) (s : State) : Host.Outcome State Fault Refusal := run (alu3 t w fun n a b _ => aluSar n a (b % n)) s

/-- ROL. -/
def execRol (t : Tid) (w : IWord) (s : State) : Host.Outcome State Fault Refusal := run (alu3 t w fun n a b _ => aluRol n a (b % n)) s

/-- ROR. -/
def execRor (t : Tid) (w : IWord) (s : State) : Host.Outcome State Fault Refusal := run (alu3 t w fun n a b _ => aluRor n a (b % n)) s

/-- MIN. -/
def execMin (t : Tid) (w : IWord) (s : State) : Host.Outcome State Fault Refusal :=
  run (alu3 t w fun n a b _ => aluLogic n (if sLt n b a then b else a)) s

/-- MAX. -/
def execMax (t : Tid) (w : IWord) (s : State) : Host.Outcome State Fault Refusal :=
  run (alu3 t w fun n a b _ => aluLogic n (if sLt n a b then b else a)) s

/-- MINU. -/
def execMinu (t : Tid) (w : IWord) (s : State) : Host.Outcome State Fault Refusal :=
  run (alu3 t w fun n a b _ => aluLogic n (Nat.min a b)) s

/-- MAXU. -/
def execMaxu (t : Tid) (w : IWord) (s : State) : Host.Outcome State Fault Refusal :=
  run (alu3 t w fun n a b _ => aluLogic n (Nat.max a b)) s

/-- CMP. -/
def execCmp (t : Tid) (w : IWord) (s : State) : Host.Outcome State Fault Refusal := run (alu2 t w fun n a b => aluSub n a b 0) s

/-- TST. -/
def execTst (t : Tid) (w : IWord) (s : State) : Host.Outcome State Fault Refusal := run (alu2 t w fun n a b => aluLogic n (a &&& b)) s

/-- MOV. -/
def execMov (t : Tid) (w : IWord) (s : State) : Host.Outcome State Fault Refusal :=
  run (copy1 t w ⟨memSlot, immSlot, noSlot⟩ (plain w) (zOf w) id) s

/-- ZEXT: a has 2^k bytes, k = MINOR - 4 < SIZE. -/
def execZext (t : Tid) (w : IWord) (s : State) : Host.Outcome State Fault Refusal :=
  run (copy1 t w ⟨memSlot, memSlot, noSlot⟩ (plain w && w.minor % 4 < w.size) (2 ^ (w.minor % 4)) id) s

/-- SEXT: a has 2^k bytes, k = MINOR - 8 < SIZE. -/
def execSext (t : Tid) (w : IWord) (s : State) : Host.Outcome State Fault Refusal :=
  run (copy1 t w ⟨memSlot, memSlot, noSlot⟩ (plain w && w.minor % 4 < w.size) (2 ^ (w.minor % 4))
    fun v => wrap 64 (sInt (8 * 2 ^ (w.minor % 4)) v)) s

/-- NEG. -/
def execNeg (t : Tid) (w : IWord) (s : State) : Host.Outcome State Fault Refusal :=
  run (alu1 t w (plain w) fun n a => aluSub n 0 a 0) s

/-- NOT. -/
def execNot (t : Tid) (w : IWord) (s : State) : Host.Outcome State Fault Refusal :=
  run (alu1 t w (plain w) fun n a => aluLogic n (a ^^^ (2 ^ n - 1))) s

/-- SWAP (R103). -/
def execSwap (t : Tid) (w : IWord) (s : State) : Host.Outcome State Fault Refusal := run (atomic t w fun _ a => a) s

/-- Compare and swap: on a match [d] = b and Z = 1, otherwise a = [d] and Z = 0 (R103). Poison of a or [d] would enter FLAGS, so it is
contained; that of b is carried to [d] (R425). -/
def compareSwap (t : Tid) (w : IWord) : M Unit :=
  let z := zOf w
  scalar t w ⟨memSlot, memSlot, memSlot⟩ (plain w && 2 ≤ w.size) z z z fun k o => do
    let a ← srcOf k o.a z
    let la ← placeOf k o.a .write z
    let b ← srcOf k o.b z
    let d ← atomPlace k w o.d z
    let a ← readSrc k a
    let (b, p) ← readP k b
    let (old, q) ← atomRead k d
    if let some x := q then throw (.contain x)
    if old = a then atomWrite k d (toLE b z) p.isSome else writePlace k la old
    setsFlags k o.p (setField ((← get).flags k) 0 1 (b2n (old = a)))

/-- CAS. -/
def execCas (t : Tid) (w : IWord) (s : State) : Host.Outcome State Fault Refusal := run (compareSwap t w) s

/-- AADD. -/
def execAadd (t : Tid) (w : IWord) (s : State) : Host.Outcome State Fault Refusal := run (atomic t w fun d a => d + a) s

/-- AAND. -/
def execAand (t : Tid) (w : IWord) (s : State) : Host.Outcome State Fault Refusal := run (atomic t w fun d a => d &&& a) s

/-- AOR. -/
def execAor (t : Tid) (w : IWord) (s : State) : Host.Outcome State Fault Refusal := run (atomic t w fun d a => d ||| a) s

/-- MUL (R106). -/
def execMul (t : Tid) (w : IWord) (s : State) : Host.Outcome State Fault Refusal := run (multiply t w true true) s

/-- MULU. -/
def execMulu (t : Tid) (w : IWord) (s : State) : Host.Outcome State Fault Refusal := run (multiply t w false false) s

/-- MULS. -/
def execMuls (t : Tid) (w : IWord) (s : State) : Host.Outcome State Fault Refusal := run (multiply t w true false) s

/-- MUL_DELIVERY: the oldest product lands. -/
def execMulDelivery (t : Tid) (s : State) : Host.Outcome State Fault Refusal := run (landMul t.k) s

/-- DIV (R107). -/
def execDiv (t : Tid) (w : IWord) (s : State) : Host.Outcome State Fault Refusal := run (divide t w true) s

/-- DIVU. -/
def execDivu (t : Tid) (w : IWord) (s : State) : Host.Outcome State Fault Refusal := run (divide t w false) s

/-- DIV_DELIVERY: the quotient lands. -/
def execDivDelivery (t : Tid) (s : State) : Host.Outcome State Fault Refusal := run (landDiv t.k) s

/-- CRC32C (R112). -/
def execCrc32c (t : Tid) (w : IWord) (s : State) : Host.Outcome State Fault Refusal :=
  run (crcInto t w (plain w) 4 fun _ c l => crc32c c l) s

/-- CRC64. -/
def execCrc64 (t : Tid) (w : IWord) (s : State) : Host.Outcome State Fault Refusal :=
  run (crcInto t w (plain w) 8 fun _ c l => crc64 c l) s

/-- CRCP: w = MINOR + 1, REFL in RM[13]. -/
def execCrcp (t : Tid) (w : IWord) (s : State) : Host.Outcome State Fault Refusal :=
  run (crcInto t w (!bit w.base 12 && w.rm ≤ 1 && 7 ≤ w.minor) 8 fun p c l =>
    crcBytes (w.minor + 1) (w.rm = 1) (p % 2 ^ (w.minor + 1)) c l) s

/-- PAR. -/
def execPar (t : Tid) (w : IWord) (s : State) : Host.Outcome State Fault Refusal :=
  run (alu1 t w (plain w) fun n a => aluLogic n (popc n a % 2)) s

/-- POPC. -/
def execPopc (t : Tid) (w : IWord) (s : State) : Host.Outcome State Fault Refusal :=
  run (alu1 t w (plain w) fun n a => aluLogic n (popc n a)) s

/-- CLZ. -/
def execClz (t : Tid) (w : IWord) (s : State) : Host.Outcome State Fault Refusal :=
  run (alu1 t w (plain w) fun n a => aluLogic n (clz n a)) s

/-- CTZ. -/
def execCtz (t : Tid) (w : IWord) (s : State) : Host.Outcome State Fault Refusal :=
  run (alu1 t w (plain w) fun n a => aluLogic n (ctz n a)) s

/-- BREV: n = MINOR + 1. -/
def execBrev (t : Tid) (w : IWord) (s : State) : Host.Outcome State Fault Refusal :=
  run (alu1 t w (plain w && 7 ≤ w.minor && w.minor < 8 * zOf w) fun n a => aluLogic n (brev (w.minor + 1) a)) s

/-- FADD (R104). -/
def execFadd (t : Tid) (w : IWord) (s : State) : Host.Outcome State Fault Refusal :=
  run (fpOp t w ⟨memSlot, memSlot, immSlot⟩ (roundsOk w) false fun r a b _ => a.add r b) s

/-- FSUB. -/
def execFsub (t : Tid) (w : IWord) (s : State) : Host.Outcome State Fault Refusal :=
  run (fpOp t w ⟨memSlot, memSlot, immSlot⟩ (roundsOk w) false fun r a b _ => a.add r b.neg) s

/-- FMUL. -/
def execFmul (t : Tid) (w : IWord) (s : State) : Host.Outcome State Fault Refusal :=
  run (fpOp t w ⟨memSlot, memSlot, immSlot⟩ (roundsOk w) false fun _ a b _ => a.mul b) s

/-- FDIV. -/
def execFdiv (t : Tid) (w : IWord) (s : State) : Host.Outcome State Fault Refusal :=
  run (fpOp t w ⟨memSlot, memSlot, immSlot⟩ (roundsOk w) false fun _ a b _ => a.div b) s

/-- FSQRT. -/
def execFsqrt (t : Tid) (w : IWord) (s : State) : Host.Outcome State Fault Refusal :=
  run (fpOp t w ⟨memSlot, immSlot, noSlot⟩ (roundsOk w) false fun _ a _ _ => a.sqrt) s

/-- FMA: d = a * b + d. -/
def execFma (t : Tid) (w : IWord) (s : State) : Host.Outcome State Fault Refusal :=
  run (fpOp t w ⟨memSlot, memSlot, immSlot⟩ (roundsOk w) true fun r a b d => a.fma r b d) s

/-- FMIN (R80). -/
def execFmin (t : Tid) (w : IWord) (s : State) : Host.Outcome State Fault Refusal :=
  run (fpOp t w ⟨memSlot, memSlot, immSlot⟩ (plain w) false fun _ a b _ => a.min b) s

/-- FMAX. -/
def execFmax (t : Tid) (w : IWord) (s : State) : Host.Outcome State Fault Refusal :=
  run (fpOp t w ⟨memSlot, memSlot, immSlot⟩ (plain w) false fun _ a b _ => a.max b) s

/-- FCMP sets N, Z, V, or none (R100). -/
def fpCompare (t : Tid) (w : IWord) : M Unit :=
  let z := zOf w
  scalar t w ⟨noSlot, memSlot, immSlot⟩ (plain w && 2 ≤ w.size) z z z fun k o => do
    let a ← fpVal k w o.a
    let b ← fpVal k w o.b
    let (a, pa) ← a
    let (b, pb) ← b
    if let some x := pa.or pb then throw (.contain x)
    commitPtrs k o.p
    reportHere k (sigs [a, b])
    return .next [(0x10, setZNCV ((← get).flags k) (a.eqv b) (a.lt b) false (a.isNan || b.isNan))]

/-- FCMP. -/
def execFcmp (t : Tid) (w : IWord) (s : State) : Host.Outcome State Fault Refusal := run (fpCompare t w) s

/-- CVT between the formats of bits [23:20] and [19:16] (R70, R71, R104). -/
def convert (t : Tid) (w : IWord) : M Unit :=
  let df := field w.base 20 4
  let sf := field w.base 16 4
  let zd := codeBits df / 8
  let za := codeBits sf / 8
  scalar t w ⟨memSlot, memSlot, noSlot⟩ (roundsOk w && cvtFmt df && cvtFmt sf) zd za za fun k o => do
    let a ← srcOf k o.a za
    let l ← placeOf k o.d .write zd
    let (a, q) ← readP k a
    let (p, r) ← scalarRnd k w
    let (v, x) := codeFrom sf df p r (elemVal sf 1 (toLE a za) [] 0).1
    fpEnd k o l v x q

/-- CVT. -/
def execCvt (t : Tid) (w : IWord) (s : State) : Host.Outcome State Fault Refusal := run (convert t w) s

end Sys2Proof.Machine
end

