-- ==== Sys2Proof/Machine/Control.lean ====
section
/-! DEFINITION. Control instructions, register access, repeat prefixes, and the events of exceptions and interrupts (R84,
R99, R100, R105, R109-R111, R326, R404-R423). -/

namespace Sys2Proof.Machine

/-- The privileged address that a slot without an access supplies: its EA (R90, R96). -/
def eaAddr (k : Nat) (o : Opnd) : M Nat := do
  match o with
  | .mem va _ => return va
  | .claim c off => return claimAddr (k / 4) (← useClaim (k / 4) c off 1) off
  | _ => return 0

/-- A fetch address must be canonical and a multiple of 4 (R90, R98). -/
def checkTarget (a : Nat) : M Unit :=
  if ¬ canonical a then throw (flt vAddress 1 a 2) else if a % 4 ≠ 0 then throw (flt vAlign 0 a 2) else skip

/-- The target of a branch or CALL: PC plus an immediate, or the EA. -/
def branchTarget (k : Nat) (o : Opnd) : M Nat := do
  let a ← (match o with
    | .imm v => return above ((← get).pc k) v.toNat
    | o => eaAddr k o : M Nat)
  checkTarget a
  return a

/-- An instruction of MAJOR 0x01 to 0x0F, which no repeat may prefix. -/
def control (t : Tid) (w : IWord) (sl : Slots) (legal : Bool) (i2a : Nat) (body : Nat → Opnds → M Ending) : M Unit :=
  starts t sl.len fun k => do
    encoded k w sl legal false
    body k (← compute k w (zOf w) (zOf w) (zOf w) 1 i2a)

/-- No operands. -/
def noSlots : Slots := ⟨noSlot, noSlot, noSlot⟩

/-- Branch where a condition holds. -/
def branch (t : Tid) (w : IWord) (legal : Bool) (c : W64 → Bool) : M Unit :=
  control t w oneSlot legal 2 fun k o => do
    let a ← branchTarget k o.a
    commitPtrs k o.p
    if c ((← get).flags k) then return .jump a [] else return .next []

/-- NOP. -/
def execNop (t : Tid) (w : IWord) (s : State) : Host.Outcome State Fault Refusal :=
  run (control t w noSlots (plain w) 0 fun _ _ => return .next []) s

/-- BR. -/
def execBr (t : Tid) (w : IWord) (s : State) : Host.Outcome State Fault Refusal := run (branch t w (plain w) fun _ => true) s

/-- BCC (R100). -/
def execBcc (t : Tid) (w : IWord) (s : State) : Host.Outcome State Fault Refusal :=
  run (branch t w (plain w && w.minor < 16) fun f => condHolds f w.minor) s

/-- CALL pushes the address of the next instruction. -/
def callTo (t : Tid) (w : IWord) : M Unit :=
  control t w oneSlot (plain w) 2 fun k o => do
    let a ← branchTarget k o.a
    let sp := below (o.p.get 15) 8
    if ¬ canonical sp then throw (flt vAddress 1 sp 1)
    else
      let l ← placeOf k (.mem sp false) .write 8
      writePlace k l (above ((← get).pc k) oneSlot.len)
      commitPtrs k (o.p.set 15 sp)
      return .jump a []

/-- CALL. -/
def execCall (t : Tid) (w : IWord) (s : State) : Host.Outcome State Fault Refusal := run (callTo t w) s

/-- RET pops its target, which is checked as a branch target is. -/
def returnTo (t : Tid) (w : IWord) : M Unit :=
  control t w noSlots (plain w) 0 fun k o => do
    let sp := o.p.get 15
    if ¬ canonical sp then throw (flt vAddress 1 sp 0)
    else
      let a ← readSrc k (.at (← placeOf k (.mem sp false) .read 8))
      checkTarget a
      commitPtrs k (o.p.set 15 (sp + 8))
      return .jump a []

/-- RET. -/
def execRet (t : Tid) (w : IWord) (s : State) : Host.Outcome State Fault Refusal := run (returnTo t w) s

/-- FENCE.MEM: accesses of the model are performed in order, each before the next starts (R314). -/
def execFenceMem (t : Tid) (w : IWord) (s : State) : Host.Outcome State Fault Refusal :=
  run (control t w noSlots (plain w) 0 fun _ _ => return .next []) s

/-- Wait until every engine instruction of the thread has completed. -/
def fenceEngines (k : Nat) : M Unit := do
  if (← get).engBusy k then throw (.hold .engines) else skip

/-- FENCE.ENG. -/
def execFenceEng (t : Tid) (w : IWord) (s : State) : Host.Outcome State Fault Refusal :=
  run (control t w noSlots (plain w) 0 fun k _ => do
    fenceEngines k
    return .next []) s

/-- GATE: an entry into the Service kernel through gate g = MINOR (R411). -/
def gateInto (t : Tid) (w : IWord) : M Unit :=
  control t w ⟨noSlot, memSlot, noSlot⟩ (plain w) 0 fun k o => do
    let a ← eaAddr k o.a
    let s ← get
    if ¬ s.flag (.gateMask (k / 4)) w.minor then throw (fltWord w vPrivilege 0)
    else
      let b := va57 (s.reg (.gateBase (k / 4))).toNat
      enter k ⟨0x0C, w.minor, BitVec.ofNat 64 a, 0, false, false, above (s.pc k) oneSlot.len,
        some (above b (64 * w.minor))⟩ (s.ptrs k) false
      return .raw

/-- GATE. -/
def execGate (t : Tid) (w : IWord) (s : State) : Host.Outcome State Fault Refusal := run (gateInto t w) s

/-- ERET (R410): the frame is read and checked before anything changes. -/
def returnFrom (t : Tid) (w : IWord) : M Unit :=
  control t w noSlots (plain w) 0 fun k o => do
    let fl := (← get).flags k
    if ¬ bit fl 33 then throw (fltWord w vPrivilege 0)
    else
      fenceEngines k
      let sp := o.p.get 15
      if ¬ canonical sp then throw (flt vAddress 1 sp 0)
      else
        let f := toLE (← readSrc k (.at (← placeOf k (.mem sp false) .read 64))) 64
        let pc := leAt f 0 8
        let nf : W64 := BitVec.ofNat 64 (leAt f 8 8)
        let rep := leAt f 0x30 4
        if ¬ bit fl 34 ∧ bit nf 34 then throw (fltWord w vPrivilege 0)
        else if pc % 4 ≠ 0 ∨ pc = 0 then throw (flt vAlign 0 pc 2)
        else if 4 < field nf 24 3 ∨ (bit nf 30 ∧ ¬ bit nf 29) ∨ (bit nf 29 ∧ rep = 0) then throw (fltWord w vOperand 0)
        else
          modify fun s => (s.setFld (excReg k) 0 1 0).endDouble k
          return .jump pc [(0x10, nf &&& flagsMask), (0x0F, BitVec.ofNat 64 (leAt f 0x10 8)), (0x19, BitVec.ofNat 64 rep)]

/-- ERET. -/
def execEret (t : Tid) (w : IWord) (s : State) : Host.Outcome State Fault Refusal := run (returnFrom t w) s

/-- TRAP enters its exception with the saved PC after it (R413). -/
def trapWith (t : Tid) (w : IWord) : M Unit :=
  control t w oneSlot (plain w) 0 fun k o => do
    let v ← readSrc k (← srcOf k o.a (zOf w))
    enter k ⟨0x0B, 0, BitVec.ofNat 64 v, 0, false, false, above ((← get).pc k) oneSlot.len, none⟩ o.p false
    return .raw

/-- TRAP. -/
def execTrap (t : Tid) (w : IWord) (s : State) : Host.Outcome State Fault Refusal := run (trapWith t w) s

/-- PARK (R404, R412). -/
def parkSelf (t : Tid) (w : IWord) : M Unit :=
  starts t noSlots.len fun k => do
    let fl := (← get).flags k
    if ¬ bit fl 34 then throw (fltWord w vPrivilege 0)
    else
      encoded k w noSlots (plain w && w.minor = 0) false
      if ¬ bit fl 33 then throw (fltWord w vPrivilege 0)
      else
        fenceEngines k
        park k
        modify fun s => s.setThread k { s.thread k with hold := .none }
        return .raw

/-- PARK. -/
def execPark (t : Tid) (w : IWord) (s : State) : Host.Outcome State Fault Refusal := run (parkSelf t w) s

/-- A selector that names a register (R84). -/
def threadSel (n : Nat) : Bool := n ≤ 0x1B || (0x20 ≤ n && n ≤ 0x27)

/-- GETR stores the low SIZE bytes of a register. -/
def getRegister (t : Tid) (w : IWord) : M Unit :=
  let z := zOf w
  scalar t w ⟨memSlot, noSlot, noSlot⟩ (plain w && threadSel w.minor) z z z fun k o => do
    let l ← placeOf k o.d .write z
    writePlace k l (((← get).reg (thr k w.minor)).toNat % 2 ^ (8 * z))
    commitPtrs k o.p
    return .next []

/-- GETR. -/
def execGetr (t : Tid) (w : IWord) (s : State) : Host.Outcome State Fault Refusal := run (getRegister t w) s

/-- The value that PUTR stores in a register, or none for an illegal operand (R99, R105). -/
def putValue (sel : Nat) (f : W64) (v : Nat) : Option W64 :=
  if 0x1B ≤ sel then none
  else if sel = 0x10 then (if 4 < v / 2 ^ 24 % 8 then none else some (putFlags f (BitVec.ofNat 64 v)))
  else if sel = 0x15 then (if 32768 < v % 2 ^ 32 then none else some (BitVec.ofNat 64 (v % 2 ^ 32)))
  else if sel = 0x16 then (if [1, 2, 4, 8].contains (v % 2 ^ 32) then some (BitVec.ofNat 64 (v % 2 ^ 32)) else none)
  else if sel = 0x17 ∨ sel = 0x18 ∨ sel = 0x19 then some (BitVec.ofNat 64 (v % 2 ^ 32))
  else some (BitVec.ofNat 64 v)

/-- PUTR writes a register. -/
def putRegister (t : Tid) (w : IWord) : M Unit :=
  let z := zOf w
  starts t (oneSlot.len) fun k => do
    encoded k w oneSlot (plain w && threadSel w.minor) (w.minor ≠ 0x10 && w.minor ≠ 0x19)
    let o ← compute k w z z z 1 0
    if 0x1B ≤ w.minor then throw (fltWord w vOperand 0)
    else
      let v ← readSrc k (← srcOf k o.a z)
      match putValue w.minor ((← get).flags k) v with
      | none => throw (fltWord w vOperand 0)
      | some x =>
        commitPtrs k o.p
        return .next [(w.minor, x)]

/-- PUTR. -/
def execPutr (t : Tid) (w : IWord) (s : State) : Host.Outcome State Fault Refusal := run (putRegister t w) s

/-- LEA Pk: the EA, or the sign-extended immediate. -/
def leaInto (t : Tid) (w : IWord) : M Unit :=
  let z := zOf w
  scalar t w oneSlot (plain w && w.minor < 16) z z z fun k o => do
    let v ← (match o.a with
      | .imm v => return v.toNat
      | a => eaAddr k a : M Nat)
    commitPtrs k o.p
    return .next [(w.minor, BitVec.ofNat 64 v)]

/-- LEA. -/
def execLea (t : Tid) (w : IWord) (s : State) : Host.Outcome State Fault Refusal := run (leaInto t w) s

/-- A base word that may not follow a repeat (R111). -/
def noRepeat (x : W32) : Bool :=
  let m := field x 24 8
  let n := field x 18 6
  (1 ≤ m && m ≤ 0x0F) || m = 0x48 || m = 0x49 || (m = 0x41 && (n = 0x10 || n = 0x19)) || (0xE0 ≤ m && m ≤ 0xEF)

/-- REP and REPX (R109, R110); `nxt` is the base word that follows. -/
def repeatNext (t : Tid) (w : IWord) (nxt : W32) (x : Bool) : M Unit :=
  let z := zOf w
  starts t oneSlot.len fun k => do
    encoded k w oneSlot (plain w && !noRepeat nxt) false
    let o ← compute k w z z z 1 0
    let n := (← readSrc k (← srcOf k o.a z)) % 2 ^ 32
    if x ∧ 64 < n then throw (fltWord w vOperand 0)
    else
      commitPtrs k o.p
      let s ← get
      if n = 0 then return .jump (above (s.pc k) (oneSlot.len + wordLen nxt)) []
      else return .next [(0x19, BitVec.ofNat 64 n), (0x10, setField (s.flags k) 29 2 (1 + 2 * b2n x))]

/-- REP. -/
def execRep (t : Tid) (w : IWord) (nxt : BitVec 32) (s : State) : Host.Outcome State Fault Refusal :=
  run (repeatNext t w nxt false) s

/-- REPX. -/
def execRepx (t : Tid) (w : IWord) (nxt : BitVec 32) (s : State) : Host.Outcome State Fault Refusal :=
  run (repeatNext t w nxt true) s

/-- A fetch that an access table denies, or that has no target, is reported as any denied access is (R302, R311). -/
def fetchDenied (k pa : Nat) : M Unit := do
  let s ← get
  if inRegs pa then
    let _ ← regCheck (s.crewPort k).req .rd pa 4
    skip
  else
    let _ ← checkAcc (s.crewPort k).req .rd pa 4
    skip

/-- An interrupt at a boundary, or at the stop point of a waiting instruction; a REPX sequence and an instruction that has
started take none, and a pending ARITH comes first (R110, R417-R419). -/
def interruptAt (k : Nat) : M Unit := do
  let s ← get
  if (s.takable k).isNone ∨ s.stalled k then skip
  else match s.boundary k with
    | some m => settleStop k m
    | none => skip

/-- The vector of a fault whose INFO is the base word: an instruction of the reserved majors 0xE1 to 0xEF is privileged in the Job
world and illegal in the Service world (R404). -/
def State.wordVector (s : State) (k vec : Nat) (info : W64) : Nat :=
  if (vec = vIllegal ∨ vec = vPrivilege) ∧ 0xE1 ≤ field info 24 8 ∧ field info 24 8 ≤ 0xEF then
    (if s.thrWorld k then vIllegal else vPrivilege)
  else vec

/-- An exception that a thread raises, by its vector: a fault of the instruction about to start, with its sub-code and
information, the pending ARITH, or the interrupt that can be taken, in the order of R419. GATE and DOUBLE_FAULT are entered only
by GATE and by a failed entry; a parked thread raises no fault, and a thread whose fault is on its way in raises no other. -/
def enterVector (k vec sub : Nat) (info info2 : W64) (res : Bool) : M Unit := do
  let s ← get
  if (s.thread k).raised.isSome then entryGoesOn k
  else if vec = 0x10 then interruptAt k
  else if s.parked k then skip
  else if vec = 0x0A then whenM (s.atBoundary k) (settleStop k (takeArith k))
  else if vec ≤ 0x0B then
    match s.boundary k with
    | some m => settleStop k m
    | none => do
      whenM (decide (vec = vAddress) && bit info2 1 && (sub == 0x10 || sub == 0x11)) (fetchDenied k info.toNat)
      settleStop k (enterFault k (s.wordVector k vec info) sub info info2 res)
  else skip

/-- EXCEPTION_ENTRY (R408). -/
def execExceptionEntry (t : Tid) (vec sub : BitVec 8) (info info2 : BitVec 64) (resumable : Bool) (s : State) :
    Host.Outcome State Fault Refusal :=
  run (enterVector t.k vec.toNat sub.toNat info info2 resumable) s

/-- TAKE_INTERRUPT. -/
def execTakeInterrupt (t : Tid) (s : State) : Host.Outcome State Fault Refusal := run (interruptAt t.k) s

/-- TIDE_NOW has reached a compare register that is not 0: its source becomes pending, once for each value that the register is
written with (R417). -/
def tideSource (t : Tid) (cmp : Reg) (b : Nat) (past : Bool) (x : ThreadSt) : M Unit := do
  let s ← get
  let m := (s.reg cmp).toNat
  whenM (m != 0 && decide (m ≤ s.tideNow) && !past) (do
    wrf (.intPend t.tree t.th) b 1 1
    modify fun s => s.setThread t.k x)

/-- TIDE_J. -/
def execTideJ (t : Tid) (s : State) : Host.Outcome State Fault Refusal :=
  run (tideSource t (.intTcmpJ t.tree t.th) 1 (s.thread t.k).pastJ { s.thread t.k with pastJ := true }) s

/-- TIDE_S. -/
def execTideS (t : Tid) (s : State) : Host.Outcome State Fault Refusal :=
  run (tideSource t (.intTcmpS t.tree t.th) 9 (s.thread t.k).pastS { s.thread t.k with pastS := true }) s

/-- SOFT_J: a write of INT_SET bit 0 (R417). -/
def execSoftJ (r : Req) (t : Tid) (s : State) : Host.Outcome State Fault Refusal :=
  run (writeReg r (.intSet t.tree t.th) 1) s

/-- SOFT_S: a write of INT_SET bit 8. -/
def execSoftS (r : Req) (t : Tid) (s : State) : Host.Outcome State Fault Refusal :=
  run (writeReg r (.intSet t.tree t.th) 0x100) s

/-- A read held under WAIT has waited WAITMAX and its set is still not done: it ends with EPOCH code 6 and an EPOCH record
(R326). -/
def waitEnds (u : Waiter) : M Unit := do
  let s ← get
  let told (master i : Nat) : M Unit := do
    noteEpFault 6 master i
    incident 0x0A 2 6 (unitWord 0 0) 0 ((← get).reg .epStatus)
  match u with
  | .thread t =>
    match (s.thread t.k).hold with
    | .epoch va i res => whenM (s.setWaits i) (do
      told t.k i
      modify fun s => s.setThread t.k { s.thread t.k with hold := .none }
      uncount t.k
      settleStop t.k (enterFault t.k vEpoch 6 (BitVec.ofNat 64 va) (BitVec.ofNat 64 i) res))
    | _ => skip
  | .ferry f =>
    match s.ferry f with
    | some m =>
      match m.hold with
      | .epoch _ i _ => whenM (s.setWaits i) (do
        told (0x100 + f) i
        ferryEnd f 2)
      | _ => skip
    | none => skip

/-- WAIT_TIMEOUT. -/
def execWaitTimeout (u : Waiter) (s : State) : Host.Outcome State Fault Refusal := run (waitEnds u) s

end Sys2Proof.Machine
end

