-- ==== Sys2Proof/Machine/Fun.lean ====
section
/-! DEFINITION. Chain precision and the exact functions of chains (R172-R175): a function's value is enclosed between two
integers over 2^1500, and both ends of the enclosure settle the 32-bit significand. -/

namespace Sys2Proof.Machine

/-- A magnitude below the chain range (R173). -/
def chainTiny (neg : Bool) : Val := .fin neg (2 ^ 31 + 1) (2 ^ 541)

/-- A chain value from its floor at 32 bits, an exponent, and whether anything was discarded (R173). -/
def chainPack (neg : Bool) (e : Int) (m : Nat) (exact : Bool) : Val × Nat :=
  if 512 ≤ e then (.inf neg, cOF)
  else if e < -510 then (chainTiny neg, 0)
  else (.dyadic neg (if exact then m else m ||| 1) (e - 31), 0)

/-- A result held in chain precision: rounded to odd at 32 bits (R173). -/
def holdChain (x : Val × Nat) : Val × Nat :=
  match x.1 with
  | .fin neg n d =>
    if n = 0 then (.fin neg 0 1, x.2)
    else
      let e := ilog2 n d
      let (a, b) := scale2 n (31 - e)
      let (v, c) := chainPack neg e (a / (b * d)) (a % (b * d) = 0)
      (v, c ||| x.2)
  | .nan _ => (.nan false, x.2)
  | v => (v, x.2)

/-- Bits after the point of an enclosure. -/
def encP : Nat := 1500

/-- An enclosure of a positive number: both ends over 2^encP. -/
structure Enc where
  lo : Nat
  hi : Nat
  deriving DecidableEq, Repr

/-- The enclosure of a quotient. -/
def Enc.ofQ (n d : Nat) : Enc := ⟨n * 2 ^ encP / d, n * 2 ^ encP / d + 1⟩

/-- Sum of enclosures. -/
def Enc.add (a b : Enc) : Enc := ⟨a.lo + b.lo, a.hi + b.hi⟩

/-- Difference of enclosures, the first above the second. -/
def Enc.sub (a b : Enc) : Enc := ⟨a.lo - b.hi, a.hi - b.lo⟩

/-- Product of enclosures. -/
def Enc.mul (a b : Enc) : Enc := ⟨a.lo * b.lo / 2 ^ encP, a.hi * b.hi / 2 ^ encP + 1⟩

/-- Quotient of enclosures. -/
def Enc.div (a b : Enc) : Enc := ⟨a.lo * 2 ^ encP / b.hi, a.hi * 2 ^ encP / b.lo + 1⟩

/-- The enclosure of 1. -/
def Enc.one : Enc := ⟨2 ^ encP, 2 ^ encP⟩

/-- Square root of an enclosure. -/
def Enc.sqrt (a : Enc) : Enc := ⟨isqrt (a.lo * 2 ^ encP), isqrt (a.hi * 2 ^ encP) + 1⟩

/-- Half of an enclosure. -/
def Enc.half (a : Enc) : Enc := ⟨a.lo / 2, a.hi / 2 + 1⟩

/-- Terms of the exponential series from term i on. -/
def expTerms (x : Nat) : Nat → Nat → Nat → Nat
  | 0, _, _ => 0
  | k + 1, i, t => t + expTerms x k (i + 1) (t * x / 2 ^ encP / (i + 1))

/-- Squared k times over 2^encP. -/
def sqTimes : Nat → Nat → Nat
  | 0, a => a
  | k + 1, a => sqTimes k (a * a / 2 ^ encP)

/-- e^x for a quotient x from 0 to 1100: series at x / 2^17 and 17 squarings, with an error below one part in
2^(encP - 60). -/
def Enc.expQ (n d : Nat) : Enc :=
  let x := n * 2 ^ encP / d / 2 ^ 17
  let a := sqTimes 17 (expTerms x 220 0 (2 ^ encP))
  ⟨a - a / 2 ^ (encP - 60) - 1, a + a / 2 ^ (encP - 60) + 1⟩

/-- e^x of an enclosure. -/
def Enc.exp (x : Enc) : Enc := ⟨(Enc.expQ x.lo (2 ^ encP)).lo, (Enc.expQ x.hi (2 ^ encP)).hi⟩

/-- Terms of arctan (1 / q), alternating, from term i on; each is truncated. -/
def atanTerms (q : Nat) : Nat → Nat → Nat → Int
  | 0, _, _ => 0
  | k + 1, i, t => (if i % 2 = 0 then ((t / (2 * i + 1) : Nat) : Int) else -((t / (2 * i + 1) : Nat) : Int))
      + atanTerms q k (i + 1) (t / (q * q))

/-- pi, by 16 arctan (1/5) - 4 arctan (1/239). -/
def Enc.pi : Enc :=
  let b := 2 ^ encP
  let v := (16 * atanTerms 5 400 0 (b / 5) - 4 * atanTerms 239 100 0 (b / 239)).toNat
  ⟨v - 2 ^ 20, v + 2 ^ 20⟩

/-- Sum of x^(2n) / (2n+1)!! from term n on, and a bound of what is left out. -/
def erfTerms (x2 : Nat) : Nat → Nat → Nat → Nat × Nat
  | 0, _, t => (0, t)
  | k + 1, n, t =>
    let (s, r) := erfTerms x2 k (n + 1) (t * x2 / 2 ^ encP / (2 * n + 3))
    (t + s, r)

/-- Phi(x) - 1/2 for a quotient x from 0 to 32. -/
def Enc.phiHalf (n d : Nat) : Enc :=
  let q := Enc.ofQ (n * n) (d * d)
  let lo := (erfTerms q.lo 3000 0 (2 ^ encP)).1
  let (h, r) := erfTerms q.hi 3000 0 (2 ^ encP)
  let s : Enc := ⟨lo, h + 2 * r + 4 * (h / 2 ^ (encP - 60)) + 6000⟩
  let c := Enc.one.div (Enc.pi.add Enc.pi).sqrt
  ((c.mul (Enc.ofQ n d)).mul s).div (Enc.expQ (n * n) (2 * d * d))

/-- A positive number strictly inside an enclosure, held in chain precision; none when the enclosure does not settle it. -/
def Enc.settle (neg : Bool) (x : Enc) : Option (Val × Nat) :=
  if x.lo = 0 then (if x.hi < 2 ^ (encP - 510) then some (chainTiny neg, 0) else none)
  else
    let e := ilog2 x.lo (2 ^ encP)
    let (a, b) := scale2 x.lo (31 - e)
    let (c, d) := scale2 x.hi (31 - e)
    let m := a / (b * 2 ^ encP)
    if m = (c + d * 2 ^ encP - 1) / (d * 2 ^ encP) - 1 ∧ m < 2 ^ 32 then some (chainPack neg e m false)
    else if x.hi < 2 ^ (encP - 510) then some (chainTiny neg, 0)
    else none

/-- A settled value, or what the model leaves free of it (log entry 12). -/
def settled (fn : Nat) (neg : Bool) (n d : Nat) : Option (Val × Nat) → Val × Nat
  | some v => v
  | none =>
    let (a, b) := Config.unsettled fn (toInt neg n) d
    holdChain (.fin neg (a.natAbs + 1) (b + 1), 0)

/-- Function codes: those of VFFN (R201). -/
def fnGelu : Nat := 0
/-- GELU with tanh. -/
def fnGeluT : Nat := 1
/-- SILU. -/
def fnSilu : Nat := 2
/-- SIGMOID. -/
def fnSigmoid : Nat := 3
/-- TANH. -/
def fnTanh : Nat := 4
/-- EXP. -/
def fnExp : Nat := 5

/-- The logistic function of a quotient with a sign. -/
def Enc.sigm (neg : Bool) (e : Enc) : Enc := if neg then Enc.one.div (Enc.one.add e) else e.div (Enc.one.add e)

/-- u = sqrt(2/pi) (x + 0.044715 x^3), doubled, of a magnitude. -/
def geluArg (n d : Nat) : Enc :=
  let c := ((Enc.ofQ 2 1).div Enc.pi).sqrt
  let x := Enc.ofQ n d
  let p := (Enc.ofQ (44715 * n * n * n) (1000000 * d * d * d)).add x
  let u := c.mul p
  u.add u

/-- x times a factor, as an enclosure. -/
def timesQ (n d : Nat) (f : Enc) : Enc := (Enc.ofQ n d).mul f

/-- The magnitude of a function of a finite value that is not 0, with an exponent between -64 and about 9: its sign and an
enclosure. -/
def fnMid (fn : Nat) (neg : Bool) (n d : Nat) : Bool × Enc :=
  match fn with
  | 0 =>
    let h := Enc.phiHalf n d
    let half : Enc := ⟨2 ^ (encP - 1), 2 ^ (encP - 1)⟩
    (neg, timesQ n d (if neg then half.sub h else half.add h))
  | 1 => (neg, timesQ n d (Enc.sigm neg (geluArg n d).exp))
  | 2 => (neg, timesQ n d (Enc.sigm neg (Enc.expQ n d)))
  | 3 => (false, Enc.sigm neg (Enc.expQ n d))
  | 4 =>
    let e := Enc.expQ (2 * n) d
    (neg, (e.sub Enc.one).div (e.add Enc.one))
  | _ =>
    let e := Enc.expQ n d
    (false, if neg then Enc.one.div e else e)

/-- A function of a finite value of magnitude below 2^-64: next to a number that it does not reach. -/
def fnSmall (fn : Nat) (neg : Bool) (n d : Nat) : Val × Nat :=
  let near (sg up : Bool) (a b : Nat) : Val × Nat :=
    let (x, y) := if up then (a * (2 ^ 60 + 1), b * 2 ^ 60) else (a * (2 ^ 60 - 1), b * 2 ^ 60)
    let e := if up then ilog2 a b else ilog2 x y
    let (p, q) := scale2 (if up then a else x) (31 - e)
    let m := p / (q * (if up then b else y))
    chainPack sg e m false
  match fn with
  | 3 => near false (!neg) 1 2
  | 4 => near neg false n d
  | 5 => near false (!neg) 1 1
  | _ => near neg (!neg) n (2 * d)

/-- A function of a finite value beyond the range in which it is enclosed. -/
def fnLarge (fn : Nat) (neg : Bool) (n d : Nat) : Val × Nat :=
  let below (a b : Nat) : Val × Nat :=
    let e := ilog2 (a * (2 ^ 500 - 1)) (b * 2 ^ 500)
    let (p, q) := scale2 (a * (2 ^ 500 - 1)) (31 - e)
    chainPack (neg && fn = 4) e (p / (q * (b * 2 ^ 500))) false
  match fn with
  | 3 => if neg then (chainTiny false, 0) else below 1 1
  | 4 => below 1 1
  | 5 => if neg then (chainTiny false, 0) else (.inf false, cOF)
  | _ => if neg then (chainTiny true, 0) else below n d

/-- The bound beyond which a function is not enclosed. -/
def fnBound (fn : Nat) (neg : Bool) : Nat := if fn = 1 ∧ ¬ neg then 16 else if fn ≤ 1 then 30 else 400

/-- A function of a value in chain precision: exact, held once, with the special values of R174. -/
def chainFn (fn : Nat) (x : Val) : Val × Nat :=
  match x with
  | .nan s => (.nan false, if s then cIV else 0)
  | .inf neg =>
    match fn with
    | 3 => if neg then (.fin false 0 1, 0) else (.fin false 1 1, 0)
    | 4 => (.fin neg 1 1, 0)
    | 5 => if neg then (.fin false 0 1, 0) else (.inf false, 0)
    | _ => if neg then (.fin true 0 1, 0) else (.inf false, 0)
  | .fin neg n d =>
    if n = 0 then
      match fn with
      | 3 => (.fin false 1 2, 0)
      | 5 => (.fin false 1 1, 0)
      | _ => (.fin neg 0 1, 0)
    else if n * 2 ^ 64 < d then fnSmall fn neg n d
    else if fnBound fn neg * d < n then fnLarge fn neg n d
    else
      let (sg, e) := fnMid fn neg n d
      settled fn neg n d (e.settle sg)

/-- e^y of a finite y as an enclosure, for a magnitude of at most 1000; e^0 is exact. -/
def expEnc (neg : Bool) (n d : Nat) : Enc :=
  if n = 0 then Enc.one else if neg then Enc.one.div (Enc.expQ n d) else Enc.expQ n d

/-- SOFTMAX: e^(x - m) / s, one exact function held once (R175, R180). -/
def softmax (x m s : Val) : Val × Nat :=
  let iv := sigs [m, s]
  match x with
  | .inf true => (.fin false 0 1, iv)
  | _ =>
    let (y, c) := x.add false m.neg
    match y with
    | .fin neg n d =>
      if n = 0 then
        let (q, k) := (Val.fin false 1 1).div s
        holdChain (q, c ||| k)
      else
        match s with
        | .fin sn a b =>
          if a = 0 then (.inf sn, cDZ)
          else if 500 * d < n then (if neg then (chainTiny sn, c) else (.inf sn, c ||| cOF))
          else settled 6 sn n d (((expEnc neg n d).mul (Enc.ofQ b a)).settle sn)
        | .inf sn => (.fin sn 0 1, c)
        | .nan _ => (.nan false, c ||| iv)
    | y =>
      let (e, k) := chainFn 5 y
      let (q, l) := e.div s
      holdChain (q, c ||| k ||| l)

/-- 1 / sqrt a, held (R180). -/
def chainRsqrt (a : Val) : Val × Nat :=
  match a with
  | .fin false (n + 1) d => holdChain (Val.fin false d (n + 1)).sqrt
  | .fin sg 0 _ => (.inf sg, cDZ)
  | .fin true _ _ => (.nan false, cIV)
  | .inf false => (.fin false 0 1, 0)
  | .inf true => (.nan false, cIV)
  | .nan _ => (.nan false, 0)

/-- Two ends of an enclosure over a denominator, rounded to FP32 when both agree (R177). -/
def roundEnds (lo hi : Int) (d : Nat) : Option (Nat × Nat) :=
  let f (x : Int) := Fmt.fp32.encode rne 0 (.fin (x < 0) x.natAbs d)
  if f lo = f hi then some (f lo) else none

/-- a * e^y + b for FP32 values a, b and a y below 0, exact and rounded once to FP32 (R177). With y below -900 every positive
factor so small gives the same rounding, so an enclosure between two of them serves. -/
def mergeExp (a y b : Val) : Nat × Nat :=
  match a, y, b with
  | .fin na n₁ d₁, .fin _ n d, .fin nb n₂ d₂ =>
    if n₁ = 0 then Fmt.fp32.fin rne 0 ((Val.fin na 0 1).add false b)
    else
      let e : Enc := if 900 * d < n then ⟨1, 2 ^ (encP - 1200)⟩ else expEnc true n d
      let up (x : Nat) : Int := toInt na (n₁ * x * d₂) + toInt nb (n₂ * d₁ * 2 ^ encP)
      match roundEnds (up e.lo) (up e.hi) (d₁ * d₂ * 2 ^ encP) with
      | some r => r
      | none =>
        let (u, v) := Config.unsettled 7 (toInt na n) d
        Fmt.fp32.fin rne 0 (.fin (u < 0) u.natAbs (v + 1), 0)
  | a, y, b =>
    let (e, c) := chainFn 5 y
    let (p, k) := a.mul e
    let (t, l) := p.add false b
    Fmt.fp32.fin rne 0 (t, c ||| k ||| l)

end Sys2Proof.Machine
end

