-- ==== Sys2Proof/Machine/Engine.lean ====
section
/-! DEFINITION. What the engine instructions share: heartwood operands, footprints and the scoreboard's order, queue limits, and
what an instruction is found to be at issue (R113-R115, R134, R140, R210, R233-R237). -/

namespace Sys2Proof.Machine

/-- The footprint of a claim word (R124, R233). -/
def claimFp (w : W64) : Footprint :=
  let n := field w 18 10
  ⟨(2 ^ 2 ^ field w 5 3 - 1) <<< field w 0 5, field w 8 10, field w 8 10 + (if n = 0 then 1024 else n) - 1⟩

/-- The footprint of translated parts: every bank, from the first to the last bank row (R233). -/
def segsFp (t : Nat) (l : List Seg) : List Footprint :=
  match l with
  | [] => []
  | g :: r =>
    let lo := r.foldl (fun m x => min m x.pa) g.pa
    let hi := r.foldl (fun m x => max m (x.pa + x.n)) (g.pa + g.n)
    [⟨2 ^ 32 - 1, (lo - heartOf t) / 4096, (hi - 1 - heartOf t) / 4096⟩]

/-- The footprints of an operand. -/
def opFp (t : Nat) (o : Opnd) (l : List Seg) : M (List Footprint) := do
  match o with
  | .claim c _ => return [claimFp (← rd (.claim t c))]
  | _ => return segsFp t l

/-- The claims that operands name. -/
def opClaims (l : List Opnd) : List Nat := l.filterMap fun o => match o with | .claim c _ => some c | _ => none

/-- At most four footprints: the rest are merged (R233). -/
def mergeFp (l : List Footprint) : List Footprint :=
  if l.length ≤ 4 then l
  else l.take 3 ++ [(l.drop 3).foldl (fun (m x : Footprint) => ⟨m.mask ||| x.mask, min m.lo x.lo, max m.hi x.hi⟩) ⟨0, 1023, 0⟩]

/-- Two footprints meet (R233). -/
def Footprint.meets (a b : Footprint) : Bool := a.mask &&& b.mask != 0 && a.lo ≤ b.hi && b.lo ≤ a.hi

/-- Two sets of footprints meet. -/
def fpsMeet (a b : List Footprint) : Bool := a.any fun x => b.any x.meets

/-- A later instruction meets an earlier one (R234). -/
def Work.meets (x y : Work) : Bool :=
  fpsMeet x.reads y.writes || fpsMeet x.writes y.writes || fpsMeet x.writes y.reads
    || (x.regsR &&& y.regsW) != 0 || (x.regsW &&& y.regsW) != 0 || (x.regsW &&& y.regsR) != 0

/-- MDRN and MLDA. -/
def isDrain (w : IWord) : Bool := w.major = 0xB2 || w.major = 0xB3

/-- The bank of a matrix instruction (R153). -/
def bankOf (w : IWord) : Nat := b2n (if isDrain w then bit w.base 19 else bit w.base 13)

/-- The engine's own order holds a later instruction behind one not yet performed: vector unit, tile file and stream engine
take theirs in turn; a drain moves aside for the instructions of the other bank (R157, R208, R230). -/
def ownOrder (xw : IWord) (x : Work) (y : SbEntry) : Bool :=
  x.eng = y.work.eng && x.eng != 3 && (x.eng < 3 || isDrain xw || !isDrain y.word || bankOf xw = bankOf y.word)

/-- Drains of an engine that have not been performed. -/
def drainsLeft (l : List SbEntry) (eng : Nat) : Nat :=
  (l.filter fun (y : SbEntry) => y.work.eng = eng && isDrain y.word && !y.performed).length

/-- An instruction of a thread presents no access yet (R234, R237): an SBWAIT of its thread is not satisfied, or an earlier
instruction that it meets, or that comes before it in its engine, has not been performed; for an MMA also while a drain holds the
head of its queue, the drain stage having one that waits already (R157). An MMAP keeps the reads of its prologue until its tally
passes (R188). -/
def blocked (earlier : List SbEntry) (th : Nat) (w : IWord) (x : Work) : Bool :=
  (4 ≤ x.eng && !isDrain w && 2 ≤ drainsLeft earlier x.eng) ||
  earlier.any fun (y : SbEntry) =>
    (!y.performed && ((y.th = th && y.work.wait.isSome) || ownOrder w x y || x.meets y.work))
      || (y.word.major = 0xB1 && fpsMeet x.writes y.work.reads)

/-- Tallies pending in array n (R158). -/
def State.talliesOf (s : State) (t n : Nat) : List Tally := aread [] (s.tree t).tallies n

/-- A state with the pending tallies of array n set; PENDT follows. -/
def State.setTallies (s : State) (t n : Nat) (l : List Tally) : State :=
  (s.setTree t { s.tree t with tallies := awrite [] (s.tree t).tallies n l }).setFld (.mxArray t n) 48 4 l.length

/-- The scoreboard entries before an instruction of thread k that is being issued: those before its own, when it is recorded
already and waits before its fault point. -/
def State.before (s : State) (k : Nat) : List SbEntry :=
  (s.tree (k / 4)).sb.takeWhile fun e => !(e.th = k && e.early)

/-- Units of an engine under self-test (R443). -/
def State.engTested (s : State) (t eng : Nat) : Bool :=
  match eng with
  | 0 => s.testing 3 t
  | 1 => (List.range 4).any fun q => s.testing 2 (t * 4 + q)
  | 2 => s.testing 4 t
  | 3 => false
  | n => match (s.treeArrays t)[n - 4]? with
    | some (_, bl) => bl.any fun b => s.testing 0 (t * 16 + b)
    | none => false

/-- A thread does not start an engine instruction: the queue, which a drain at its head has left for the drain stage (R157), or the
scoreboard is full, a re-rig or a test is under way, or a
commit for an epoch instruction (R114, R166, R235, R335, R443). -/
def engRoom (k eng : Nat) (epochs : Bool) : M Unit := do
  let s ← get
  let t := k / 4
  let sb := (s.tree t).sb.filter fun e => !(e.th = k && e.early)
  let q := sb.filter fun e => e.work.eng = eng && !e.performed
  let n := q.length - b2n (match q with | e :: _ => 4 ≤ eng && isDrain e.word | [] => false)
  let cap := match eng with | 2 => 4 | 0 => 8 | 1 => 8 | 3 => 8 | _ => 4
  if 32 ≤ sb.length ∨ cap ≤ n ∨ s.engTested t eng ∨ (4 ≤ eng ∧ s.pstate = 2) ∨ (epochs ∧ s.fld .epStatus 32 3 = 2) then
    throw (.hold .issue)
  else skip

/-- The engines' status registers follow the scoreboard (VU_STATUS, SE_STATUS, MX_BANK.DRAIN). -/
def engSync (t : Nat) : M Unit := modify fun (s : State) =>
  let sb := (s.tree t).sb
  let depth (e : Nat) := (sb.filter fun x => x.work.eng = e && !x.performed).length
  let busy (e : Nat) := b2n (sb.any fun x => x.work.eng = e)
  let s := (s.setFld (.vuStatus t) 0 4 (depth 0)).setFld (.vuStatus t) 4 1 (busy 0)
  let s := (s.setFld (.seStatus t) 0 3 (depth 2)).setFld (.seStatus t) 3 1 (busy 2)
  (List.range 32).foldl (fun (s : State) i =>
    let d := sb.any fun x => x.work.eng = 4 + i / 2 && isDrain x.word && bankOf x.word = i % 2
    if s.flag (.mxBank t (i / 2) (i % 2)) 22 = d then s else s.setFld (.mxBank t (i / 2) (i % 2)) 22 1 (b2n d)) s

/-- What an instruction is found to be at issue: its work, its pointer updates, registers written, whether it is an SR
instruction (R77), and where it stops short: the selector of the resume register, its value, and the fault. -/
structure Prep where
  work : Work
  ptrs : Ptrs
  sets : List (Nat × W64)
  sr : Bool
  stop : Option (Nat × Nat × Stop)
  deriving DecidableEq, Repr

/-- The work of an engine with nothing to do. -/
def Work.none (eng : Nat) : Work := ⟨eng, [], [], 0, 0, [], [], [], [], Option.none⟩

/-- What is done, or the fault or wait that ended it, which can be resumed from VRESUME or TRESUME (R414). -/
def attempt {α : Type} (m : M α) : M (Except Stop α) :=
  tryCatch (do return .ok (← m)) fun e => match e with
    | .exc v c i i2 _ => return .error (.exc v c i i2 true)
    | .hold h => return .error (.hold h)
    | e => throw e

/-- Parts found good, and how many bytes came before the first that is not, with its fault or wait. -/
abbrev Walk := List Seg × Option (Nat × Stop)

/-- The lines of a part whose access is permitted: one in a heartwood segment under test waits (R443). -/
def State.walkHeld (s : State) (pol : Nat) : Nat → List (Nat × Nat) → Walk
  | _, [] => ([], none)
  | done, (a, n) :: r =>
    if s.segHeld a n then ([], some (done, .hold .issue))
    else
      let (l, f) := s.walkHeld pol (done + n) r
      (⟨a, pol, n⟩ :: l, f)

/-- Check translated parts, each one access to the tables (R308; log entry 52); `done` bytes come before them. -/
def walkLines (p : Port) (u : Use) (pol i2 : Nat) : Nat → List (Nat × Nat) → M Walk
  | _, [] => return ([], none)
  | done, (a, n) :: r => do
    match ← attempt (permit p u a n i2) with
    | .error e => return ([], some (done, e))
    | .ok _ =>
      match (← get).walkHeld pol done (lineParts a n) with
      | (l, some f) => return (l, some f)
      | (l, none) =>
        let (l', f) ← walkLines p u pol i2 (done + n) r
        return (l ++ l', f)

/-- A stop that is a wait. -/
def Stop.waits : Stop → Bool
  | .hold _ => true
  | _ => false

/-- Check the pages of an operand [o, o + m): each byte in the issuing tree's own heartwood, and granted (R134). -/
def walkPages (k : Nat) (p : Port) (u : Use) (far : Bool) (o m i2 : Nat) : Nat → List (Nat × Nat) → M Walk
  | _, [] => return ([], none)
  | done, (va, n) :: r => do
    let t := k / 4
    match ← attempt (transl p u far o m (va % 2 ^ 64) i2) with
    | .error e => return ([], some (done, e))
    | .ok (pa, pol) =>
      if pa < heartOf t ∨ heartOf (t + 1) ≤ pa then
        return ([], some (done, .exc vAddress 0xA (BitVec.ofNat 64 va) (BitVec.ofNat 64 i2) true))
      else
        match ← walkLines p u pol i2 done [(pa, n)] with
        | (l, some f) => return (l, some f)
        | (l, none) =>
          let (l', f) ← walkPages k p u far o m i2 (done + n) r
          return (l ++ l', f)

/-- Check an operand in a claim (R125, R127). -/
def walkClaim (k : Nat) (p : Port) (u : Use) (i2 c off n : Nat) : M Walk := do
  let w ← rd (.claim (k / 4) c)
  let no (code : Nat) : Stop := .exc vClaim code (BitVec.ofNat 64 c) (BitVec.ofNat 64 off) true
  if ¬ bit w 32 ∨ bit w 33 then return ([], some (0, no 1))
  else
    let m := min n (claimLen w - off)
    match ← walkLines p u 3 i2 0 ((lineParts off m).map fun e => (claimAddr (k / 4) w e.1, e.2)) with
    | (l, some f) => return (l, some f)
    | (l, none) => return (l, if m < n then some (m, no 2) else none)

/-- Check n bytes of a memory operand of an engine. -/
def walk (k : Nat) (u : Use) (o : Opnd) (n : Nat) : M Walk := do
  let p := (← get).crewPort k
  match o with
  | .mem va far => walkPages k p u far va n (b2n u.writes) 0 (pageParts va n)
  | .claim c off => walkClaim k p u (b2n u.writes) c off n
  | _ => return ([], none)

/-- An operand moved by a signed number of bytes; a claim offset that falls below 0 leaves the claim, and its BOUND fault reports
2^63 (R127 gives no value for it; DESIGN CHOICE, log entry 149). -/
def Opnd.shift (o : Opnd) (d : Int) : Opnd :=
  match o with
  | .mem va far => .mem (wrap 64 (va + d)) far
  | .claim c off => .claim c (if (off : Int) + d < 0 then 2 ^ 63 else ((off : Int) + d).toNat)
  | o => o

/-- The address that an ALIGN fault of an operand reports: the EA, or the heartwood address of a claim offset. -/
def opAddr (k : Nat) (o : Opnd) : M Nat := do
  match o with
  | .mem va _ => return va
  | .claim c off => return claimAddr (k / 4) (← rd (.claim (k / 4) c)) off
  | _ => return 0

/-- The byte offset that alignment is judged by. -/
def Opnd.at (o : Opnd) : Nat :=
  match o with
  | .mem va _ => va
  | .claim _ off => off
  | _ => 0

/-- All of an operand, or its fault, not resumable. -/
def walkAll (k : Nat) (u : Use) (o : Opnd) (n : Nat) : M (List Seg) := do
  match ← walk k u o n with
  | (l, none) => return l
  | (_, some (_, .exc v c i i2 _)) => throw (.exc v c i i2 false)
  | (_, some (_, e)) => throw e

/-- The first n bytes of places. -/
def takeSegs : List Seg → Nat → List Seg
  | [], _ => []
  | g :: r, n => if n = 0 then [] else if n ≤ g.n then [⟨g.pa, g.pol, n⟩] else g :: takeSegs r (n - g.n)

/-- Places without their first n bytes. -/
def dropSegs : List Seg → Nat → List Seg
  | [], _ => []
  | g :: r, n => if n = 0 then g :: r else if n < g.n then ⟨g.pa + n, g.pol, g.n - n⟩ :: r else dropSegs r (n - g.n)

/-- n bytes of places, from an offset. -/
def cutSegs (l : List Seg) (off n : Nat) : List Seg := takeSegs (dropSegs l off) n

/-- Read checked parts of heartwood: the bytes, and an address in a poisoned line. -/
def heartRead : List Seg → M (List Byte × Option Nat)
  | [] => return ([], none)
  | g :: r => do
    let (b, p) ← if g.n = 0 then pure ([], false) else rawRead g.pa g.n
    let (bs, q) ← heartRead r
    return (b ++ bs, if p then some g.pa else q)

/-- Read checked parts into non-memory state: poison is contained (R425). -/
def heartTake (l : List Seg) : M (List Byte) := do
  match ← heartRead l with
  | (b, none) => return b
  | (_, some a) => throw (.contain a)

/-- Runs of bytes that are written, from an address. -/
def runsOf (a : Nat) : List (Option Byte) → List (Nat × List Byte)
  | [] => []
  | none :: r => runsOf (a + 1) r
  | some b :: r =>
    match runsOf (a + 1) r with
    | (c, bs) :: l => if c = a + 1 then (a, b :: bs) :: l else (a, [b]) :: (c, bs) :: l
    | [] => [(a, [b])]

/-- Write bytes over checked parts of heartwood, some of them left as they are. The parts, whose first byte is byte k of what is written,
are poisoned where some byte written to them is (R122, R231). -/
def heartMark (bad : Nat → Bool) : Nat → List Seg → List (Option Byte) → M Unit
  | _, [], _ => skip
  | k, g :: r, l => do
    let here := l.take g.n
    let p := (List.range g.n).any fun i => bad (k + i) && (here.getD i none).isSome
    forAll (runsOf g.pa here) fun e => rawPut e.1 e.2 p
    heartMark bad (k + g.n) r (l.drop g.n)

/-- Write bytes over checked parts of heartwood, some of them left as they are. -/
def heartWrite (l : List Seg) (o : List (Option Byte)) : M Unit := heartMark (fun _ => false) 0 l o

/-- Write bytes over checked parts of heartwood; with poison each line that they touch is stored poisoned (R122). -/
def heartPut (l : List Seg) (bs : List Byte) (poison : Bool) : M Unit := heartMark (fun _ => poison) 0 l (bs.map some)

/-- A read that an engine instruction of thread k makes before its fault point, of heartwood in some footprints, waits while an
SBWAIT of the thread is not satisfied or an earlier instruction has not yet written there (R234, R237). -/
def heartClear (k : Nat) (fp : List Footprint) : M Unit := do
  if ((← get).before k).any fun (y : SbEntry) =>
      !y.performed && ((y.th = k && y.work.wait.isSome) || fpsMeet fp y.work.writes) then throw (.hold .issue)
  else skip

/-- The heartwood footprint of a place, where it lies in the tree's own heartwood. -/
def placeFp (t : Nat) (l : Place) : List Footprint :=
  if heartOf t ≤ l.pa ∧ l.pa < heartOf (t + 1) then segsFp t [⟨l.pa, l.pol, l.n⟩] else []

/-- The 32-bit value of a slot that an engine instruction's table marks (IMM): an immediate, or 4 bytes of memory (R93, R102; log
entry 132), which are read behind what the instruction waits for (R234, R237). -/
def ctlArg (k : Nat) (o : Opnd) : M Nat := do
  let x ← srcOf k o 4
  match x with
  | .val _ => skip
  | .at l => heartClear k (placeFp (k / 4) l)
  readSrc k x

/-- Bytes of a place that an engine instruction of a thread reads before its fault point: poison in them is contained. -/
def takePlace (k : Nat) (l : Place) : M (List Byte) := do
  heartClear k (placeFp (k / 4) l)
  let (v, x) ← readPlace k l
  if x then throw (.contain l.pa) else return toLE v l.n

/-- Read a descriptor or program [o, o + m) at an EA wherever it lies, in the thread's grove; it must be 8-byte aligned (R133,
R169, R218). Poison in it is contained. -/
def fetchParts (k : Nat) (p : Port) (far : Bool) (o m : Nat) : List (Nat × Nat) → M (List Byte)
  | [] => return []
  | (va, n) :: r => do
    let (pa, pol) ← transl p .read far o m (va % 2 ^ 64) 0
    let l ← mapAll (if inRegs pa then [(pa, n)] else lineParts pa n) fun e => do
      takePlace k (← grant p .read e.1 pol e.2 0)
    return l.flatten ++ (← fetchParts k p far o m r)

/-- n bytes of a descriptor or program. -/
def fetchRaw (k : Nat) (o : Opnd) (n : Nat) : M (List Byte) := do
  match o with
  | .mem va far => fetchParts k ((← get).crewPort k) far va n (pageParts va n)
  | o =>
    heartClear k (← opFp (k / 4) o [])
    heartTake (← walkAll k .read o n)

/-- A descriptor of n bytes, 8-byte aligned. -/
def fetchDesc (k : Nat) (o : Opnd) (n : Nat) : M (List Byte) := do
  if o.at % 8 ≠ 0 then throw (flt vAlign 0 (← opAddr k o) 0) else fetchRaw k o n

/-- The stochastic context of an engine unit with sampled LTREE and stream value (R76). -/
def engCtx (unit ltree stream : Nat) : M SrCtx := srCtx unit ltree (BitVec.ofNat 64 stream)

/-- LTREE and SR_STREAM of a thread as they are sampled at issue (R113). -/
def sampleSr (k : Nat) : M (Nat × Nat) := do
  let s ← get
  return (field (s.effReg (.srCtx (k / 4) (k % 4))) 0 6, (s.reg (.srStream (k / 4) (k % 4))).toNat)

/-- A value sampled at issue. -/
def Work.arg (x : Work) (i : Nat) : Nat := x.args.getD i 0

/-- Places of the i-th memory operand. -/
def Work.seg (x : Work) (i : Nat) : List Seg := x.segs.getD i []

end Sys2Proof.Machine
end

