-- ==== Sys2Proof/Machine/Tiles.lean ====
section
/-! DEFINITION. The tile file: shapes and row layout, TSHP, TZERO, TLD and TST with their conversions, and the moves between
tiles and vector registers (R129-R142). -/

namespace Sys2Proof.Machine

/-- Vector of the SHAPE fault (R138). -/
def shapeFault (w : IWord) (code : Nat) : Stop := fltWord w vShape code

/-- A tile shape (R130). -/
structure TGeo where
  rows : Nat
  cols : Nat
  fmt : Nat
  kr : Bool
  xt5 : Bool
  valid : Bool
  deriving DecidableEq, Repr

/-- The shape that a TSHAPE value gives. -/
def TGeo.of (v : Nat) : TGeo :=
  let r := field (BitVec.ofNat 64 v) 0 8
  let c := field (BitVec.ofNat 64 v) 8 12
  ⟨if r = 0 then 256 else r, if c = 0 then 4096 else c, v / 2 ^ 20 % 16, v.testBit 24, v.testBit 25, v.testBit 31⟩

/-- TSHAPE of a tile of a tree. -/
def State.geo (s : State) (t n : Nat) : TGeo := .of (s.reg (.tshape t n)).toNat

/-- Bytes of the scales of a row of n elements of a format (R131). -/
def scaleBytes (c n : Nat) (xt5 : Bool) : Nat :=
  if xt5 || c = 0xC then 2 * (n / 64) else if isMx c then n / 32 else 0

/-- Bytes of the escape records of a row. -/
def escBytes (c n : Nat) : Nat := if c = 0xA then 6 * (n / 32) else 0

/-- Element bytes of a tile row. -/
def TGeo.el (g : TGeo) : Nat := elemBytes g.fmt g.cols

/-- Side bytes of a tile row. -/
def TGeo.side (g : TGeo) : Nat := scaleBytes g.fmt g.cols g.xt5 + escBytes g.fmt g.cols

/-- rowcost (R131). -/
def TGeo.cost (g : TGeo) : Nat := up8 g.el + up8 g.side

/-- A tile whose elements carry scales along the row, as R136 counts them. -/
def TGeo.scaled (g : TGeo) : Bool := isMx g.fmt || g.xt5

/-- A TSHP value keeps R131 and has no reserved bit (R130). -/
def tshapeOk (v : Nat) : Bool :=
  let g := TGeo.of v
  let t5 := g.fmt = 0xC || g.xt5
  v / 2 ^ 26 % 32 = 0 && g.fmt ≤ 0xC && g.cols % 16 = 0 && (!isMx g.fmt || g.cols % 32 = 0) && (!t5 || g.cols % 64 = 0)
    && (!(isMx g.fmt || t5) || !g.kr) && (!g.xt5 || g.fmt = 9 || g.fmt = 4) && (g.rows + 3) / 4 * g.cost ≤ 16384

/-- Position of row r of tile n of tree t (R129). -/
def tileRowAt (t n cost r : Nat) : Nat := (t * 8 + n) * 65536 + r % 4 * 16384 + r / 4 * cost

/-- The record of a tile row. -/
def State.tileRow (s : State) (t n cost r : Nat) : List Byte :=
  (List.range cost).map fun i => aread 0 s.tiles (tileRowAt t n cost r + i)

/-- Write bytes of the tile file from a position on. -/
def putTiles (a : Nat) (l : List Byte) (m : AList Byte) : AList Byte :=
  match l with
  | [] => m
  | b :: r => putTiles (a + 1) r (awrite 0 m a b)

/-- A state with a tile row's record written. -/
def State.putTileRow (s : State) (t n cost r : Nat) (l : List Byte) : State :=
  let s := { s with tiles := putTiles (tileRowAt t n cost r) l s.tiles }
  s.setTree t ((s.tree t).stale fun l => l.contains n)

/-- Elements, scales and escape records of a tile row's record (R131). -/
def TGeo.split (g : TGeo) (l : List Byte) : List Byte × List Byte × List Byte :=
  let o := l.drop (up8 g.el)
  let k := scaleBytes g.fmt g.cols g.xt5
  (l.take g.el, o.take k, (o.drop k).take (escBytes g.fmt g.cols))

/-- The record of a tile row. -/
def joinRow (el sc esc : List Byte) : List Byte :=
  let pad (l : List Byte) := l ++ List.replicate (up8 l.length - l.length) (0 : Byte)
  pad el ++ pad (sc ++ esc)

/-- Scales and escape records as the formats' own side array, whose records begin at a multiple of 8. -/
def sideOf (c n : Nat) (sc esc : List Byte) : List Byte :=
  if c = 0xA then sc ++ List.replicate (up8 (n / 32) - n / 32) (0 : Byte) ++ esc else sc

/-- The value of element j of a row of a tile or of memory: an expanded T5 element times its BF16 scale (R56, R65). -/
def xVal (c n : Nat) (xt5 : Bool) (el sc esc : List Byte) (j : Nat) : Val :=
  if xt5 then
    let v := if c = 9 then Fmt.e2m1.decode (nibble el j) else Fmt.e4m3.decode (leAt el j 1)
    quietMul v (Fmt.bf16.decode (leAt sc (2 * (j / 64)) 2))
  else (elemVal c n el (sideOf c n sc esc) j).1

/-- Rows of a conversion: elements, scales, escape records, conditions and telemetry. -/
structure XRow where
  el : List Byte
  sc : List Byte
  esc : List Byte
  conds : Nat
  tel : Tel
  deriving DecidableEq, Repr

/-- Escape records with each malformed one as 6 zero bytes, and FMT (R136). -/
def fixEscs (esc : List Byte) : List Byte × Nat :=
  let l := (List.range (esc.length / 6)).map fun i =>
    let (_, x) := q4xRecord esc (6 * i)
    (if x ≠ 0 then List.replicate 6 (0 : Byte) else (esc.drop (6 * i)).take 6, x)
  (l.flatMap (·.1), l.foldl (fun m e => m ||| e.2) 0)

/-- The code of a trit in an expanded tile (R65). -/
def tritCode (fmt : Nat) (v : Int) : Nat :=
  if fmt = 9 then (if v = 0 then 0 else if v = 1 then 2 else 0xA) else if v = 0 then 0 else if v = 1 then 0x38 else 0xB8

/-- A row of n elements converted between memory and tile (R135, R136). -/
def convTile (sf : Nat) (sx : Bool) (df : Nat) (dx : Bool) (p : Rnd) (draw : Nat → Nat) (n : Nat) (el sc esc : List Byte) : XRow :=
  if sf = df ∧ sx = dx then
    let (e, x) := fixEscs esc
    ⟨el, sc, e, x, Tel.none⟩
  else if sf = 0xA ∧ df = 9 then ⟨el, sc, [], 0, Tel.none⟩
  else if sf = 9 ∧ df = 0xA then ⟨el, sc, List.replicate (6 * (n / 32)) 0, 0, Tel.none⟩
  else if sf = 0xC ∧ dx then
    let trits := (List.range n).map fun j => (t5Trit el (13 * (j / 64)) (j % 64)).1
    let x := (List.range (n / 64)).foldl (fun m b => m ||| t5Bad el (13 * b)) 0
    ⟨packCodes (codeBits df) (trits.map (tritCode df)), sc, [], x, Tel.none⟩
  else
    let side := sideOf sf n sc esc
    let (vs, fm) := if sx then ((List.range n).map (xVal sf n true el sc esc), 0) else rowVals sf n el side
    let r := storeRow df p draw vs
    let conds := if isInt sf ∧ isInt df then r.conds &&& cSAT else r.conds
    let sc := r.side.take (scaleBytes df n dx)
    ⟨r.el, sc, r.side.drop (if df = 0xA then up8 (n / 32) else r.side.length), conds ||| fm, telOf sf df r.tel⟩

/-- Format codes that a TLD may load into a tile (Table: Tile conversions). -/
def tldFrom (g : TGeo) : List Nat :=
  if g.xt5 then [0xC]
  else
    match g.fmt with
    | 0 => [0, 1, 2, 3]
    | 1 => [1, 0, 2, 3, 4, 5, 8, 0xD]
    | 2 => [1, 2, 3, 4, 5, 8]
    | 3 => [1, 2, 3, 4, 5, 8]
    | 8 => [8, 1, 2]
    | 0xB => [0xB, 8, 1, 2]
    | 9 => [9, 0xA, 1, 2, 3]
    | 0xA => [9, 0xA, 1, 2, 3]
    | 0xC => [0xC]
    | f => [f, 1, 2, 3]

/-- Format codes that a TST may store a tile to. -/
def tstTo (g : TGeo) : List Nat :=
  if g.xt5 then [1, 2]
  else
    match g.fmt with
    | 0 => [0, 1, 2, 3]
    | 1 => [1, 0, 2, 3, 4, 5, 8, 0xD]
    | 2 => [1, 2, 3]
    | 3 => [1, 2, 3]
    | 8 => [8, 0xD]
    | 0xB => [0xB, 0xD]
    | 9 => [9, 0xA, 1, 2]
    | 0xA => [9, 0xA, 1, 2]
    | 0xC => [0xC]
    | f => [f, 1, 2]

/-- T of a tile instruction (R132). -/
def tileOf (w : IWord) : Nat := field w.base 21 3
/-- TR. -/
def tileTR (w : IWord) : Bool := bit w.base 20
/-- VR. -/
def tileVR (w : IWord) : Nat := field w.base 16 5

/-- The slots of a tile instruction. A slot marked (IMM) takes an immediate or a memory operand (R102; log entry 132). -/
def tileSlots (w : IWord) : Slots :=
  match w.major with
  | 0xA0 => ⟨noSlot, memSlot, memSlot⟩
  | 0xA1 => ⟨memSlot, memSlot, noSlot⟩
  | 0xA5 => ⟨noSlot, noSlot, noSlot⟩
  | _ => ⟨noSlot, immSlot, noSlot⟩

/-- The reserved bits of a tile base word (R132). -/
def tileLegal (w : IWord) : Bool :=
  !bit w.base 12 &&
  match w.major with
  | 0xA0 => field w.base 16 4 = 0 && vRmOk
  | 0xA1 => field w.base 16 4 = 0 && vRmOk
  | 0xA2 => w.rm = 0
  | 0xA3 => w.rm = 0
  | _ => w.rm = 0 && field w.base 16 5 = 0
where
  vRmOk : Bool := w.rm ≤ 4 || w.rm = 7

/-- Sampled values of a TLD or TST: TSHAPE, MFMT, TAG, first row, limit, rounding mode, LTREE, SR_STREAM. -/
def tileArgs (shape mfmt tag lo lim rm lt st : Nat) : List Nat := [shape, mfmt, tag, lo, lim, rm, lt, st]

/-- Check the pieces of one row in order: all places, or the fault. -/
def walkPieces (k : Nat) (u : Use) : List (Opnd × Nat) → M (Except Stop (List Seg))
  | [] => return .ok []
  | (o, n) :: r => do
    match ← walk k u o n with
    | (_, some (_, e)) => return .error e
    | (l, none) =>
      match ← walkPieces k u r with
      | .ok m => return .ok (l ++ m)
      | .error e => return .error e

/-- Check rows from one on: their places, and the first row that fails with its fault (R140). -/
def walkRows (k : Nat) (u : Use) (pieces : Nat → List (Opnd × Nat)) : Nat → Nat → M (List (List Seg) × Option (Nat × Stop))
  | 0, _ => return ([], none)
  | n + 1, r => do
    match ← walkPieces k u (pieces r) with
    | .error e => return ([], some (r, e))
    | .ok l =>
      let (m, f) ← walkRows k u pieces n (r + 1)
      return (l :: m, f)

/-- Pieces of memory of tile row r: elements, scales and escape records, or with TR one element of every memory row (R133). -/
def rowPieces (d : List Byte) (o : Opnd) (tr : Bool) (cols : Nat) (r : Nat) : List (Opnd × Nat) :=
  let i (off : Nat) : Int := sInt 32 (leAt d off 4)
  let m := leAt d 4 1
  if tr then
    let b := codeBits m
    (List.range cols).map fun (c : Nat) => (o.shift (c * i 0 + (r * b / 8 : Nat)), max 1 (b / 8))
  else
    [(o.shift (r * i 0), elemBytes m cols)]
      ++ (if scaleBytes m cols false = 0 then [] else [(o.shift (i 8 + r * i 0xC), scaleBytes m cols false)])
      ++ if m = 0xA then [(o.shift (i 0x10 + r * i 0x14), escBytes m cols)] else []

/-- A TLD or TST at issue (R133-R141): it stops at the row that faults or waits. Of several faults the descriptor's come first, then SHAPE 0x01, TRESUME, SHAPE 0x05 and SHAPE
0x06 (log entry 145). -/
def tilePrep (k : Nat) (w : IWord) : M Prep := do
  let s ← get
  let t := k / 4
  let ld := w.major = 0xA0
  let n := tileOf w
  let rm := rmOf (s.flags k) w.rm
  let lo := (s.reg (thr k 0x18)).toNat
  let (lt, st) ← sampleSr k
  let z := Config.operandZ w.major
  tryCatch (do
    let o ← if ld then compute k w 0 z 32 0 0 else compute k w z 32 0 1 0
    let (e, dp) := if ld then (o.a, o.b) else (o.d, o.a)
    let d ← fetchDesc k dp 32
    let g := s.geo t n
    let m := leAt d 4 1
    let ms := isMx m || m = 0xC
    let quant := ld && isMx g.fmt && !g.xt5 && !ms
    let i (off : Nat) : Nat := leAt d off 4
    if 16 ≤ m ∨ 64 ≤ leAt d 5 1 ∨ leAt d 6 2 ≠ 0 ∨ leAt d 0x18 8 ≠ 0 then throw (fltWord w vOperand 0)
    else if ¬ g.valid then throw (shapeFault w 1)
    else if g.rows ≤ lo then throw (fltWord w vOperand 0)
    else if tileTR w ∧ (ms ∨ (g.scaled ∧ ¬ quant)) then throw (shapeFault w 5)
    else if ¬ (if ld then tldFrom g else tstTo g).contains m ∨ (¬ ms ∧ (i 8 ≠ 0 ∨ i 0xC ≠ 0)) ∨
        (m ≠ 0xA ∧ (i 0x10 ≠ 0 ∨ i 0x14 ≠ 0)) then throw (shapeFault w 6)
    else
      let (rows, f) ← walkRows k (if ld then .read else .write) (rowPieces d e (tileTR w) g.cols) (g.rows - lo) lo
      let lim := match f with | some (r, _) => r | none => g.rows
      match f with
      | some (r, e) => whenM (e.waits && r == lo) (throw e)
      | none => skip
      let fp := mergeFp (← opFp t e rows.flatten)
      let x := Work.none 1
      let x := { x with
        claims := opClaims [e, dp], segs := rows
        args := tileArgs (s.reg (.tshape t n)).toNat m (leAt d 5 1) lo lim rm lt st }
      let x := if ld then { x with reads := fp, regsW := 1 <<< n } else { x with writes := fp, regsR := 1 <<< n }
      return (⟨x, o.p, if f.isSome then [] else [(0x18, 0)], rm = 4, f.map fun e => (0x18, lim, e.2)⟩ : Prep)) fun e =>
    match e with
    | .exc v c i i2 _ => throw (.exc v c i i2 (v != vOperand && v != vIllegal && v != vShape))
    | e => throw e

/-- One row of a TLD. -/
def tldRow (t n : Nat) (g : TGeo) (m tag : Nat) (tr : Bool) (p : Rnd) (c : SrCtx) (r : Nat) (l : List Seg) : M Nat := do
  let b ← heartTake l
  let k := elemBytes m g.cols
  let ks := scaleBytes m g.cols false
  let (el, sc, esc) := if tr ∧ codeBits m = 4 then (packNibbles (b.map fun v => v.toNat / 16 ^ (r % 2) % 16), [], [])
    else if tr then (b, [], [])
    else (b.take k, (b.drop k).take ks, b.drop (k + ks))
  let y := convTile m false g.fmt g.xt5 p (fun j => c.draw p j r) g.cols el sc esc
  modify fun s => s.putTileRow t n g.cost r (joinRow y.el y.sc y.esc)
  tally tag y.tel
  return y.conds

/-- One row of a TST. -/
def tstRow (t n : Nat) (g : TGeo) (m tag : Nat) (tr : Bool) (p : Rnd) (c : SrCtx) (r : Nat) (l : List Seg) : M Nat := do
  let (el, sc, esc) := g.split ((← get).tileRow t n g.cost r)
  let y := convTile g.fmt g.xt5 m false p (fun j => c.draw p j r) g.cols el sc esc
  if tr ∧ codeBits m = 4 then
    let (b, _) ← heartRead l
    heartWrite l ((List.range g.cols).map fun j =>
      let o := (b.getD j 0).toNat
      let v := nibble y.el j
      some (BitVec.ofNat 8 (if r % 2 = 0 then o / 16 * 16 + v else o % 16 + 16 * v)))
  else heartPut l (y.el ++ y.sc ++ y.esc) false
  tally tag y.tel
  return y.conds

/-- The tile file transfers rows. -/
def tileRows (t : Nat) (w : IWord) (x : Work) (p : Rnd) (c : SrCtx) : Nat → List (List Seg) → M Nat
  | _, [] => return 0
  | r, l :: ls => do
    let g := TGeo.of (x.arg 0)
    let f := if w.major = 0xA0 then tldRow else tstRow
    let a ← f t (tileOf w) g (x.arg 1) (x.arg 2) (tileTR w) p c r l
    let b ← tileRows t w x p c (r + 1) ls
    return a ||| b

/-- TSHP, TZERO and the moves at issue (R130, R137, R138). -/
def tileSimple (k : Nat) (w : IWord) : M Prep := do
  let s ← get
  let t := k / 4
  let n := tileOf w
  let o ← compute k w 0 4 0 0 0
  let v ← if w.m1 = 0 then pure 0 else ctlArg k o.a
  let g := s.geo t n
  let x := Work.none 1
  let ret (x : Work) : Prep := ⟨x, o.p, [], false, none⟩
  if w.major = 0xA4 then
    if tshapeOk v then
      modify fun s => s.setReg (.tshape t n) (BitVec.ofNat 64 (v % 2 ^ 31 + 2 ^ 31))
      return ret { x with regsW := 1 <<< n }
    else throw (shapeFault w 2)
  else if ¬ g.valid then throw (shapeFault w 1)
  else if w.major = 0xA5 then return ret { x with regsW := 1 <<< n }
  else
    let vg := (s.reg (thr k 0x16)).toNat
    let rows := min (g.rows - v) (vg * 2048 / g.cost)
    if g.rows ≤ v ∨ rows = 0 ∨ tileVR w % vg ≠ 0 then throw (shapeFault w 8)
    else
      let vs := (2 ^ vg - 1) <<< (8 + tileVR w)
      let x := { x with args := [(s.reg (.tshape t n)).toNat, v, rows, vg] }
      return ret (if w.major = 0xA2 then { x with regsR := vs, regsW := 1 <<< n } else { x with regsR := 1 <<< n, regsW := vs })

/-- The tile file performs an instruction's work; conditions found. -/
def tileDo (t : Nat) (w : IWord) (x : Work) : M Nat := do
  let n := tileOf w
  let g := TGeo.of (x.arg 0)
  match w.major with
  | 0xA4 => return 0
  | 0xA5 =>
    modify fun (s : State) =>
      let s := { s with tiles := s.tiles.filter fun e => e.1 / 65536 != t * 8 + n }
      s.setTree t ((s.tree t).stale fun l => l.contains n)
    return 0
  | 0xA2 =>
    let s ← get
    let b := (List.range (x.arg 3)).flatMap fun i => toLE (aread 0 s.vregs (t * 32 + tileVR w + i)).toNat 2048
    forAll (List.range (x.arg 2)) fun i =>
      modify fun s => s.putTileRow t n g.cost (x.arg 1 + i) ((b.drop (i * g.cost)).take g.cost)
    return 0
  | 0xA3 =>
    let s ← get
    let b := (List.range (x.arg 2)).flatMap fun i => s.tileRow t n g.cost (x.arg 1 + i)
    forAll (List.range (x.arg 3)) fun i => modify fun (s : State) =>
      let v := BitVec.ofNat 16384 (ofLE ((b.drop (2048 * i)).take 2048))
      { s with vregs := awrite 0 s.vregs (t * 32 + tileVR w + i) v }
    return 0
  | _ =>
    let p ← rnd (x.arg 5)
    let c ← engCtx 4 (x.arg 6) (x.arg 7)
    tileRows t w x p c (x.arg 3) x.segs

end Sys2Proof.Machine
end

