-- ==== Sys2Proof/Machine/Chains.lean ====
section
/-! DEFINITION. Prologue and epilogue chains: descriptors and their checks, stages in chain precision, row statistics
(R169-R184). -/

namespace Sys2Proof.Machine

/-- A stage record (Table: Stage record). -/
structure Stage where
  op : Nat
  opnd : Nat
  arg : Nat
  imm : Nat
  addr : Nat
  deriving DecidableEq, Repr

/-- Stage i of a chain descriptor. -/
def stageAt (b : List Byte) (i : Nat) : Stage :=
  let o := 8 + 16 * i
  ⟨leAt b o 1, leAt b (o + 1) 1, leAt b (o + 2) 2, leAt b (o + 4) 4, leAt b (o + 8) 8⟩

/-- SHAPE of a stage operand. -/
def Stage.shape (x : Stage) : Nat := x.opnd % 8
/-- FMT of a stage operand. -/
def Stage.fmt (x : Stage) : Nat := x.opnd / 8 % 16
/-- A stage that names statistics records. -/
def Stage.recs (x : Stage) : Bool := x.op = 0x10 || x.op = 0x11 || x.op = 0x18
/-- STAT. -/
def Stage.isStat (x : Stage) : Bool := x.op = 0x18
/-- Bytes of an element of a stage operand. -/
def Stage.es (x : Stage) : Nat := if x.recs then 16 else codeBits x.fmt / 8

/-- NSTAGE of a chain header. -/
def chainLen (b : List Byte) : Nat := leAt b 0 1 / 16
/-- RM of a chain header. -/
def chainRM (b : List Byte) : Nat := leAt b 1 1 % 8
/-- TAG of a chain header. -/
def chainTag (b : List Byte) : Nat := leAt b 0 8 / 4096 % 64

/-- The stages of a chain descriptor. -/
def stagesOf (b : List Byte) : List Stage := (List.range (chainLen b)).map (stageAt b)

/-- A chain header is well formed: SHAPE 0x18 otherwise (R169, R184). -/
def chainHeaderOk (b : List Byte) (epi : Bool) : Bool :=
  let h := leAt b 0 8
  let n := chainLen b
  h % 16 = (if epi then 2 else 1) && 1 ≤ n && n ≤ (if epi then 8 else 4) && !h.testBit 11 && h / 2 ^ 18 = 0
    && (if epi then chainRM b = 0 && chainTag b = 0 else chainRM b ≤ 4 || chainRM b = 7)

/-- Shapes and formats that a stage permits (Table: Stage catalogue, Table: Operand shapes). -/
def Stage.operandOk (x : Stage) (epi : Bool) : Bool :=
  let f := [1, 2, 3].contains x.fmt
  if x.op ≤ 5 then (x.shape = 1 && x.fmt = 1) || ((x.shape = 2 || x.shape = 3) && f) || (x.shape = 4 && f && epi)
  else if x.op = 6 then
    let lo := Fmt.fp32.decode x.imm
    let hi := Fmt.fp32.decode (x.addr % 2 ^ 32)
    x.shape = 1 && x.fmt = 1 && !lo.isNan && !hi.isNan && !hi.lt lo
  else if x.recs then x.shape = 3 && x.fmt = 0
  else x.shape = 0 && x.fmt = 0

/-- Reserved bits of a stage record are 0 (R169, R175); an ADDR where Table: Stage record says 'otherwise 0' counts as reserved, an
unused IMM does not (DESIGN CHOICE, log entry 153). -/
def Stage.plain (x : Stage) : Bool :=
  x.opnd < 128 && (x.op != 0x09 || x.arg ≤ 1) && (!x.isStat || x.arg / 4 % 4 = 0)
    && (if x.op = 6 then x.addr < 2 ^ 32 else 2 ≤ x.shape || x.addr = 0)

/-- A stage code permitted in a chain's kind (R175). -/
def Stage.known (x : Stage) (epi : Bool) : Bool :=
  (1 ≤ x.op && x.op ≤ 6) || (8 ≤ x.op && x.op ≤ 0xD) || x.op = 0x10 || x.op = 0x11 || (x.isStat && epi)

/-- The first failing check of a chain's stages and kind, as a SHAPE code; 0 when they pass (R184). -/
def stagesCheck (l : List Stage) (epi kindOk : Bool) : Nat :=
  if l.any (fun x => !x.known epi || !x.plain) || 1 < (l.filter Stage.isStat).length then 0x19
  else if l.any fun x => !x.operandOk epi || (!(x.op = 9 || x.isStat) && x.arg != 0) then 0x1A
  else if !kindOk then 0x1B
  else 0

/-- The memory that a stage names, for m rows and n columns (k for a prologue), as pieces (R170). -/
def Stage.pieces (x : Stage) (m n : Nat) : List (Opnd × Nat) :=
  let o : Opnd := .mem x.addr false
  match x.shape with
  | 2 => [(o, n * x.es)]
  | 3 => [(o, m * x.es)]
  | 4 => (List.range m).map fun (i : Nat) => (o.shift (i * sInt 32 x.imm), n * x.es)
  | _ => []

/-- Check a stage's memory: alignment, own heartwood, and access (R171), piece by piece; a record as read and then as written. The
first failing piece of the first failing stage gives the fault, before the drain's rows (DESIGN CHOICE, log entry 152). -/
def stageWalk (k m n : Nat) (x : Stage) : M (List Seg) := do
  let l ← mapAll (x.pieces m n) fun e => do
    if e.1.at % x.es ≠ 0 then throw (flt vAlign 0 e.1.at (b2n x.isStat))
    else
      let a ← walkAll k .read e.1 e.2
      if x.isStat then walkAll k .write e.1 e.2 else return a
  return l.flatten

/-- Read a chain descriptor and check its header and stages: its bytes, and the places that its stages name (R169, R184). -/
def chainPrep (k : Nat) (w : IWord) (o : Opnd) (epi kindOk : Bool) (m n : Nat) : M (List Byte × List (List Seg)) := do
  let h ← fetchDesc k o 8
  if ¬ chainHeaderOk h epi then throw (shapeFault w 0x18)
  else
    let r ← fetchDesc k (o.shift 8) (16 * chainLen h)
    let b := h ++ r
    let c := stagesCheck (stagesOf b) epi kindOk
    if c ≠ 0 then throw (shapeFault w c)
    else return (b, ← mapAll (stagesOf b) (stageWalk k m n))

/-- Footprints of chain operands read, and of records written (R171). -/
def chainFp (t : Nat) (stages : List Stage) (segs : List (List Seg)) : List Footprint × List Footprint :=
  let z := stages.zip segs
  (z.flatMap fun e => segsFp t e.2, (z.filter fun e => e.1.isStat).flatMap fun e => segsFp t e.2)

/-- The places that row i of a stage operand takes, of n columns. -/
def Stage.rowSegs (x : Stage) (l : List Seg) (i n : Nat) : List Seg :=
  match x.shape with
  | 2 => l
  | 3 => cutSegs l (i * x.es) x.es
  | 4 => cutSegs l (i * n * x.es) (n * x.es)
  | _ => []

/-- The operand of a stage for position j of a row, from the bytes that the row takes. -/
def Stage.operand (x : Stage) (b : List Byte) (j : Nat) : Val :=
  let f := fmtOf x.fmt
  match x.shape with
  | 1 => Fmt.fp32.decode x.imm
  | 3 => f.decode (leAt b 0 x.es)
  | _ => f.decode (leAt b (j * x.es) x.es)

/-- Conditions that a stage records (R189). -/
def stageConds (c : Nat) : Nat := c &&& 7

/-- The two constants of a row that NORM takes from a record, held: mean and reciprocal deviation (R180). -/
def normOf (x : Stage) (b : List Byte) : Val × Val × Nat :=
  let n : Val := .ofInt (leAt b 8 4)
  let (mu, c1) := holdChain ((Fmt.fp32.decode (leAt b 0 4)).div n)
  let (q, c2) := (Fmt.fp32.decode (leAt b 4 4)).div n
  let (m2, c3) := mu.mul mu
  let (w, c4) := q.add false m2.neg
  let (w, c5) := holdChain (w, c4)
  let w := match w with
    | Val.fin true _ _ => Val.fin false 0 1
    | Val.inf true => Val.fin false 0 1
    | y => y
  let (v, c6) := w.add false (Fmt.fp32.decode x.imm)
  let (r, c7) := chainRsqrt v
  (mu, r, c1 ||| c2 ||| c3 ||| c5 ||| c6 ||| c7)

/-- One stage on one value; `b` holds the bytes that its row takes, `nm` the constants of NORM (R173-R175). -/
def Stage.eval (x : Stage) (b : List Byte) (nm : Val × Val × Nat) (j : Nat) (v : Val) : Val × Nat :=
  let o := x.operand b j
  match x.op with
  | 0x01 => holdChain (v.add false o)
  | 0x02 => holdChain (v.add false o.neg)
  | 0x03 => holdChain (v.mul o)
  | 0x04 => holdChain (v.max o)
  | 0x05 => holdChain (v.min o)
  | 0x06 =>
    let (y, c) := v.max (Fmt.fp32.decode x.imm)
    let (z, d) := y.min (Fmt.fp32.decode (x.addr % 2 ^ 32))
    holdChain (z, c ||| d)
  | 0x08 =>
    match v with
    | .nan s => (.nan false, if s then cIV else 0)
    | v => if (Val.fin false 0 1).lt v then (v, 0) else (.fin false 0 1, 0)
  | 0x09 => chainFn x.arg v
  | 0x0A => chainFn fnSilu v
  | 0x0B => chainFn fnSigmoid v
  | 0x0C => chainFn fnTanh v
  | 0x0D => chainFn fnExp v
  | 0x10 =>
    let (d, c) := v.add false nm.1.neg
    let (y, e) := d.mul nm.2.1
    holdChain (y, c ||| e)
  | 0x11 => softmax v (Fmt.fp32.decode (leAt b 0 4)) (Fmt.fp32.decode (leAt b 4 4))
  | _ => (v, 0)

/-- Sum in order, each sum held (R177). -/
def heldSum : List (Val × Nat) → Val × Nat
  | [] => (.fin false 0 1, 0)
  | v :: r => r.foldl (fun (m : Val × Nat) v =>
      let (y, c) := holdChain (m.1.add false v.1)
      (y, c ||| m.2 ||| v.2)) v

/-- The difference that an exponential takes: (-inf) - (-inf) counts as -inf (R177). -/
def expDiff (a m : Val) : Val × Nat := if a = .inf true then (.inf true, 0) else a.add false m.neg

/-- A row's partial statistic: p1 and p2 as FP32, with conditions (R177). -/
def statPartial (skind : Nat) (l : List Val) : Nat × Nat × Nat :=
  let f (x : Val × Nat) : Nat × Nat := Fmt.fp32.fin rne 0 x
  if skind = 0 then
    let (a, c) := f (heldSum (l.map fun v => (v, 0)))
    let (b, d) := f (heldSum (l.map fun v => holdChain (v.mul v)))
    (a, b, stageConds (c ||| d))
  else
    let m : Val × Nat := match l with
      | [] => (.inf true, 0)
      | v :: r => r.foldl (fun (m : Val × Nat) v =>
          let (y, c) := m.1.max v
          (y, c ||| m.2)) (v, 0)
    let (a, c) := f m
    let (b, d) := if m.1 = .inf true then (0, 0)
      else f (heldSum (l.map fun v =>
        let (y, c) := v.add false m.1.neg
        let (e, d) := chainFn fnExp y
        (e, c ||| d)))
    (a, b, stageConds (c ||| d))

/-- e^(s1 - m) of both halves merged: s2 times one plus p2 times the other, exact and rounded once (R177). -/
def statExp (s1 s2 p1 p2 : Val) : Nat × Nat :=
  let m := (s1.max p1).1
  let (y1, c1) := expDiff s1 m
  let (y2, c2) := expDiff p1 m
  if y1.isZero then mergeExp p2 y2 s2
  else if y2.isZero then mergeExp s2 y1 p2
  else
    let (e1, d1) := chainFn fnExp y1
    let (e2, d2) := chainFn fnExp y2
    let (a, c3) := s2.mul e1
    let (b, c4) := p2.mul e2
    let (t, c5) := a.add false b
    Fmt.fp32.fin rne 0 (t, c1 ||| c2 ||| d1 ||| d2 ||| c3 ||| c4 ||| c5)

/-- A record after the merge of a partial statistic of n elements, and conditions (R177). -/
def statMerge (b : List Byte) (skind tidx n p1 p2 : Nat) : List Byte × Nat :=
  let put (a c e f : Nat) : List Byte := toLE a 4 ++ toLE c 4 ++ toLE e 4 ++ toLE f 4
  let f := Fmt.fp32
  let s1 := f.decode (leAt b 0 4)
  let s2 := f.decode (leAt b 4 4)
  let ne := leAt b 8 4 + n
  let cnt := leAt b 12 4 + 1
  if tidx = 0 then (put p1 p2 n 1, 0)
  else if leAt b 12 4 ≠ tidx then (put f.qnan f.qnan ne cnt, cFMT)
  else if skind = 0 then
    let (a, c) := f.fin rne 0 (s1.add false (f.decode p1))
    let (e, d) := f.fin rne 0 (s2.add false (f.decode p2))
    (put a e ne cnt, stageConds (c ||| d))
  else if s1.isNan then (put f.qnan f.qnan ne cnt, sigs [s1])
  else
    let (m, c) := s1.max (f.decode p1)
    let (e, d) := statExp s1 s2 (f.decode p1) (f.decode p2)
    (put (f.encode rne 0 m).1 e ne cnt, stageConds (c ||| d))

/-- What a chain gave for a row: values, conditions, and the partial statistic of a STAT with POST = 0. -/
structure ChainRow where
  vals : List Val
  conds : Nat
  part : Option (Nat × Nat)
  deriving DecidableEq, Repr

/-- Run a chain over a row; the bytes are those that the row takes of each stage's operand. -/
def chainRow : List (Stage × List Byte) → List Val → ChainRow
  | [], l => ⟨l, 0, none⟩
  | (x, b) :: r, l =>
    if x.isStat then
      if x.arg / 2 % 2 = 1 then chainRow r l
      else
        let (p1, p2, c) := statPartial (x.arg % 2) l
        let y := chainRow r l
        { y with conds := y.conds ||| c, part := some (p1, p2) }
    else
      let nm := if x.op = 0x10 then normOf x b else (.nan false, .nan false, 0)
      let vs := (List.range l.length).zip l |>.map fun e => x.eval b nm e.1 e.2
      let y := chainRow r (vs.map (·.1))
      { y with conds := y.conds ||| stageConds (orNat (vs.map (·.2)) ||| nm.2.2) }
where
  orNat (l : List Nat) : Nat := l.foldl (· ||| ·) 0

/-- What a computation answers in another state, without its effects. -/
def inState {α : Type} (s₀ : State) (m : M α) : M α := fun s =>
  match m s₀ with
  | .ok a _ => .ok a s
  | .error e _ => .error e s

/-- A row's bytes of every stage operand, and whether any lies in a poisoned line. Row, column and record operands are
preloaded: they are those of the state in which the chain began (R185). -/
def chainBytes (s₀ : State) : List (Stage × List Seg) → Nat → Nat → M (List (Stage × List Byte) × Bool)
  | [], _, _ => return ([], false)
  | (x, l) :: r, i, n => do
    let rd := heartRead (x.rowSegs l i n)
    let (b, p) ← (if x.isStat then pure ([], none) else if x.shape = 4 then rd else inState s₀ rd : M (List Byte × Option Nat))
    let (bs, q) ← chainBytes s₀ r i n
    return ((x, b) :: bs, p.isSome || q)

end Sys2Proof.Machine
end

