-- ==== Sys2Proof/Machine/Matrix.lean ====
section
/-! DEFINITION. The matrix fabric: MMA and MMAP with their checks and accumulation, MDRN and MLDA, tallies and their recovery
(R144-R166, R479). -/

namespace Sys2Proof.Machine

/-- The element format class of a tile, by which operands pair (R67). -/
def TGeo.cls (g : TGeo) : Nat := match g.fmt with | 6 => 4 | 7 => 5 | 0xA => 9 | f => f

/-- Leaves per side of a group (R145). -/
def leafGroup (fmt : Nat) : Nat := if fmt = 0 then 4 else if fmt = 1 then 2 else 1

/-- K elements of a step (R145). -/
def leafKappa (fmt : Nat) : Nat :=
  if fmt ≤ 3 then 1 else if fmt ≤ 8 then 2 else if fmt = 0xC then 8 else 4

/-- Bank kind of an MMA: 1 FP32, 2 FP32 pair, 3 INT32, 4 FP64 (R145). -/
def bankKind (fmt : Nat) (pair : Bool) : Nat :=
  if fmt = 0 then 4 else if fmt = 8 ∨ fmt = 0xB then 3 else if pair then 2 else 1

/-- Block of a block-scaled operand (R57); 1 for one without scales. -/
def TGeo.block (g : TGeo) : Nat := if g.xt5 || g.fmt = 0xC then 64 else if isMx g.fmt then 32 else 1

/-- Elements of an accumulation group (R68). -/
def accGroup (a b : TGeo) : Nat :=
  let mx (g : TGeo) := isMx g.fmt && !g.xt5
  if a.fmt ≤ 3 ∨ isInt a.fmt then 1
  else if mx a || mx b then 32
  else if a.block = 64 ∨ b.block = 64 then 64
  else 2

/-- Leaf columns W of a shape (R26). -/
def leafCols (shape : Nat) : Nat := [256, 256, 128, 64].getD shape 64

/-- Output extent and K extent of a tile (R146). -/
def TGeo.out (g : TGeo) : Nat := if g.kr then g.cols else g.rows
/-- K extent. -/
def TGeo.depth (g : TGeo) : Nat := if g.kr then g.rows else g.cols

/-- ARR of a matrix instruction (R153). -/
def arrOf (w : IWord) : Nat := if isDrain w then field w.base 20 4 else field w.base 14 4
/-- TA. -/
def mmaTA (w : IWord) : Nat := field w.base 21 3
/-- TB. -/
def mmaTB (w : IWord) : Nat := field w.base 18 3

/-- An array of a tree is formed. -/
def State.formed (s : State) (t n : Nat) : Bool := s.flag (.mxArray t n) 22

/-- Extents of an array in output positions for a group size. -/
def State.extent (s : State) (t n g : Nat) : Nat × Nat :=
  match (s.treeArrays t)[n]? with
  | some (sh, _) => (leafRows sh / g, leafCols sh / g)
  | none => (0, 0)

/-- The values of a tile row, with the condition of malformed parts (R62, R64). -/
def State.tileVals (s : State) (t n : Nat) (g : TGeo) (r : Nat) : List Val × Nat :=
  let (el, sc, esc) := g.split (s.tileRow t n g.cost r)
  if g.xt5 then ((List.range g.cols).map (xVal g.fmt g.cols true el sc esc), 0)
  else rowVals g.fmt g.cols el (sideOf g.fmt g.cols sc esc)

/-- A matrix operand: one list of K values for each output index, with conditions (R146). -/
def State.operandVals (s : State) (t n : Nat) (g : TGeo) : List (List Val) × Nat :=
  let rows := (List.range g.rows).map (s.tileVals t n g)
  let c := rows.foldl (fun m e => m ||| e.2) 0
  let l := rows.map (·.1)
  (if g.kr then (List.range g.cols).map fun j => l.map fun r => r.getD j (.fin false 0 1) else l, c)

/-- The exact sum of a group's products, with conditions (R68). -/
def groupSum : List (Val × Val) → Val × Nat
  | [] => (.fin false 0 1, 0)
  | (a, b) :: r => r.foldl (fun (m : Val × Nat) (e : Val × Val) =>
      let (p, c) := e.1.mul e.2
      let (y, d) := m.1.add false p
      (y, c ||| d ||| m.2)) (a.mul b)

/-- One accumulation of a group into a cell of a bank kind: new cell, conditions, saturations (R68, R69, R66). -/
def accumulate (kind cell : Nat) (x : Val × Nat) : Nat × Nat × Nat :=
  match kind with
  | 3 =>
    let i := match x.1 with | .fin n a _ => toInt n a | _ => 0
    let y := sInt 32 cell + i
    if y < -2147483648 then (0x8000_0000, cSAT, 1)
    else if 2147483647 < y then (0x7FFF_FFFF, cSAT, 1)
    else (wrap 32 y, 0, 0)
  | 4 =>
    let (v, c) := (Fmt.fp64.decode cell).add false x.1
    let (r, d) := Fmt.fp64.fin rne 0 (v, c)
    (r, d ||| x.2, 0)
  | 2 =>
    let (t, c) := (Fmt.fp32.decode (cell % 2 ^ 32)).add false x.1
    let (sn, d) := Fmt.fp32.fin rne 0 (t, c)
    match Fmt.fp32.decode sn with
    | .fin n a b =>
      let (err, _) := t.add false (.fin (!n) a b)
      let (en, e) := Fmt.fp32.fin rne 0 ((Fmt.fp32.decode (cell / 2 ^ 32)).add false err)
      (sn + en <<< 32, d ||| e ||| x.2, 0)
    | _ => (sn, d ||| x.2, 0)
  | _ =>
    let (v, c) := (Fmt.fp32.decode (cell % 2 ^ 32)).add false x.1
    let (r, d) := Fmt.fp32.fin rne 0 (v, c)
    (r, d ||| x.2, 0)

/-- The groups of two lists of K values. -/
def groupsOf (n : Nat) (a b : List Val) : List (List (Val × Val)) := blocks n a.length (a.zip b)

/-- Accumulate one output: cell, conditions, saturations. -/
def dotInto (kind grp cell : Nat) (a b : List Val) : Nat × Nat × Nat :=
  (groupsOf grp a b).foldl (fun (m : Nat × Nat × Nat) g =>
    let (v, c, n) := accumulate kind m.1 (groupSum g)
    (v, c ||| m.2.1, n + m.2.2)) (cell, 0, 0)

/-- The modulus p of the tally (R159). -/
def resP : Nat := 2 ^ 31 - 1

/-- The residue of a value m * 2^e; a NaN or an infinity contributes 0 (R159). -/
def res : Val → Nat
  | .fin neg n d =>
    let r := n % resP * 2 ^ ((31 - d.log2 % 31) % 31) % resP
    if neg then (resP - r) % resP else r
  | _ => 0

/-- A sum of residues. -/
def resSum (l : List Nat) : Nat := l.foldl (· + ·) 0 % resP

/-- Products with a NaN or infinite operand contribute nothing (R159). -/
def bothFinite (e : Val × Val) : Bool :=
  match e with
  | (.fin _ _ _, .fin _ _ _) => true
  | _ => false

/-- The residue accumulator of a position after an MMA: the residues of the exact sums of its groups (R159). -/
def rho (grp : Nat) (a b : List Val) : Nat :=
  resSum ((groupsOf grp a b).map fun g => res (groupSum (g.filter bothFinite)).1)

/-- What a checksum position accumulates from the sums that its feeder presents and one operand's elements (R159). -/
def checkSum (sums : List Nat) (x : List Val) : Nat := resSum ((sums.zip x).map fun e => e.1 * res e.2)

/-- What a checksum feeder presents for each K element: the sum of the residues of one operand's elements (R159). -/
def feederSums (depth : Nat) (l : List (List Val)) : List Nat :=
  (List.range depth).map fun k => resSum (l.map fun a => res (a.getD k (.fin false 0 1)))

/-- A position's check of one accumulation step: the residues of the new value and of the exact remainder of its rounding or
saturation add up to those of the old value and of the group (R160). An accumulator that is NaN or infinite is left out. -/
def stepOk (kind cell : Nat) (x : Val × Nat) : Bool :=
  let val (c : Nat) : Val :=
    match kind with
    | 3 => .ofInt (sInt 32 c)
    | 4 => Fmt.fp64.decode c
    | _ => Fmt.fp32.decode (c % 2 ^ 32)
  let old := val cell
  let new := val (accumulate kind cell x).1
  let exact := (old.add false x.1).1
  match old, new, exact with
  | .fin _ _ _, .fin _ _ _, .fin _ _ _ =>
    (res new + res (exact.add false new.neg).1) % resP = (res old + res x.1) % resP
  | _, _, _ => true

/-- Every step of a position passes its check. -/
def stepsOk (kind grp cell : Nat) (a b : List Val) : Bool :=
  ((groupsOf grp a b).foldl (fun (m : Nat × Bool) g =>
    ((accumulate kind m.1 (groupSum g)).1, m.2 && stepOk kind m.1 (groupSum g))) (cell, true)).2

/-- Every comparison of an MMA is equal (R160): checksum-row position j with the sum of the accumulators of column j, and
checksum-column position i with that of row i. -/
def comparesEqual (grp depth : Nat) (as bs : List (List Val)) : Bool :=
  let fa := feederSums depth as
  let fb := feederSums depth bs
  (bs.all fun b => checkSum fa b = resSum (as.map fun a => rho grp a b)) &&
    as.all fun a => checkSum fb a = resSum (bs.map fun b => rho grp a b)

/-- Key of an accumulator cell. -/
def cellKey (t n b i j : Nat) : Nat := bankKey t n b + i * 256 + j

/-- A cell of a bank. -/
def State.cell (s : State) (t n b i j : Nat) : Nat := (aread 0 s.banks (cellKey t n b i j)).toNat

/-- Accumulate a product into a bank, row by row: conditions and saturations. -/
def mmaRows (t n b kind grp : Nat) (z : Bool) (bs : List (List Val)) : Nat → List (List Val) → M (Nat × Nat)
  | _, [] => return (0, 0)
  | i, a :: r => do
    let s ← get
    let l := (List.range bs.length).zip bs |>.map fun e =>
      (e.1, dotInto kind grp (if z then 0 else s.cell t n b i e.1) a e.2)
    modify fun (s : State) =>
      { s with banks := l.foldl (fun m e => awrite 0 m (cellKey t n b i e.1) (BitVec.ofNat 64 e.2.1)) s.banks }
    let (c, k) ← mmaRows t n b kind grp z bs (i + 1) r
    return (l.foldl (fun m e => m ||| e.2.2.1) c, l.foldl (fun m e => m + e.2.2.2) k)

/-- Sampled values of an MMA: TSHAPE of A and B, control word, M, N, K, kind, SEQ, LTREE, SR_STREAM, rounding mode. -/
def mmaArgs (sa sb ctrl m n k kind seq lt st rm : Nat) : List Nat := [sa, sb, ctrl, m, n, k, kind, seq, lt, st, rm]

/-- Operand A after a prologue: values presented to the leaves, conditions, telemetry, and poison in an operand (R170, R181). -/
def prologue (x : Work) (g : TGeo) (rows : List (List Val)) : M (List (List Val) × Nat × Tel × Bool) := do
  let f := fmtOf g.fmt
  let p ← rnd (x.arg 10)
  let c ← engCtx 4 (x.arg 8) (x.arg 9)
  let s₀ ← get
  let st := (stagesOf x.bytes).zip x.segs
  let draw (i k : Nat) := if g.kr then c.draw p i k else c.draw p k i
  let l ← mapAll ((List.range rows.length).zip rows) fun e => do
    let (bs, bad) ← chainBytes s₀ st e.1 (x.arg 5)
    let y := chainRow bs e.2
    let cs := (List.range y.vals.length).zip y.vals |>.map fun v => (v.2, f.encode p (draw e.1 v.1) v.2)
    return (cs.map fun v => f.decode v.2.1, cs.foldl (fun m v => m ||| v.2.2) y.conds,
      cs.foldl (fun m v => m.plus (Tel.elem v.1 v.2.2 false)) Tel.none, bad)
  return (l.map (·.1), l.foldl (fun m e => m ||| e.2.1) 0, l.foldl (fun m e => m.plus e.2.2.1) Tel.none,
    l.any fun e => e.2.2.2)

/-- The cells of a bank of an array. -/
def State.bankCells (s : State) (t n b : Nat) : AList W64 :=
  s.banks.filter fun e => bankKey t n b ≤ e.1 && e.1 < bankKey t n b + 65536

/-- An array performs an MMA or MMAP; its tally is pending from then on (R151, R157). Conditions found. Of an array that is no
longer formed it has no effect (R163). -/
def mmaDo (t : Nat) (w : IWord) (x : Work) (again : Bool) : M Nat := do
  let s ← get
  let n := arrOf w
  let b := bankOf w
  if ¬ s.formed t n then return 0
  else
    let ga := TGeo.of (x.arg 0)
    let gb := TGeo.of (x.arg 1)
    let tiles := [mmaTA w, mmaTB w]

    let (as, ca) := s.operandVals t (mmaTA w) ga
    let (bs, cb) := s.operandVals t (mmaTB w) gb
    let (as, cp, tel, bad) ← (if w.major = 0xB1 then prologue x ga as else pure (as, 0, Tel.none, false) :
      M (List (List Val) × Nat × Tel × Bool))
    let z := bit w.base 12
    let grp := accGroup ga gb
    let good := comparesEqual grp (x.arg 5) as bs && ((List.range as.length).zip as).all fun e =>
      ((List.range bs.length).zip bs).all fun f => stepsOk (x.arg 6) grp (if z then 0 else s.cell t n b e.1 f.1) e.2 f.2
    let y : Tally := ⟨b, x.arg 7, s.bankCells t n b, s.reg (.mxBank t n b), tiles, false, again, good⟩
    whenM z (modify fun (s : State) =>
      { s with banks := s.banks.filter fun e => !(bankKey t n b ≤ e.1 && e.1 < bankKey t n b + 65536) })
    let (cm, sat) ← mmaRows t n b (x.arg 6) grp z bs 0 as
    whenM z (wrf (.mxBank t n b) 21 1 0)
    whenM bad (wrf (.mxBank t n b) 21 1 1)
    tally (x.arg 2 % 64) { Tel.none with sat := sat }
    whenM (w.major = 0xB1) (tally (chainTag x.bytes) tel)
    modify fun s => s.setTallies t n (s.talliesOf t n ++ [y])
    return ca ||| cb ||| cp ||| cm

/-- The slots of a matrix instruction (R153). A slot marked (IMM) takes an immediate or a memory operand (R102; log entry 132). -/
def mxSlots (w : IWord) : Slots :=
  match w.major with
  | 0xB0 => ⟨noSlot, immSlot, noSlot⟩
  | 0xB1 => ⟨noSlot, immSlot, memSlot⟩
  | 0xB2 => ⟨memSlot, memSlot, noSlot⟩
  | _ => ⟨noSlot, memSlot, memSlot⟩

/-- The reserved bits of a matrix base word (R153). -/
def mxLegal (w : IWord) : Bool :=
  !isDrain w || (field w.base 16 3 = 0 && !bit w.base 12 && (if w.major = 0xB2 then w.rm ≤ 4 || w.rm = 7 else w.rm = 0))

/-- MX_BANK of a bank takes a kind and an extent. -/
def setBank (t n b kind m k : Nat) : M Unit := do
  wrf (.mxBank t n b) 0 3 kind
  wrf (.mxBank t n b) 3 9 m
  wrf (.mxBank t n b) 12 9 k

/-- An MMA or MMAP at issue: the checks of R154 in their order, then those of its chain. SEQ counts at issue, and the MMA carries
the new count (log entry 60). -/
def mmaPrep (k : Nat) (w : IWord) : M Prep := do
  let s ← get
  let t := k / 4
  let n := arrOf w
  let b := bankOf w
  let ga := s.geo t (mmaTA w)
  let gb := s.geo t (mmaTB w)
  let f := ga.fmt
  let g := leafGroup f
  let (h, v) := s.extent t n g
  let o ← compute k w 0 4 (Config.operandZ w.major) 0 0
  let ctrl ← ctlArg k o.a
  let pair := ctrl.testBit 6
  let kind := bankKind f pair
  let br := s.reg (.mxBank t n b)
  if 128 ≤ ctrl then throw (fltWord w vOperand 0)
  else if ¬ ga.valid ∨ ¬ gb.valid then throw (shapeFault w 1)
  else if ga.cls ≠ gb.cls then throw (shapeFault w 3)
  else if ga.depth % ga.block ≠ 0 ∨ gb.depth % gb.block ≠ 0 then throw (shapeFault w 4)
  else if ¬ s.formed t n then throw (shapeFault w 0x10)
  else if h < ga.out ∨ v < gb.out ∨ ga.depth ≠ gb.depth ∨ ga.depth % leafKappa f ≠ 0 then throw (shapeFault w 7)
  else if pair ∧ f ≠ 1 then throw (shapeFault w 0x11)
  else if ¬ bit w.base 12 ∧ (field br 0 3 ≠ kind ∨ field br 3 9 ≠ ga.out ∨ field br 12 9 ≠ gb.out) then
    throw (shapeFault w 0x12)
  else
    let (lt, st) ← sampleSr k
    let pro := w.major = 0xB1
    let (bytes, segs) ← (if pro then
        chainPrep k w o.b false ([1, 2, 3, 4, 5].contains f && !ga.xt5) ga.out ga.depth
      else pure ([], []) : M (List Byte × List (List Seg)))
    let rm := rmOf (s.flags k) (chainRM bytes)
    modify fun s => s.addFld (.mxArray t n) 32 16 1
    let seq := (← get).fld (.mxArray t n) 32 16
    setBank t n b kind ga.out gb.out
    let x : Work := { Work.none (4 + n) with
      reads := mergeFp (chainFp t (stagesOf bytes) segs).1
      regsR := 1 <<< mmaTA w ||| 1 <<< mmaTB w
      claims := opClaims [o.b]
      args := mmaArgs (s.reg (.tshape t (mmaTA w))).toNat (s.reg (.tshape t (mmaTB w))).toNat ctrl ga.out gb.out ga.depth kind seq
        lt st rm
      segs := segs
      bytes := bytes }
    return ⟨x, o.p, [], pro && rm = 4, none⟩

/-- Memory formats that a bank kind permits (Table: Drain formats); with a chain, an FP32 or INT32 bank takes those of both
(R183). -/
def drainTo (kind : Nat) (chain : Bool) : List Nat :=
  if chain ∧ (kind = 1 ∨ kind = 3) then [1, 2, 3, 4, 5, 6, 7, 9, 0xA, 0xD, 8]
  else
    match kind with
    | 1 => [1, 2, 3, 4, 5, 6, 7, 9, 0xA]
    | 2 => [1]
    | 3 => [0xD, 8, 1, 2]
    | _ => [0, 1]

/-- Bytes of an element that a bank of a kind holds. -/
def kindBytes (kind : Nat) : Nat := if kind = 4 then 8 else 4

/-- Pieces of memory of bank row r: elements, scales, escape records, the e half of a pair (R155). -/
def drainPieces (d : List Byte) (o : Opnd) (kind n : Nat) (r : Nat) : List (Opnd × Nat) :=
  let i (off : Nat) : Int := sInt 32 (leAt d off 4)
  let m := leAt d 4 1
  let x := o.shift (i 0x10 + r * i 0x14)
  [(o.shift (r * i 0), elemBytes m n)]
    ++ (if isMx m then [(o.shift (i 8 + r * i 0xC), scaleBytes m n false)] else [])
    ++ (if m = 0xA then [(x, escBytes m n)] else [])
    ++ if kind = 2 then [(x, 4 * n)] else []

/-- All pieces of every row. -/
def walkDrain (k : Nat) (u : Use) (d : List Byte) (o : Opnd) (kind m n : Nat) : M (List (List Seg)) :=
  mapAll (List.range m) fun r => do
    return (← mapAll (drainPieces d o kind n r) fun e => walkAll k u e.1 e.2).flatten

/-- An MDRN or MLDA at issue: the checks of R479 in their order. MROWS or NCOLS 0 in an MLDA is SHAPE 0x07 (R156 names no fault for
it; DESIGN CHOICE, log entry 150). -/
def drainPrep (k : Nat) (w : IWord) : M Prep := do
  let s ← get
  let t := k / 4
  let n := arrOf w
  let b := bankOf w
  let st := w.major = 0xB2
  let z := Config.operandZ w.major
  let o ← if st then compute k w z 32 0 1 0 else compute k w 0 z 32 0 0
  let (e, dp) := if st then (o.d, o.a) else (o.a, o.b)
  let d ← fetchDesc k dp 32
  let f := leAt d 4 1
  let br := s.reg (.mxBank t n b)
  let chain := leAt d 0x18 4
  let kind := if st then field br 0 3 else if f = 0xD then 3 else if f = 0 then 4 else if leAt d 0x10 4 ≠ 0 then 2 else 1
  let m := if st then field br 3 9 else leAt d 0x1C 2
  let c := if st then field br 12 9 else leAt d 0x1E 2
  let (h, v) := s.extent t n (if kind = 4 then 4 else if kind = 2 then 2 else 1)
  if 16 ≤ f ∨ 64 ≤ leAt d 5 1 ∨ leAt d 6 2 ≠ 0 then throw (fltWord w vOperand 0)
  else if ¬ s.formed t n then throw (shapeFault w 0x10)
  else if st ∧ kind = 0 then throw (shapeFault w 0x12)
  else if ¬ (if st then drainTo kind (chain != 0) else [0, 1, 0xD]).contains f then throw (shapeFault w 0x13)
  else if st ∧ isMx f ∧ c % 32 ≠ 0 then throw (shapeFault w 4)
  else if ¬ st ∧ (m = 0 ∨ c = 0 ∨ h < m ∨ v < c) then throw (shapeFault w 7)
  else if ¬ st ∧ chain ≠ 0 then throw (shapeFault w 0x1B)
  else
    let (lt, sv) ← sampleSr k
    let rm := rmOf (s.flags k) w.rm
    let (bytes, segs) ← (if st ∧ chain ≠ 0 then
        chainPrep k w (dp.shift (sInt 32 chain)) true (kind = 1 || kind = 3) m c
      else pure ([], []) : M (List Byte × List (List Seg)))
    let rows ← walkDrain k (if st then .write else .read) d e kind m c
    whenM (¬ st) (setBank t n b kind m c)
    let (rd, wr) := chainFp t (stagesOf bytes) segs
    let fp ← opFp t e rows.flatten
    let x : Work := { Work.none (4 + n) with
      reads := mergeFp (if st then rd else fp)
      writes := mergeFp (if st then fp ++ wr else [])
      claims := opClaims [e, dp]
      args := [m, c, kind, rm, lt, sv]
      segs := rows ++ segs
      bytes := d ++ bytes }
    return ⟨x, o.p, [], st && rm = 4, none⟩

/-- The value of a cell of a bank kind. -/
def cellVal (kind c : Nat) : Val :=
  match kind with
  | 3 => .ofInt (sInt 32 c)
  | 4 => Fmt.fp64.decode c
  | _ => Fmt.fp32.decode (c % 2 ^ 32)

/-- The format code of a bank kind. -/
def kindFmt (kind : Nat) : Nat := match kind with | 3 => 0xD | 4 => 0 | _ => 1

/-- The memory bytes of a bank row: elements, scales, escapes and e halves; conditions, telemetry, values stored, and the
partial statistic of a chain (R155, R156, R182). -/
def drainRow (kind f : Nat) (p : Rnd) (draw : Nat → Nat) (ch : Option (List (Stage × List Byte))) (cells : List Nat) :
    List Byte × Nat × Tel × List Val × Option (Nat × Nat) :=
  let n := cells.length
  let vals := cells.map (cellVal kind)
  match ch with
  | none =>
    if f = kindFmt kind then
      let e := if kind = 2 then cells.flatMap fun c => toLE (c / 2 ^ 32) 4 else []
      ((cells.flatMap fun c => toLE c (kindBytes kind)) ++ e, 0, Tel.none, vals, none)
    else
      let r := storeRow f p draw vals
      let sf := kindFmt kind
      let side := r.side.take (scaleBytes f n false) ++ if f = 0xA then r.side.drop (up8 (n / 32)) else []
      (r.el ++ side, if isInt sf ∧ isInt f then r.conds &&& cSAT else r.conds, telOf sf f r.tel, vals, none)
  | some st =>
    let y := chainRow st vals
    let r := storeRow f p draw y.vals
    let side := r.side.take (scaleBytes f n false) ++ if f = 0xA then r.side.drop (up8 (n / 32)) else []
    (r.el ++ side, y.conds ||| r.conds, r.tel, (rowVals f n r.el r.side).1, y.part)

/-- The record of a STAT stage after a row (R177-R179). -/
def putStat (st : List (Stage × List Seg)) (i n : Nat) (part : Option (Nat × Nat)) (stored : List Val) (poison : Bool) : M Nat := do
  match st.find? fun e => e.1.isStat with
  | none => return 0
  | some (x, l) =>
    let g := x.rowSegs l i n
    let (b, _) ← heartRead g
    let (p1, p2, c) := match part with
      | some (p1, p2) => (p1, p2, 0)
      | none => statPartial (x.arg % 2) stored
    let (r, d) := statMerge b (x.arg % 2) (x.arg / 16) n p1 p2
    heartPut g r poison
    return c ||| d

/-- The drain writes bank rows from i on. -/
def drainRows (s₀ : State) (t : Nat) (w : IWord) (x : Work) (p : Rnd) (c : SrCtx) : Nat → List (List Seg) → M Nat
  | _, [] => return 0
  | i, l :: r => do
    let s ← get
    let n := arrOf w
    let b := bankOf w
    let nc := x.arg 1
    let d := x.bytes
    let cb := d.drop 32
    let st := (stagesOf cb).zip (x.segs.drop (x.arg 0))
    let cells := (List.range nc).map (s.cell t n b i)
    let (bs, bad) ← chainBytes s₀ st i nc
    let poison := s.flag (.mxBank t n b) 21 || bad
    let (bytes, k, tel, stored, part) := drainRow (x.arg 2) (leAt d 4 1) p (fun j => c.draw p j i)
      (if cb.isEmpty then none else some bs) cells
    heartPut l bytes poison
    tally (leAt d 5 1) tel
    let k2 ← putStat st i nc part stored poison
    let k3 ← drainRows s₀ t w x p c (i + 1) r
    return k ||| k2 ||| k3

/-- Load bank rows from i on; whether a line was poisoned (R156). -/
def loadRows (t n b kind nc : Nat) : Nat → List (List Seg) → M Bool
  | _, [] => return false
  | i, l :: r => do
    let (bs, p) ← heartRead l
    let kb := kindBytes kind
    modify fun (s : State) =>
      { s with banks := (List.range nc).foldl (fun m j =>
          let v := leAt bs (kb * j) kb + if kind = 2 then leAt bs (4 * nc + 4 * j) 4 <<< 32 else 0
          awrite 0 m (cellKey t n b i j) (BitVec.ofNat 64 v)) s.banks }
    let q ← loadRows t n b kind nc (i + 1) r
    return p.isSome || q

/-- The drain stage performs an MDRN or MLDA; conditions found. An MLDA of an array that is no longer formed loads nothing
(R163). -/
def drainDo (t : Nat) (w : IWord) (x : Work) : M Nat := do
  let s ← get
  let n := arrOf w
  let b := bankOf w
  let rows := x.segs.take (x.arg 0)
  if w.major = 0xB2 then
    let p ← rnd (x.arg 3)
    let c ← engCtx 3 (x.arg 4) (x.arg 5)
    drainRows s t w x p c 0 rows
  else if ¬ s.formed t n then return 0
  else
    modify fun (s : State) =>
      { s with banks := s.banks.filter fun e => !(bankKey t n b ≤ e.1 && e.1 < bankKey t n b + 65536) }
    let bad ← loadRows t n b (x.arg 2) (x.arg 1) 0 rows
    wrf (.mxBank t n b) 21 1 (b2n bad)
    return 0

/-- Put back a bank as it was before an MMA: contents and POISON (R161). KIND, MEXT and NEXT, which the MMA set at issue, stay
(log entry 60). -/
def restoreBank (t n : Nat) (y : Tally) : M Unit := do
  modify fun (s : State) =>
    let keep := s.banks.filter fun e => !(bankKey t n y.bank ≤ e.1 && e.1 < bankKey t n y.bank + 65536)
    { s with banks := y.before.foldl (fun m e => awrite 0 m e.1 e.2) keep }
  wrf (.mxBank t n y.bank) 21 1 (b2n (bit y.reg 21))

/-- The scoreboard entry of an MMA of array n by SEQ. -/
def State.mmaEntry (s : State) (t n seq : Nat) : Option SbEntry :=
  (s.tree t).sb.find? fun e => e.work.eng = 4 + n && !isDrain e.word && e.performed && e.work.arg 7 = seq

/-- Set the conditions that an MMA will report. -/
def setConds (t n seq c : Nat) : M Unit := modify fun (s : State) =>
  let x := s.tree t
  s.setTree t { x with sb := x.sb.map fun (e : SbEntry) =>
    if e.work.eng = 4 + n && !isDrain e.word && e.performed && e.work.arg 7 = seq then { e with conds := c } else e }

/-- The scoreboard no longer holds the prologue's operand bytes as read by an MMAP (R188). -/
def State.releaseReads (s : State) (t n seq : Nat) : State :=
  let x := s.tree t
  s.setTree t { x with sb := x.sb.map fun (e : SbEntry) =>
    if e.work.eng = 4 + n && !isDrain e.word && e.performed && e.work.arg 7 = seq then
      { e with work := { e.work with reads := [] } } else e }

/-- A state in which the re-execution of an array's MMAs is over, once none of them is pending: so is the array's recovery (R162,
R439). -/
def State.redone (s : State) (t n : Nat) (again : Bool) : State :=
  if again && !(s.talliesOf t n).any (·.again) then s.endHandling (.array t n) else s

/-- The oldest pending tally of an array passes when its comparisons are equal, and its restore point and the operand bytes of its
prologue are released (R160, R161, R188). -/
def tallyPass (t n : Nat) : M Unit := modify fun s =>
  match s.talliesOf t n with
  | y :: r => if y.equal then ((s.setTallies t n r).releaseReads t n y.seq).redone t n y.again else s
  | [] => s

/-- The block of array n in which a logical leaf row and column lie (R144). -/
def State.blockAt (s : State) (t n r c : Nat) : Option Nat :=
  match (s.treeArrays t)[n]? with
  | some (sh, bl) => if r < leafRows sh ∧ c < leafCols sh then bl[r / 64 * (leafCols sh / 64) + c / 64]? else none
  | none => none

/-- The physical row of a block that a logical row of it occupies: 64 and 65 are the reserve rows. With a substitution the rows
from SROW on lie one below, and the last in the reserve row that SSEL names (R144). -/
def physRow (w r : Nat) : Nat :=
  if w.testBit 14 ∧ w / 2 ^ 8 % 64 ≤ r then (if r = 63 then 64 + b2n (w.testBit 15) else r + 1) else r

/-- What the diagnostic localised: logical row and column, or none (R162). Of a column fault the row is the one that the
diagnostic gives (DESIGN CHOICE, log entry 151). -/
def diagWhere : Diag → Option (Nat × Nat)
  | .transient => none
  | .row r c _ => some (r.val, c.val)
  | .column r c => some (r.val, c.val)

/-- The fault of a recovery that is in progress in an array lies in another block than the one a unit word names (R440). -/
def State.otherBlock (s : State) (t n unit : Nat) : Bool :=
  (s.handling (.array t n)).isSome && s.handled.any fun h => h.dom = .array t n && h.unit != unit && h.unit != unitWord 2 t

/-- A mismatch leaves an array being handled: until its MMAs have been re-executed, or for a time (R162, R424, R439). -/
def State.mismatched (s : State) (t n code unit : Nat) (redo : Bool) : State :=
  let us := s.someUs 1000
  (({ s with fresh := s.fresh + 1 }.recovery 3 us).handle (.array t n) 3 code unit none).handledUntil (.array t n)
    (if redo then none else some (s.now + 100 * us))

/-- A tally mismatch of the MMA with a SEQ, with what the diagnostic finds (R162). It has no effect while no such tally is
pending or the row and column are none of the array. In the course of another recovery of the array its record is secondary, and a
second block is taken out (R439, R440). -/
def tallyMismatch (t n seq : Nat) (dg : Diag) : M Unit := do
  let s ← get
  let l := s.talliesOf t n
  let place := (diagWhere dg).bind fun p => s.blockAt t n p.1 p.2
  match l.findIdx? fun y => y.seq = seq with
  | none => skip
  | some i =>
    if (diagWhere dg).isSome ∧ place.isNone then skip
    else
      let blk := place.getD 0
      let hit := l.drop i
      forAll hit.reverse (restoreBank t n)
      modify fun s => s.setTallies t n (l.take i)
      let sub ← (match dg with
        | .transient => pure false
        | .row r _ clean => mendBlock (s.flag (.mxCtrl t) 0 && !s.otherBlock t n (unitWord 4 (t * 16 + blk))) t blk
            (some (physRow (leafBlock s.leaf t blk) (r.val % 64))) clean
        | .column _ _ => mendBlock false t blk none false : M Bool)
      let s ← get
      let out := (diagWhere dg).isSome && !sub
      let redo := s.formed t n && s.flag (.mxCtrl t) 1 && hit.all fun y => !y.stale
      if redo then
        forAll hit fun y => do
          match (← get).mmaEntry t n y.seq with
          | some e =>
            let c ← mmaDo t e.word e.work true
            setConds t n y.seq c
          | none => skip
      else forAll hit fun y => do
        wrf (.mxBank t n y.bank) 21 1 1
        modify fun s => s.releaseReads t n y.seq
      let o := if out then 4 else b2n (!redo) + if sub then 2 else 0
      let (r, c) := (diagWhere dg).getD (0x1FF, 0x1FF)
      let bank := match hit with | y :: _ => y.bank | [] => 0
      let again := match hit with | y :: _ => y.again | [] => false
      wr (.mxTallyLast t)
        (BitVec.ofNat 64 (n + bank <<< 4 + seq <<< 5 + r <<< 21 + c <<< 30 + blk <<< 39 + o <<< 43))
      modify fun (s : State) =>
        let s := s.satFld (.mxTally t) 0 16
        let s := if redo then s.satFld (.mxTally t) 16 16 else s.satFld (.mxTally t) 32 16
        let s := if sub then s.satFld (.mxTally t) 48 8 else s
        if out then s.satFld (.mxTally t) 56 4 else s
      let s ← get
      let unit := if (diagWhere dg).isSome then unitWord 4 (t * 16 + blk) else unitWord 2 t
      let last := s.reg (.mxTallyLast t)
      let p := s.handling (.array t n)
      set (s.mismatched t n o unit redo)
      raise [.incident 3 (if out then 3 else 2) o unit 0 last 0 (again || p.isSome) (p.getD 0xFFFF_FFFF)]
      event (s.fld (.mxCtrl t) 2 10) 2 o last (BitVec.ofNat 64 t)

end Sys2Proof.Machine
end

