-- ==== Sys2Proof/Machine/Vector.lean ====
section
/-! DEFINITION. The vector unit: registers, groups, masks, element operations, reductions, permutes, gathers and scatters
(R191-R214). -/

namespace Sys2Proof.Machine

/-- ET (R193). -/
def vET (w : IWord) : Nat := field w.base 16 3
/-- ME. -/
def vME (w : IWord) : Bool := bit w.base 23
/-- MK. -/
def vMK (w : IWord) : Nat := field w.base 20 3
/-- ZM. -/
def vZM (w : IWord) : Bool := bit w.base 19

/-- EW of an ET (Table: Vector element types). -/
def ewOf (et : Nat) : Nat := if et ≤ 4 then 4 * 2 ^ et else 16

/-- The floating-point format of an ET. -/
def vFmt (et : Nat) : Fmt :=
  match et with
  | 3 => .fp32
  | 4 => .fp64
  | 6 => .fp16
  | _ => .bf16

/-- A mask is named only with ME (R195). -/
def vMaskOk (w : IWord) : Bool := vME w || vMK w = 0

/-- An integer element type from a smallest one on. -/
def vInt (w : IWord) (least : Nat) : Bool := vMaskOk w && least ≤ vET w && vET w ≤ 4

/-- A floating-point element type. -/
def vFp (w : IWord) : Bool := vMaskOk w && [2, 3, 4, 6].contains (vET w)

/-- A rounding mode in a major that rounds (R193). -/
def vRm (w : IWord) : Bool := w.rm ≤ 4 || w.rm = 7

/-- Mask instructions take ET = 0 and no mask (R198). -/
def vMaskIns (w : IWord) : Bool := vMaskOk w && vET w = 0 && !vME w && !vZM w

/-- A destination: a register group or memory. -/
def vDst : Slot := ⟨13 :: memModes, true⟩
/-- A source: also one broadcast element. -/
def vSrc : Slot := ⟨13 :: 15 :: memModes, true⟩
/-- A source that may be an immediate. -/
def vSrcI : Slot := ⟨1 :: 13 :: 15 :: memModes, true⟩
/-- A mask register. -/
def vMreg : Slot := ⟨[14], true⟩
/-- An immediate. -/
def vImm : Slot := ⟨[1], true⟩
/-- An immediate or a broadcast element. -/
def vImmB : Slot := ⟨[1, 15], true⟩
/-- Memory. -/
def vMem : Slot := ⟨memModes, true⟩
/-- A mask register or memory. -/
def vMaskMem : Slot := ⟨14 :: memModes, true⟩

/-- How an instruction's elements lie: vl_eff, elements per member, element widths and group sizes of d, a and b, elements of d,
whether d is read as well, whether a second result follows it, and whether it goes element by element (R192, R202, R203,
R209). -/
structure VShape where
  n : Nat
  per : Nat
  wd : Nat
  wa : Nat
  wb : Nat
  gd : Nat
  ga : Nat
  gb : Nat
  dn : Nat
  rw : Bool
  two : Bool
  elem : Bool
  deriving DecidableEq, Repr

/-- Bytes of n elements. -/
def vBytes (n w : Nat) : Nat := (n * w + 7) / 8

/-- Element widths of VCVT from its codes (R203). -/
def cvtBits (c : Nat) : Nat := codeBits c

/-- The format codes of VCVT. -/
def vCvtCode (c : Nat) : Bool := c ≤ 5 || c = 8 || c = 0xB || c = 0xD

/-- Majors that go element by element (R209). -/
def vElementwise (m : Nat) : Bool := m ≤ 0x83 || m = 0x85 || m = 0x86 || (0x88 ≤ m && m ≤ 0x90)

/-- The shape of an instruction with VL and VG (R192, R196). -/
def vecShape (w : IWord) (vl vg : Nat) : VShape :=
  let m := w.major
  if m = 0x90 then
    let d := cvtBits (field w.s2 0 4)
    let a := cvtBits (field w.s2 4 4)
    let x := max d a
    let n := min vl (vg * 16384 / x)
    ⟨n, 16384 / x, d, a, x, max 1 (vg * d / x), max 1 (vg * a / x), vg, n, false, false, true⟩
  else if m = 0x87 then
    let n := min vl 32768
    ⟨n, 32768, 1, 1, 1, 1, 1, 1, n, false, false, false⟩
  else
    let ew := ewOf (vET w)
    let n := min vl (vg * 16384 / ew)
    let red := 0x91 ≤ m && m ≤ 0x93
    ⟨n, 16384 / ew, ew, ew, ew, vg, vg, vg, if red then 1 else n, m = 0x8A, m = 0x8D, vElementwise m⟩

/-- Elements of n in a group that begins at a register. -/
def State.grp (s : State) (t v ew n : Nat) : List Nat :=
  let per := 16384 / ew
  let rs := (List.range ((n + per - 1) / per)).map fun i => (aread 0 s.vregs (t * 32 + (v + i) % 32)).toNat
  (List.range n).map fun e => (rs.getD (e / per) 0 >>> (e % per * ew)) % 2 ^ ew

/-- A register with some of its elements replaced, from element 0 on. -/
def packElems (ew : Nat) (old : Nat) : List (Option Nat) → Nat
  | [] => old
  | o :: r => (match o with | some v => v % 2 ^ ew | none => old % 2 ^ ew) + packElems ew (old >>> ew) r <<< ew

/-- A state with one vector register changed. -/
def State.putVreg (s : State) (r ew : Nat) (c : List (Option Nat)) : State :=
  { s with vregs := awrite 0 s.vregs r (BitVec.ofNat 16384 (packElems ew (aread 0 s.vregs r).toNat c)) }

/-- Write elements of a group; none leaves an element as it is. -/
def putGrp (t v ew : Nat) (l : List (Option Nat)) : M Unit :=
  let per := 16384 / ew
  forAll (List.range ((l.length + per - 1) / per)) fun i =>
    let c := (l.drop (i * per)).take per
    if c.all Option.isNone then skip
    else modify fun (s : State) => s.putVreg (t * 32 + (v + i) % 32) ew c

/-- Bits [lo, lo + n) of a mask register. -/
def State.maskBits (s : State) (t m lo n : Nat) : List Bool :=
  let v := (aread 0 s.mregs (t * 8 + m)).toNat
  (List.range n).map fun i => v.testBit (lo + i)

/-- Write bits of a mask register from bit 0 on; none leaves a bit as it is. -/
def putMask (t m : Nat) (l : List (Option Bool)) : M Unit := modify fun (s : State) =>
  let v := BitVec.ofNat 32768 (packElems 1 (aread 0 s.mregs (t * 8 + m)).toNat (l.map fun o => o.map b2n))
  { s with mregs := awrite 0 s.mregs (t * 8 + m) v }

/-- The registers of a group as bits of a resource mask. -/
def vBits (o : Opnd) (g : Nat) : Nat :=
  match o with
  | .vreg v => (2 ^ g - 1) <<< (8 + v)
  | .mreg m => 1 <<< (40 + m)
  | _ => 0

/-- The pair of a register place's access, kept where a place of memory has its write policy. -/
def pairCode (r : Req) : Nat := r.master.toNat + 1024 * b2n r.world

/-- The pair that a code names. -/
def pairOf (n : Nat) : Req := ⟨BitVec.ofNat 10 (n % 1024), n / 1024 = 1⟩

/-- Check one operand of elements e0 to lim: its places, and the first element that fails with its fault. -/
def vWalk (k : Nat) (u : Use) (o : Opnd) (ew e0 lim : Nat) : M (List Seg × Option (Nat × Stop)) := do
  let eb := max 1 (ew / 8)
  match o with
  | .bcst va =>
    if va % eb ≠ 0 then return ([], some (e0, .exc vAlign 0 (BitVec.ofNat 64 va) 0 true))
    else
      match ← attempt (placeOf k (.mem va false) .read eb) with
      | .error e => return ([], some (e0, e))
      | .ok l => do
        let q := ((← get).crewPort k).req
        return ([⟨l.pa, if inRegs l.pa then pairCode q else l.pol, l.n⟩], none)
  | .mem _ _ => go eb
  | .claim _ _ => go eb
  | _ => return ([], none)
where
  go (eb : Nat) : M (List Seg × Option (Nat × Stop)) := do
    if o.at % eb ≠ 0 then
      return ([], some (e0, .exc vAlign 0 (BitVec.ofNat 64 (← opAddr k o)) (BitVec.ofNat 64 (b2n u.writes)) true))
    else
      let b0 := e0 * ew / 8
      match ← walk k u (o.shift b0) (vBytes lim ew - b0) with
      | (l, none) => return (l, none)
      | (l, some (b, e)) => return (l, some (max e0 ((b0 + b) * 8 / ew), e))

/-- Check one element each at its own address (R194, R206): a place for each active element, and the first that fails. -/
def vWalkEach (k : Nat) (u : Use) (ew : Nat) : Nat → List (Option Opnd) → M (List Seg × Option (Nat × Stop))
  | _, [] => return ([], none)
  | e, none :: r => do
    let (l, f) ← vWalkEach k u ew (e + 1) r
    return (⟨0, 0, 0⟩ :: l, f)
  | e, some o :: r => do
    match ← vWalk k u o ew 0 1 with
    | (_, some (_, x)) => return ([], some (e, x))
    | (g, none) =>
      let (l, f) ← vWalkEach k u ew (e + 1) r
      return (g ++ l, f)

/-- Values of one operand for elements e0 to lim: an immediate, a register group, one broadcast element, or memory. Poison
read from memory is contained (R425; log entry 50). -/
def vRead (g t : Nat) (mode : Nat) (x : W32) (l : List Seg) (ew e0 lim : Nat) : M (List Nat) := do
  match mode with
  | 1 => return List.replicate (lim - e0) (wrap ew (sInt 32 x.toNat))
  | 13 => return ((← get).grp t (field x 0 5) ew lim).drop e0
  | 15 =>
    match l with
    | [] => return List.replicate (lim - e0) 0
    | p :: _ =>
      if inRegs p.pa then
        match ← regBusRead (pairOf p.pol) p.pa p.n with
        | .ok b => return List.replicate (lim - e0) (ofLE b % 2 ^ ew)
        | .error _ => return List.replicate (lim - e0) 0
      else
        let (b, q) ← crewRead g p.pol p.pa p.n
        if q then throw (.contain p.pa) else return List.replicate (lim - e0) (ofLE b % 2 ^ ew)
  | _ =>
    let b ← heartTake l
    let b0 := e0 * ew / 8
    if ew = 4 then return (List.range (lim - e0)).map fun i => nibble b (e0 + i - 2 * b0)
    else
      let a := b.toArray
      return (List.range (lim - e0)).map fun i =>
        (List.range (ew / 8)).foldr (fun j m => (a.getD (i * (ew / 8) + j) 0).toNat + 256 * m) 0

/-- Bytes written for elements e0 onward. -/
def elemOut (ew : Nat) : List (Option Nat) → List (Option Byte)
  | [] => []
  | o :: r => (match o with
    | some v => (toLE v (ew / 8)).map some
    | none => List.replicate (ew / 8) none) ++ elemOut ew r

/-- Bytes written for 4-bit elements over what lies there, from the element of the first byte on. -/
def nibOut : List Byte → List (Option Nat) → List (Option Byte)
  | b :: bs, x :: y :: r =>
    (if x.isNone ∧ y.isNone then none
      else some (BitVec.ofNat 8 (x.getD (b.toNat % 16) % 16 + 16 * (y.getD (b.toNat / 16) % 16)))) :: nibOut bs r
  | b :: _, [x] => [x.map fun v => BitVec.ofNat 8 (v % 16 + 16 * (b.toNat / 16))]
  | _, _ => []

/-- Write elements e0 onward of a destination: a register group or memory. -/
def vWrite (t : Nat) (mode : Nat) (x : W32) (l : List Seg) (ew e0 : Nat) (vals : List (Option Nat)) : M Unit := do
  if mode = 13 then putGrp t (field x 0 5) ew (List.replicate e0 none ++ vals)
  else if ew = 4 then
    let (b, _) ← heartRead l
    heartWrite l (nibOut b (List.replicate (e0 % 2) none ++ vals))
  else heartWrite l (elemOut ew vals)

/-- Addresses of the first bytes of elements e0 to lim in a memory operand. -/
def elemAddrs (l : List Seg) (ew e0 lim : Nat) : List Nat :=
  let a := (l.flatMap fun g => (List.range g.n).map (· + g.pa)).toArray
  (List.range (lim - e0)).filterMap fun i => a[(e0 + i) * ew / 8 - e0 * ew / 8]?

/-- What elements read of one memory source: bytes of an element, and for each element the address that it reads, if it reads
one. -/
abbrev Reads := Nat × List (Option Nat)

/-- What elements read of a contiguous memory operand: each its own element. -/
def ownReads (l : List Seg) (ew e0 lim : Nat) : Reads := (max 1 (ew / 8), (elemAddrs l ew e0 lim).map some)

/-- What the elements of a permute read of a memory operand: each the element at its position, if any. -/
def readsAt (l : List Seg) (ew n : Nat) (pos : List (Option Nat)) : Reads :=
  let a := (elemAddrs l ew 0 n).toArray
  (max 1 (ew / 8), pos.map fun o => o.bind fun i => a[i]?)

/-- Elements that read a byte that another element writes (R207): destinations of ebd bytes each, of the elements that write. Where
each element is written over its own source no other is met, unless two 4-bit elements share a byte. -/
def clashes (src : Reads) (ebd : Nat) (dst : List Nat) (writes : List Bool) : List Bool :=
  let hi (l : List Nat) := l.foldl max 0
  let lo (l : List Nat) := l.foldl min (hi l)
  let rs := src.2.filterMap id
  let apart := (dst.zip (dst.drop 1)).all fun e => e.1 != e.2
  if (src.2 = dst.map some ∧ apart) ∨ rs.isEmpty ∨ dst.isEmpty ∨ hi rs + src.1 ≤ lo dst ∨ hi dst + ebd ≤ lo rs then []
  else (List.range src.2.length).map fun i =>
    match src.2.getD i none with
    | none => false
    | some a => (List.range dst.length).any fun j =>
      let b := dst.getD j 0
      i != j && writes.getD j false && a < b + ebd && b < a + src.1

/-- The elements that R207 leaves unspecified: active ones that read a byte that another element writes in one of some
destinations. -/
def unspecified (act writes : List Bool) (srcs : List Reads) (ebd : Nat) (dsts : List (List Nat)) : List Bool :=
  let cl := srcs.flatMap fun r => dsts.map fun d => clashes r ebd d writes
  (List.range act.length).map fun i => act.getD i false && cl.any fun c => c.getD i false

/-- Results with a free value for each element that R207 leaves unspecified (log entry 9). -/
def freeClash (ew : Nat) : List Bool → List (Option Nat) → M (List (Option Nat))
  | true :: c, some _ :: r => do
    let v ← draw
    return some (v.toNat % 2 ^ ew) :: (← freeClash ew c r)
  | _ :: c, o :: r => do return o :: (← freeClash ew c r)
  | _, l => return l

/-- The governing mask of elements e0 to lim (R197). -/
def State.vActive (s : State) (t : Nat) (w : IWord) (e0 lim : Nat) : List Bool :=
  if vME w then s.maskBits t (vMK w) e0 (lim - e0) else List.replicate (lim - e0) true

/-- An element's result: computed when active, else left or zero (R197). -/
def masked (zm : Bool) (act : Bool) (v : Nat) : Option Nat := if act then some v else if zm then some 0 else none

/-- Integer operations of two elements of ew bits, by MAJOR and SUB (R198, R199). -/
def vIntOp (m sub ew a b : Nat) : Nat :=
  let n := 2 ^ ew
  if m = 0x80 then
    match sub with
    | 0 => (a + b) % n
    | 1 => (a + n - b) % n
    | 2 => a * b % n
    | 3 => wrap ew (sInt ew a * sInt ew b / (n : Int))
    | 4 => a * b / n
    | 5 => if sInt ew b < sInt ew a then b else a
    | 6 => if sInt ew a < sInt ew b then b else a
    | 7 => min a b
    | 8 => max a b
    | 9 => wrap ew (sInt ew a).natAbs
    | _ => (n - a) % n
  else
    match sub with
    | 0 => a &&& b
    | 1 => a ||| b
    | 2 => a ^^^ b
    | 3 => a &&& (b ^^^ (n - 1))
    | 4 => a ^^^ (n - 1)
    | 5 => (a <<< (b % ew)) % n
    | 6 => a >>> (b % ew)
    | 7 => wrap ew (sInt ew a / (2 ^ (b % ew) : Nat))
    | 8 => popc ew a
    | _ => clz ew a

/-- Floating-point operations by MAJOR and SUB: exact value and conditions (R198, R200-R202). -/
def vFpOp (m sub fn : Nat) (rdn : Bool) (a b d : Val) : Val × Nat :=
  match m with
  | 0x88 => if sub = 0 then a.add rdn b else a.add rdn b.neg
  | 0x89 => if sub = 0 then a.mul b else a.div b
  | 0x8A => a.fma rdn b (if sub = 0 then d else d.neg)
  | 0x8B => a.sqrt
  | 0x8E => chainFn fn a
  | _ =>
    match sub with
    | 0 => a.min b
    | 1 => a.max b
    | 2 => (a.abs, 0)
    | _ => (a.neg, 0)

/-- TwoSum or TwoProd: s, e and conditions (R82). -/
def twoOp (f : Fmt) (prod : Bool) (a b : Val) : Nat × Nat × Nat :=
  let x := if prod then a.mul b else a.add false b
  let (s, c) := f.fin rne 0 x
  match f.decode s with
  | .fin sn p q =>
    let (e, k) := x.1.add false (.fin (!sn) p q)
    let e := if e.isZero then .fin false 0 1 else e
    let (ec, kc) := f.fin rne 0 (e, k)
    (s, ec, c ||| kc)
  | _ => (s, 0, c)

/-- A VFCMP predicate (R198). -/
def fpPred (p : Nat) (a b : Val) : Bool :=
  let un := a.isNan || b.isNan
  match p with
  | 0 => a.eqv b
  | 1 => un || !a.eqv b
  | 2 => a.lt b
  | 3 => a.lt b || a.eqv b
  | 4 => b.lt a
  | 5 => b.lt a || a.eqv b
  | 6 => un
  | _ => !un

/-- Conditions of two integer elements as flags of a - b (R198). -/
def intPred (cond ew a b : Nat) : Bool := condHolds ((aluSub ew a b 0).flags 0) cond

/-- One value for each position, up to a list's end. -/
def zip3 {α β γ : Type} : List α → List β → List γ → List (α × β × γ)
  | a :: as, b :: bs, c :: cs => (a, b, c) :: zip3 as bs cs
  | _, _, _ => []

/-- The union of conditions. -/
def orAll (l : List Nat) : Nat := l.foldl (· ||| ·) 0

/-- Sampled values of a vector instruction's work: vl_eff, first element, limit, VG, rounding mode, LTREE and SR_STREAM. -/
def vArgs (n e0 lim vg rm ltree stream : Nat) : List Nat := [n, e0, lim, vg, rm, ltree, stream]

/-- A floating-point operand's values; an IMM is an FP32 value (R93). -/
def vReadF (g t : Nat) (f : Fmt) (mode : Nat) (x : W32) (l : List Seg) (ew e0 lim : Nat) : M (List Val) := do
  if mode = 1 then return List.replicate (lim - e0) (Fmt.fp32.decode x.toNat)
  else return (← vRead g t mode x l ew e0 lim).map f.decode

/-- Elements that are written: active ones, and all with ZM. -/
def vWrites (w : IWord) (act : List Bool) : List Bool := act.map fun a => a || vZM w

/-- Addresses that the elements of a memory destination have; none for registers. -/
def vDsts (w : IWord) (l : List Seg) (z : VShape) (e0 lim : Nat) : List Nat :=
  if w.md = 13 then [] else elemAddrs l z.wd e0 lim

/-- Write a result with mask, and free values for the elements named. -/
def vPut (t : Nat) (w : IWord) (l : List Seg) (z : VShape) (e0 : Nat) (act free : List Bool) (vals : List Nat) : M Unit := do
  let outs := (act.zip vals).map fun e => masked (vZM w) e.1 e.2
  vWrite t w.md w.sd l z.wd e0 (← freeClash z.wd free outs)

/-- Write a result with mask, and free values where sources and destination overlap. -/
def vFinish (t : Nat) (w : IWord) (x : Work) (z : VShape) (act : List Bool) (srcs : List Reads) (vals : List Nat) : M Unit := do
  let e0 := x.arg 1
  let dst := vDsts w (x.seg 0) z e0 (x.arg 2)
  vPut t w (x.seg 0) z e0 act (unspecified act (vWrites w act) srcs (max 1 (z.wd / 8)) [dst]) vals

/-- What the elements of an element-wise instruction read of its memory sources. -/
def vSrcs (w : IWord) (x : Work) (z : VShape) : List Reads :=
  (if memModes.contains w.m1 then [ownReads (x.seg 1) z.wa (x.arg 1) (x.arg 2)] else [])
    ++ (if memModes.contains w.m2 then [ownReads (x.seg 2) z.wb (x.arg 1) (x.arg 2)] else [])

/-- Integer operations, VMOV and VIOTA. -/
def vDoInt (g t : Nat) (w : IWord) (x : Work) (z : VShape) : M Nat := do
  let e0 := x.arg 1
  let lim := x.arg 2
  let act := (← get).vActive t w e0 lim
  if w.major = 0x83 then
    if w.sub4 = 3 then
      vFinish t w x z act [] ((List.range (lim - e0)).map fun i => (e0 + i) % 2 ^ z.wd)
    else vFinish t w x z act (vSrcs w x z) (← vRead g t w.m1 w.s1 (x.seg 1) z.wa e0 lim)
  else
    let a ← vRead g t w.m1 w.s1 (x.seg 1) z.wa e0 lim
    let b ← if w.m2 = 0 then pure a else vRead g t w.m2 w.s2 (x.seg 2) z.wb e0 lim
    vFinish t w x z act (vSrcs w x z) ((a.zip b).map fun e => vIntOp w.major w.sub4 z.wd e.1 e.2)
  return 0

/-- Comparisons into a mask register. -/
def vDoCmp (g t : Nat) (w : IWord) (x : Work) (z : VShape) : M Nat := do
  let e0 := x.arg 1
  let lim := x.arg 2
  let act := (← get).vActive t w e0 lim
  let put (l : List Bool) : M Unit :=
    putMask t (field w.sd 0 3) (List.replicate e0 none ++ (act.zip l).map fun e =>
      if e.1 then some e.2 else if vZM w then some false else none)
  if w.major = 0x82 then
    let a ← vRead g t w.m1 w.s1 (x.seg 1) z.wa e0 lim
    let b ← vRead g t w.m2 w.s2 (x.seg 2) z.wb e0 lim
    put ((a.zip b).map fun e => intPred w.sub4 z.wd e.1 e.2)
    return 0
  else
    let f := vFmt (vET w)
    let a ← vReadF g t f w.m1 w.s1 (x.seg 1) z.wa e0 lim
    let b ← vReadF g t f w.m2 w.s2 (x.seg 2) z.wb e0 lim
    put ((a.zip b).map fun e => fpPred w.sub4 e.1 e.2)
    return orAll ((zip3 act a b).map fun e => if e.1 then sigs [e.2.1, e.2.2] else 0)

/-- Floating-point operations. -/
def vDoFp (g t : Nat) (w : IWord) (x : Work) (z : VShape) : M Nat := do
  let e0 := x.arg 1
  let lim := x.arg 2
  let s ← get
  let act := s.vActive t w e0 lim
  let f := vFmt (vET w)
  let rounds := w.major != 0x8C
  let p ← if rounds then rnd (x.arg 4) else pure rne
  let c ← engCtx 1 (x.arg 5) (x.arg 6)
  let sub := if rounds then w.sub1 else w.sub4
  let a ← vReadF g t f w.m1 w.s1 (x.seg 1) z.wa e0 lim
  let b ← if w.m2 = 0 ∨ w.major = 0x8E then pure a else vReadF g t f w.m2 w.s2 (x.seg 2) z.wb e0 lim
  let d ← if z.rw then vReadF g t f w.md w.sd (x.seg 0) z.wd e0 lim else pure a
  let one (i : Nat) (e : Bool × Val × Val × Val) : Nat × Nat :=
    if e.1 then
      f.fin p (c.draw p ((e0 + i) % z.per) ((e0 + i) / z.per)) (vFpOp w.major sub (field w.s2 0 32) p.rdn e.2.1 e.2.2.1 e.2.2.2)
    else (0, 0)
  let l := act.zip (a.zip (b.zip d))
  let r := (List.range l.length).zip l |>.map fun e => one e.1 e.2
  vFinish t w x z act (vSrcs w x z) (r.map (·.1))
  return orAll (r.map (·.2))

/-- VTWOSUM and VTWOPROD (R202). -/
def vDoTwo (g t : Nat) (w : IWord) (x : Work) (z : VShape) : M Nat := do
  let e0 := x.arg 1
  let lim := x.arg 2
  let act := (← get).vActive t w e0 lim
  let f := vFmt (vET w)
  let a ← vReadF g t f w.m1 w.s1 (x.seg 1) z.wa e0 lim
  let b ← vReadF g t f w.m2 w.s2 (x.seg 2) z.wb e0 lim
  let r := (zip3 act a b).map fun e => if e.1 then twoOp f (w.sub4 = 1) e.2.1 e.2.2 else (0, 0, 0)
  let wy : IWord := { w with sd := BitVec.ofNat 32 (field w.sd 0 5 + x.arg 3) }
  let free := unspecified act (vWrites w act) (vSrcs w x z) (max 1 (z.wd / 8))
    [vDsts w (x.seg 0) z e0 lim, vDsts w (x.seg 3) z e0 lim]
  vPut t w (x.seg 0) z e0 act free (r.map (·.1))
  vPut t (if w.md = 13 then wy else w) (x.seg 3) z e0 act free (r.map fun e => e.2.1)
  return orAll (r.map fun e => e.2.2)

/-- VCVT (R203); bits [31:14] of its immediate have no meaning (DESIGN CHOICE, log entry 157). -/
def vDoCvt (g t : Nat) (w : IWord) (x : Work) (z : VShape) : M Nat := do
  let e0 := x.arg 1
  let lim := x.arg 2
  let act := (← get).vActive t w e0 lim
  let df := field w.s2 0 4
  let sf := field w.s2 4 4
  let p ← rnd (x.arg 4)
  let c ← engCtx 1 (x.arg 5) (x.arg 6)
  let a ← vRead g t w.m1 w.s1 (x.seg 1) z.wa e0 lim
  let val (v : Nat) : Val := match sf with
    | 0x8 => .ofInt (sInt 8 v)
    | 0xB => .ofInt (sInt 4 v)
    | 0xD => .ofInt (sInt 32 v)
    | sf => (fmtOf sf).decode v
  let l := (List.range act.length).zip (act.zip (a.map val))
  let r := l.map fun e =>
    if e.2.1 then codeFrom sf df p (c.draw p ((e0 + e.1) % z.per) ((e0 + e.1) / z.per)) e.2.2 else (0, 0)
  vFinish t w x z act (vSrcs w x z) (r.map (·.1))
  tally (field w.s2 8 6) (telOf sf df
    (((l.zip r).filter fun e => e.1.2.1).foldl (fun m e => m.plus (Tel.elem e.1.2.2 e.2.2 false)) Tel.none))
  return orAll (r.map (·.2))

/-- The source position that each element of a permute reads, none for an element that is 0 or is not computed (R205). -/
def permPos (sub n sh : Nat) (act : List Bool) (b : List Nat) : List (Option Nat) :=
  let at_ (i : Nat) : Option Nat := if i < n then some i else none
  let idx := List.range n
  let on (f : Nat → Option Nat) : List (Option Nat) := (idx.zip act).map fun e => if e.2 then f e.1 else none
  match sub with
  | 0 => on fun e => at_ (b.getD e 0)
  | 1 => on fun e => if e < sh then none else some (e - sh)
  | 2 => on fun e => at_ (e + sh)
  | 3 =>
    let l := (idx.zip act).filterMap fun e => if e.2 then some (some e.1) else none
    l ++ List.replicate (n - l.length) none
  | 4 => on fun e => at_ ((act.take e).filter id).length
  | _ => on fun e => some (n - 1 - e)

/-- The elements of a permute's source at its positions; 0 where it reads none. Of memory nothing else is read (R205). -/
def vReadAt (g t : Nat) (w : IWord) (l : List Seg) (z : VShape) (pos : List (Option Nat)) : M (List Nat) := do
  if memModes.contains w.m1 then
    mapAll pos fun o => match o with
      | none => return 0
      | some i => do return ofLE (← heartTake (cutSegs l (i * (z.wa / 8)) (z.wa / 8)))
  else
    let a := (← vRead g t w.m1 w.s1 l z.wa 0 z.n).toArray
    return pos.map fun o => match o with | some i => a.getD i 0 | none => 0

/-- The positions that the elements of a permute read. -/
def vPositions (g t : Nat) (w : IWord) (x : Work) (z : VShape) : M (List (Option Nat)) := do
  let act := (← get).vActive t w 0 z.n
  let b ← if w.m2 = 0 then pure [] else vRead g t w.m2 w.s2 (x.seg 2) z.wb 0 z.n
  return permPos w.sub4 z.n (if w.m2 = 1 then w.s2.toNat else b.headD 0) act b

/-- VPERM, slides, VCOMPRESS, VEXPAND and VREV (R205), from the positions that their elements read. -/
def vDoPerm (g t : Nat) (w : IWord) (x : Work) (z : VShape) (pos : List (Option Nat)) : M Nat := do
  let n := z.n
  let act := (← get).vActive t w 0 n
  let vals ← vReadAt g t w (x.seg 1) z pos
  let srcs := (if memModes.contains w.m1 then [readsAt (x.seg 1) z.wa n pos] else [])
    ++ if memModes.contains w.m2 then [ownReads (x.seg 2) z.wb 0 n] else []
  vFinish t w x z (if w.sub4 = 3 then List.replicate n true else act) srcs vals
  return 0

/-- Values of one element per place, in order; an inactive place gives 0. -/
def vReadEach (ew : Nat) (l : List Seg) : M (List Nat) :=
  mapAll l fun g => do return ofLE (← heartTake [g]) % 2 ^ ew

/-- The address of an element's own place; none for an inactive one. -/
def eachAddr (g : Seg) : Option Nat := if g.n = 0 then none else some g.pa

/-- VLDS, VSTS, VGATHER and VSCATTER: one place per element; a scatter goes in ascending order (R206). -/
def vDoEach (g t : Nat) (w : IWord) (x : Work) (z : VShape) : M Nat := do
  let e0 := x.arg 1
  let lim := x.arg 2
  let act := (← get).vActive t w e0 lim
  let index := if memModes.contains w.m2 then [ownReads (x.seg 2) z.wb e0 lim] else []
  if w.major = 0x85 ∨ (w.major = 0x83 ∧ w.sub4 = 1) then
    let a ← vReadEach z.wa (x.seg 1)
    vFinish t w x z act ((z.wa / 8, (x.seg 1).map eachAddr) :: index) a
  else
    let a ← vRead g t w.m1 w.s1 (x.seg 1) z.wa e0 lim
    let src := if memModes.contains w.m1 then [ownReads (x.seg 1) z.wa e0 lim] else []
    let writes := ((vWrites w act).zip (x.seg 0)).map fun e => e.1 && e.2.n != 0
    let free := unspecified act writes (src ++ index) (z.wd / 8) [(x.seg 0).map Seg.pa]
    let outs ← freeClash z.wd free ((act.zip a).map fun e => masked (vZM w) e.1 e.2)
    forAll ((x.seg 0).zip outs) fun e => if e.1.n = 0 then skip else heartWrite [e.1] (elemOut z.wd [e.2])
  return 0

/-- Integer reductions (R204). -/
def vIntRed (sub ew : Nat) (l : List Nat) : Nat :=
  match sub with
  | 0 => l.foldl (fun m v => (m + v) % 2 ^ ew) 0
  | 1 => l.foldl (fun m v => if sInt ew v < sInt ew m then v else m) (2 ^ (ew - 1) - 1)
  | 2 => l.foldl (fun m v => if sInt ew m < sInt ew v then v else m) (2 ^ (ew - 1))
  | 3 => l.foldl min (2 ^ ew - 1)
  | 4 => l.foldl max 0
  | 5 => l.foldl (· &&& ·) (2 ^ ew - 1)
  | 6 => l.foldl (· ||| ·) 0
  | _ => l.foldl (· ^^^ ·) 0

/-- One pass of VFRSUM over pairs of neighbours: the sums, conditions, and draws used up (R204). -/
def frPass (f : Fmt) (p : Rnd) (c : SrCtx) : Nat → List (Option Nat) → List (Option Nat) × Nat × Nat
  | d, a :: b :: r =>
    match a, b with
    | some x, some y =>
      let (v, k) := f.fin p (c.draw p 0 d) ((f.decode x).add p.rdn (f.decode y))
      let (l, m, e) := frPass f p c (d + 1) r
      (some v :: l, k ||| m, e)
    | a, b =>
      let (l, m, e) := frPass f p c d r
      (a.or b :: l, m, e)
  | d, l => (l, 0, d)

/-- VFRSUM: passes until one element is left. -/
def frSum (f : Fmt) (p : Rnd) (c : SrCtx) : Nat → Nat → List (Option Nat) → Option Nat × Nat
  | 0, _, l => (l.headD none, 0)
  | k + 1, d, l =>
    if l.length ≤ 1 then (l.headD none, 0)
    else
      let (m, x, e) := frPass f p c d l
      let (r, y) := frSum f p c k e m
      (r, x ||| y)

/-- Floating-point minimum, maximum, or maximum magnitude of active elements (R204). -/
def frFold (f : Fmt) (sub : Nat) (l : List Val) : Nat × Nat :=
  let l := if sub = 2 then l.map Val.abs else l
  match l with
  | [] => (if sub = 2 then 0 else f.qnan, 0)
  | v :: r =>
    let m := r.foldl (fun (m : Val) v => if sub = 0 then (m.min v).1 else (m.max v).1) v
    ((f.encode rne 0 (match m with | .nan _ => .nan false | m => m)).1, sigs l)

/-- Reductions into one element. A NaN that VFRSUM leaves alone becomes the canonical one (R79). The result is unspecified where
an element other than its own reads a byte of it (R207). -/
def vDoRed (g t : Nat) (w : IWord) (x : Work) (z : VShape) : M Nat := do
  let n := z.n
  let act := (← get).vActive t w 0 n
  let a ← vRead g t w.m1 w.s1 (x.seg 1) z.wa 0 n
  let live := ((act.zip a).filter fun e => e.1).map (·.2)
  let f := vFmt (vET w)
  let (v, k) ← (if w.major = 0x91 then pure (vIntRed w.sub4 z.wa live, 0)
    else if w.major = 0x92 then do
      let p ← rnd (x.arg 4)
      let c ← engCtx 1 (x.arg 5) (x.arg 6)
      let (r, k) := frSum f p c 16 0 ((act.zip a).map fun e => if e.1 then some e.2 else none)
      pure (match f.decode (r.getD 0) with | .nan sg => (f.qnan, k ||| if sg then cIV else 0) | _ => (r.getD 0, k))
    else pure (frFold f w.sub4 (live.map f.decode)) : M (Nat × Nat))
  let srcs := if memModes.contains w.m1 then [ownReads (x.seg 1) z.wa 0 n] else []
  let clash := unspecified act [true] srcs (max 1 (z.wd / 8)) [vDsts w (x.seg 0) z 0 1]
  vWrite t w.md w.sd (x.seg 0) z.wd 0 (← freeClash z.wd [clash.any id] [some v])
  return k

/-- The bytes that places cover, by address. -/
def segAddrs (l : List Seg) : List Nat := l.flatMap fun g => (List.range g.n).map (· + g.pa)

/-- Mask instructions (R198). MMOV moves whole bytes into a mask register too (DESIGN CHOICE, log entry 155); a byte of memory that
it reads and writes holds eight elements, whose values are unspecified (R207). -/
def vDoMask (t : Nat) (w : IWord) (x : Work) (z : VShape) : M Nat := do
  let n := z.n
  let s ← get
  let get (mode : Nat) (v : W32) (cnt : Nat) (l : List Seg) : M (List Bool) := do
    if mode = 14 then return s.maskBits t (field v 0 3) 0 cnt
    else
      let b := (← heartTake l).toArray
      return (List.range cnt).map fun i => (b.getD (i / 8) 0).getLsbD (i % 8)
  let m := field w.sd 0 3
  let two (f : Bool → Bool → Bool) : M Unit := do
    let a ← get w.m1 w.s1 n (x.seg 1)
    let b ← get w.m2 w.s2 n (x.seg 2)
    putMask t m ((a.zip b).map fun e => some (f e.1 e.2))
  match w.sub4 with
  | 0 => two fun a b => a && b
  | 1 => two fun a b => a || b
  | 2 => two fun a b => a != b
  | 3 => two fun a b => a && !b
  | 4 => putMask t m ((← get w.m1 w.s1 n (x.seg 1)).map fun a => some !a)
  | 5 => putMask t m ((List.range 32768).map fun i => some (decide (i < n)))
  | 6 =>
    let a ← get w.m1 w.s1 n (x.seg 1)
    heartPut (x.seg 0) (toLE (a.filter id).length 4) false
  | 7 =>
    let a ← get w.m1 w.s1 n (x.seg 1)
    heartPut (x.seg 0) (toLE ((a.findIdx? id).getD 0xFFFF_FFFF) 4) false
  | _ =>
    let cnt := min 32768 ((n + 7) / 8 * 8)
    let a ← get w.m1 w.s1 cnt (x.seg 1)
    if w.md = 14 then putMask t m (a.map some)
    else
      let dst := segAddrs (x.seg 0)
      let free := if w.m1 = 14 then [] else (segAddrs (x.seg 1)).map dst.contains
      let bs := (toLE (packElems 1 0 (a.map fun b => some (b2n b))) (cnt / 8)).map fun b => some b.toNat
      heartPut (x.seg 0) ((← freeClash 8 free bs).map fun o => BitVec.ofNat 8 (o.getD 0)) false
  return 0

/-- Operation occupancy of a member (Table: Vector timing); of a reduction that of the whole instruction comes after it. -/
def vOccupancy (w : IWord) (z : VShape) (vg : Nat) : Nat :=
  match w.major with
  | 0x89 => if w.sub1 = 1 then (if z.wd = 64 then 16 else 8) else 1
  | 0x8B => if z.wd = 64 then 16 else 8
  | 0x8D => if w.sub4 = 1 then 2 else 1
  | 0x8E => 4
  | 0x84 => if w.sub4 = 0 then vg else 2
  | _ => 1

/-- Heartwood lines that elements a to b of a contiguous operand from element e0 on touch. -/
def memLines (l : List Seg) (ew e0 a b : Nat) : Nat :=
  ((cutSegs l (a * ew / 8 - e0 * ew / 8) (vBytes b ew - a * ew / 8)).flatMap fun g => linesOf g.pa g.n).eraseDups.length

/-- Heartwood lines that elements a to b of a permute read of a memory source, each at its position (R205). -/
def permLines (l : List Seg) (ew : Nat) (pos : List (Option Nat)) (a b : Nat) : Nat :=
  ((((pos.drop a).take (b - a)).filterMap id).flatMap fun i =>
    (cutSegs l (i * (ew / 8)) (ew / 8)).flatMap fun g => linesOf g.pa g.n).eraseDups.length

/-- The heartwood line of a BCST operand, which each member reads (R212; log entry 158). -/
def bcstLines (l : List Seg) : Nat := (l.filter fun g => heartBase ≤ g.pa && g.pa < heartOf 64).length

/-- Heartwood lines that a member of elements a to b reads or writes: of a gather or scatter the separate lines of its elements,
of a permute's source those at its positions, of other memory operands the lines of each, and of a destination that is read too
twice (R212). -/
def vLines (w : IWord) (z : VShape) (x : Work) (pos : List (Option Nat)) (a b : Nat) : Nat :=
  let e0 := x.arg 1
  let each (i : Nat) : Nat := ((((x.seg i).drop (a - e0)).take (b - a)).flatMap fun g => linesOf g.pa g.n).eraseDups.length
  let gather := w.major = 0x85 || (w.major = 0x83 && w.sub4 = 1)
  let scatter := w.major = 0x86 || (w.major = 0x83 && w.sub4 = 2)
  (if scatter then each 0 else if memModes.contains w.md then
      memLines (x.seg 0) z.wd e0 a b * (if z.rw then 2 else 1) + memLines (x.seg 3) z.wd e0 a b else 0)
    + (if gather then each 1 else if w.m1 = 15 then bcstLines (x.seg 1) else if ¬ memModes.contains w.m1 then 0
      else if w.major = 0x84 then permLines (x.seg 1) z.wa pos a b else memLines (x.seg 1) z.wa e0 a b)
    + (if w.m2 = 15 then bcstLines (x.seg 2) else if memModes.contains w.m2 then memLines (x.seg 2) z.wb e0 a b else 0)

/-- ACLK in which the datapath is occupied by an instruction (R212, Table: Vector timing); of a permute with the positions that its
elements read. -/
def vPasses (w : IWord) (z : VShape) (x : Work) (pos : List (Option Nat)) : Nat :=
  let e0 := x.arg 1
  let lim := x.arg 2
  let vg := x.arg 3
  let ms := (List.range ((lim + z.per - 1) / z.per)).drop (e0 / z.per)
  let per := ms.map fun i =>
    max (vOccupancy w z vg) ((vLines w z x pos (max e0 (i * z.per)) (min lim ((i + 1) * z.per)) + 15) / 16)
  let lg := Nat.log2 (2 * z.n - 1)
  match w.major with
  | 0x91 => max (vg + 4) per.sum
  | 0x92 => max (vg + lg) per.sum
  | 0x93 => max (vg + lg) per.sum
  | _ => per.sum

/-- The vector unit performs an instruction's work; conditions found. -/
def vecDo (t : Nat) (w : IWord) (x : Work) : M Nat := do
  let g := t / 8
  let z := { vecShape w (x.arg 0) (x.arg 3) with n := x.arg 0 }
  if x.arg 0 = 0 then return 0
  else
    let pos ← if w.major = 0x84 then vPositions g t w x z else pure []
    modify fun s => s.addFld (.vuPasses t) 0 48 (vPasses w z x pos)
    match w.major with
    | 0x82 => vDoCmp g t w x z
    | 0x8F => vDoCmp g t w x z
    | 0x83 => if w.sub4 = 1 ∨ w.sub4 = 2 then vDoEach g t w x z else vDoInt g t w x z
    | 0x84 => vDoPerm g t w x z pos
    | 0x85 => vDoEach g t w x z
    | 0x86 => vDoEach g t w x z
    | 0x87 => vDoMask t w x z
    | 0x8D => vDoTwo g t w x z
    | 0x90 => vDoCvt g t w x z
    | 0x91 => vDoRed g t w x z
    | 0x92 => vDoRed g t w x z
    | 0x93 => vDoRed g t w x z
    | m => if m < 0x82 then vDoInt g t w x z else vDoFp g t w x z

/-- The slots of a vector instruction (R198). -/
def vecSlots (w : IWord) : Slots :=
  let m := w.major
  let sub := w.sub4
  if m = 0x80 then ⟨vDst, vSrc, if sub ≤ 8 then vSrcI else noSlot⟩
  else if m = 0x81 then ⟨vDst, vSrc, if sub = 4 ∨ 8 ≤ sub then noSlot else vSrcI⟩
  else if m = 0x82 then ⟨vMreg, vSrc, vSrcI⟩
  else if m = 0x83 then
    match sub with
    | 0 => ⟨vDst, vSrcI, noSlot⟩
    | 1 => ⟨vDst, vMem, vImmB⟩
    | 2 => ⟨vMem, vSrc, vImmB⟩
    | _ => ⟨vDst, noSlot, noSlot⟩
  else if m = 0x84 then ⟨vDst, vSrc, if sub = 0 then vSrc else if sub ≤ 2 then vImmB else noSlot⟩
  else if m = 0x85 then ⟨vDst, vMem, vSrc⟩
  else if m = 0x86 then ⟨vMem, vSrc, vSrc⟩
  else if m = 0x87 then
    match sub with
    | 4 => ⟨vMreg, vMreg, noSlot⟩
    | 5 => ⟨vMreg, noSlot, noSlot⟩
    | 6 => ⟨vMem, vMreg, noSlot⟩
    | 7 => ⟨vMem, vMreg, noSlot⟩
    | 8 => ⟨vMaskMem, vMaskMem, noSlot⟩
    | _ => ⟨vMreg, vMreg, vMreg⟩
  else if m ≤ 0x8A then ⟨vDst, vSrcI, vSrcI⟩
  else if m = 0x8B then ⟨vDst, vSrc, noSlot⟩
  else if m = 0x8C then ⟨vDst, vSrc, if sub ≤ 1 then vSrcI else noSlot⟩
  else if m = 0x8D then ⟨vDst, vSrc, vSrcI⟩
  else if m = 0x8E then ⟨vDst, vSrc, vImm⟩
  else if m = 0x8F then ⟨vMreg, vSrc, vSrcI⟩
  else if m = 0x90 then ⟨vDst, vSrc, vImm⟩
  else ⟨vDst, vSrc, noSlot⟩

/-- A vector major that carries RM (R193). -/
def vecRounds (m : Nat) : Bool := (0x88 ≤ m && m ≤ 0x8B) || m = 0x8E || m = 0x90 || m = 0x92

/-- The encoding is one of the tables (R195, R198, R199, R203, R205, R206). -/
def vecLegal (w : IWord) : Bool :=
  let m := w.major
  let sub := w.sub4
  if m = 0x80 then sub ≤ 10 && vInt w 0
  else if m = 0x81 then sub ≤ 9 && vInt w 0
  else if m = 0x82 then sub ≤ 9 && vInt w 0
  else if m = 0x83 then sub ≤ 3 && vInt w 1
  else if m = 0x84 then sub ≤ 5 && vInt w 1 && (vME w || !(sub = 3 || sub = 4))
  else if m ≤ 0x86 then sub ≤ 1 && vInt w 2
  else if m = 0x87 then sub ≤ 8 && vMaskIns w
  else if m ≤ 0x8A then vFp w && vRm w
  else if m = 0x8B then w.sub1 = 0 && vFp w && vRm w
  else if m = 0x8C then sub ≤ 3 && vFp w
  else if m = 0x8D then sub ≤ 1 && vFp w
  else if m = 0x8E then w.sub1 = 0 && vFp w && vRm w
  else if m = 0x8F then sub ≤ 7 && vFp w
  else if m = 0x90 then w.sub1 = 0 && vMaskOk w && vET w = 0 && vRm w
  else if m = 0x91 then sub ≤ 7 && vInt w 1
  else if m = 0x92 then w.sub1 = 0 && vFp w && vRm w
  else m = 0x93 && sub ≤ 2 && vFp w

/-- An FP32 immediate is exact in a format (R194); a NaN counts as exact (DESIGN CHOICE, log entry 154). -/
def immExact (f : Fmt) (x : W32) : Bool :=
  match Fmt.fp32.decode x.toNat with
  | .nan _ => true
  | v => (f.encode rne 0 v).2 = 0

/-- The operands are legal: group numbers, immediates, format and function codes (R194, R201-R203). -/
def vecOperandOk (w : IWord) (z : VShape) (vg : Nat) : Bool :=
  let m := w.major
  let grp (mode : Nat) (x : W32) (g : Nat) : Bool := mode != 13 || field x 0 5 % g = 0
  let imm (mode : Nat) (x : W32) : Bool := mode != 1 || immExact (vFmt (vET w)) x
  let fp := 0x88 ≤ m && m ≤ 0x8F
  grp w.md w.sd z.gd && grp w.m1 w.s1 z.ga && grp w.m2 w.s2 z.gb
    && (!fp || imm w.m1 w.s1)
    && (!fp || m = 0x8E || imm w.m2 w.s2)
    && (m != 0x8E || w.s2.toNat ≤ 5)
    && (m != 0x90 || (vCvtCode (field w.s2 0 4) && vCvtCode (field w.s2 4 4)))
    && (m != 0x8D || w.md != 13 || field w.sd 0 5 + vg ≤ 31)

/-- A fault of a vector instruction: resumable when it goes element by element and its fault lies with an element (R209,
R414). -/
def Stop.atElem (elem : Bool) : Stop → Stop
  | .exc v c i i2 _ => .exc v c i i2 (elem && v != vOperand && v != vIllegal)
  | e => e

/-- The parts of an operand that lie in the tree's own heartwood, as footprints. -/
def vFoot (t : Nat) (o : Opnd) (l : List Seg) : M (List Footprint) :=
  opFp t o (l.filter fun g => g.n != 0 && heartOf t ≤ g.pa && g.pa < heartOf (t + 1))

/-- The element places of a strided transfer, a gather or a scatter: an operand for each active element. Strides, indices and
the mask are read at issue, behind the instructions that write them. An immediate stride is a signed 32-bit count of bytes (DESIGN
CHOICE, log entry 156). -/
def vElems (k : Nat) (w : IWord) (z : VShape) (o : Opnds) (e0 n : Nat) : M (List (Option Opnd)) := do
  let s ← get
  let g := k / 32
  let t := k / 4
  let base := if w.major = 0x85 ∨ (w.major = 0x83 ∧ w.sub4 = 1) then o.a else o.d
  let l ← (match o.b with
    | .bcst _ => do
      match ← vWalk k .read o.b z.wb 0 1 with
      | (_, some (_, x)) => throw x
      | (l, none) => pure l
    | .mem _ _ => walkAll k .read (o.b.shift (e0 * z.wb / 8 : Nat)) (vBytes n z.wb - e0 * z.wb / 8)
    | .claim _ _ => walkAll k .read (o.b.shift (e0 * z.wb / 8 : Nat)) (vBytes n z.wb - e0 * z.wb / 8)
    | _ => pure [] : M (List Seg))
  let x : Work := { Work.none 0 with
    reads := mergeFp (← vFoot t o.b l)
    regsR := vBits o.b z.gb ||| if vME w then 1 <<< (40 + vMK w) else 0 }
  if blocked (s.before k) k w x then throw (.hold .issue)
  else if w.major = 0x83 then
    let d : Int ← (if w.m2 = 1 then pure (sInt 32 w.s2.toNat) else do
      return sInt z.wb ((← vRead g t w.m2 w.s2 l z.wb 0 1).headD 0) : M Int)
    return (List.range (n - e0)).map fun i => some (base.shift (d * (e0 + i : Nat)))
  else
    let ix ← vRead g t w.m2 w.s2 l z.wb e0 n
    let sc : Int := if w.sub4 = 0 then (z.wd / 8 : Nat) else 1
    return ((s.vActive t w e0 n).zip ix).map fun e => if e.1 then some (base.shift (sInt z.wb e.2 * sc)) else none

/-- Check the operands in ascending element order (R210): places of d, a and b, and of the second result of VTWOSUM; the
first element that cannot be done; and its fault. -/
def vecCheck (k : Nat) (w : IWord) (z : VShape) (o : Opnds) (e0 : Nat) : M (List (List Seg) × Nat × Option Stop) := do
  let n := z.n
  let m := w.major
  let pick (lim : Nat) (f : Option Stop) (r : Option (Nat × Stop)) : Nat × Option Stop := match r with
    | none => (lim, f)
    | some (e, x) => if e < lim then (e, some x) else (lim, f)
  let gather := m = 0x85 || (m = 0x83 && w.sub4 = 1)
  let scatter := m = 0x86 || (m = 0x83 && w.sub4 = 2)
  -- a wait of these stops at the member's boundary (R211)
  let pick (lim : Nat) (f : Option Stop) (r : Option (Nat × Stop)) : Nat × Option Stop := match r with
    | some (e, .hold h) => pick lim f (some (max e0 (e / z.per * z.per), .hold h))
    | r => pick lim f r
  if gather ∨ scatter then
    let (bs, fb) ← vWalk k .read o.b z.wb e0 n
    let (lim, f) := pick n none fb
    let el ← vElems k w { z with n := lim } o e0 lim
    let (es, fe) ← vWalkEach k (if gather then .read else .write) z.wd e0 el
    let (lim, f) := pick lim f fe
    let (os, fo) ← if gather then vWalk k .write o.d z.wd e0 lim else vWalk k .read o.a z.wa e0 lim
    let (lim, f) := pick lim f fo
    let es := es.take (lim - e0)
    return (if gather then [os, es, bs, []] else [es, os, bs, []], lim, f)
  else
    let (as, fa) ← vWalk k .read o.a z.wa e0 n
    let (lim, f) := pick n none fa
    let (bs, fb) ← vWalk k .read o.b z.wb e0 lim
    let (lim, f) := pick lim f fb
    let one := 0x91 ≤ m && m ≤ 0x93
    let four := m = 0x87 && (w.sub4 = 6 || w.sub4 = 7)
    let (ds, fd) ← (if four then vWalk k .write o.d 8 0 4
      else vWalk k .write o.d z.wd e0 (if one then 1 else lim) : M (List Seg × Option (Nat × Stop)))
    let (lim, f) := pick lim f (fd.map fun x => (if one || four then 0 else x.1, x.2))
    let (es, fe) ← (if z.two ∧ w.md ≠ 13 then vWalk k .write (o.d.shift (vBytes n z.wd)) z.wd e0 lim
      else pure ([], none) : M (List Seg × Option (Nat × Stop)))
    let (lim, f) := pick lim f fe
    return ([ds, as, bs, es], lim, f)

/-- A vector instruction at issue (R196, R209, R210). POSTINC and PREDEC step by vl_eff elements, of a reduction's one element
too; an element of a mask instruction is a bit (R194; log entry 131). -/
def vecPrep (k : Nat) (w : IWord) : M Prep := do
  let s ← get
  let t := k / 4
  let vl := (s.reg (thr k 0x15)).toNat
  let vg := (s.reg (thr k 0x16)).toNat
  let e0 := (s.reg (thr k 0x17)).toNat
  let rm := rmOf (s.flags k) w.rm
  let sr := vecRounds w.major && rm = 4
  let (lt, st) ← sampleSr k
  let z := vecShape w vl vg
  if vl = 0 ∨ z.n = 0 ∧ vecOperandOk w z vg then
    return ⟨{ Work.none 0 with args := vArgs 0 0 0 vg rm lt st }, s.ptrs k, [], sr, none⟩
  else if ¬ vecOperandOk w z vg ∨ (if z.elem then z.n ≤ e0 else e0 ≠ 0) then throw (fltWord w vOperand 0)
  else
    tryCatch (do
      let o ← compute k w (vBytes z.n z.wd) (vBytes z.n z.wa) (vBytes z.n z.wb) 1 0
      let (segs, lim, f) ← vecCheck k w z o e0
      let each := w.major = 0x85 || w.major = 0x86 || (w.major = 0x83 && (w.sub4 = 1 || w.sub4 = 2))
      match f with
      | some x => whenM (!z.elem || (x.waits && !(each && decide (e0 < lim)))) (throw x)
      | none => skip
      let cut (i w : Nat) : List Seg := takeSegs (segs.getD i []) (vBytes lim w - e0 * w / 8)
      let segs := if f.isSome ∧ ¬ each ∧ z.elem then
          [cut 0 z.wd, if w.m1 = 15 then segs.getD 1 [] else cut 1 z.wa, if w.m2 = 15 then segs.getD 2 [] else cut 2 z.wb,
            cut 3 z.wd]
        else segs
      let gt (i : Nat) : List Seg := segs.getD i []
      let fd ← vFoot t o.d (gt 0 ++ gt 3)
      let fa ← vFoot t o.a (gt 1)
      let fb ← vFoot t o.b (gt 2)
      let work : Work := { Work.none 0 with
        reads := mergeFp (fa ++ fb ++ if z.rw then fd else [])
        writes := mergeFp fd
        regsR := (if vME w then 1 <<< (40 + vMK w) else 0) ||| vBits o.a z.ga ||| vBits o.b z.gb
          ||| if z.rw then vBits o.d z.gd else 0
        regsW := vBits o.d z.gd ||| if z.two then vBits o.d z.gd <<< vg else 0
        claims := opClaims [o.d, o.a, o.b]
        args := vArgs z.n e0 lim vg rm lt st
        segs := segs }
      return ⟨work, o.p, if f.isSome then [] else [(0x17, 0)], sr, f.map fun x => (0x17, lim, x.atElem true)⟩) fun e =>
      throw (e.atElem z.elem)

end Sys2Proof.Machine
end

