-- ==== Sys2Proof/Machine/Stream.lean ====
section
/-! DEFINITION. The stream engine: programs and their checks, streams, micro-ops, loads and stores with their conversions
(R215-R231). -/

namespace Sys2Proof.Machine

/-- A stream record (Table: Stream record). -/
structure Strm where
  kind : Nat
  fmt : Nat
  amode : Nat
  tag : Nat
  soff : Nat
  addr : Nat
  deriving DecidableEq, Repr

/-- A micro-op (Table: Micro-op word). -/
structure Uop where
  op : Nat
  d : Nat
  a : Nat
  b : Nat
  c : Nat
  rm : Nat
  rsv : Nat
  imm : Nat
  deriving DecidableEq, Repr

/-- NUOP of a program. -/
def progUops (b : List Byte) : Nat := leAt b 0 1 % 64
/-- NSTR of a program. -/
def progStrs (b : List Byte) : Nat := leAt b 1 1 % 16

/-- Stream record i of a program. -/
def strmAt (b : List Byte) (i : Nat) : Strm :=
  let o := 8 + 16 * i
  ⟨leAt b o 1, leAt b (o + 1) 1, leAt b (o + 2) 1, leAt b (o + 3) 1, leAt b (o + 4) 4, leAt b (o + 8) 8⟩

/-- Micro-op i of a program. -/
def uopAt (b : List Byte) (i : Nat) : Uop :=
  let o := 8 + 16 * progStrs b + 8 * i
  let w := leAt b o 4
  ⟨w % 256, w / 2 ^ 8 % 16, w / 2 ^ 12 % 16, w / 2 ^ 16 % 16, w / 2 ^ 20 % 16, w / 2 ^ 24 % 8, w / 2 ^ 27, leAt b (o + 4) 4⟩

/-- The streams of a program. -/
def strmsOf (b : List Byte) : List Strm := (List.range (progStrs b)).map (strmAt b)
/-- The micro-ops of a program. -/
def uopsOf (b : List Byte) : List Uop := (List.range (progUops b)).map (uopAt b)

/-- Bytes of a program. -/
def progLen (h : List Byte) : Nat := 8 + 16 * progStrs h + 8 * progUops h

/-- A header is well formed (STREAM 0x01). -/
def progHeaderOk (h : List Byte) : Bool :=
  let v := leAt h 0 8
  1 ≤ progUops h && progUops h ≤ 32 && 1 ≤ progStrs h && progStrs h ≤ 8 && v / 64 % 4 = 0 && v / 4096 = 0

/-- A format with side arrays (Table: Stream formats). -/
def sided (c : Nat) : Bool := isMx c || c = 0xC

/-- A record is well formed (STREAM 0x02). -/
def Strm.ok (x : Strm) : Bool :=
  let m := x.amode % 4
  let r := x.amode / 4
  x.kind ≤ 2 && x.fmt < 16 && m ≤ 2 && (m != 0 || r = 0) && (m != 1 || r ≤ 15) && x.tag < 64 && (x.kind = 1 || x.tag = 0)
    && (if x.kind = 2 then [1, 2, 3, 0xD].contains x.fmt else [1, 2, 3, 4, 5, 8, 0xD, 0xB, 6, 7, 9, 0xA, 0xC].contains x.fmt)
    && (sided x.fmt || x.soff = 0)

/-- A micro-op code of Table: Micro-ops. -/
def uopKnown (o : Nat) : Bool := (1 ≤ o && o ≤ 4) || (0x10 ≤ o && o ≤ 0x1E) || (0x20 ≤ o && o ≤ 0x26)

/-- A micro-op is well formed (STREAM 0x03). -/
def Uop.ok (st : List Strm) (u : Uop) : Bool :=
  let s := u.imm % 8
  let kind := (st.getD s ⟨3, 0, 0, 0, 0, 0⟩).kind
  uopKnown u.op && (u.rm ≤ 4 || u.rm = 7) && u.rsv = 0 && (u.op != 1 || (s < st.length && kind != 1))
    && (u.op != 2 || (s < st.length && kind = 1)) && (u.op != 0x1E || u.d != 15) && (u.op != 0x1B || u.imm ≤ 5)
    && (u.op != 0x1C || u.imm ≤ 7)

/-- The block of a format of a stream: 32, 64 or 1. -/
def strmBlock (c : Nat) : Nat := if isMx c then 32 else if c = 0xC then 64 else 1

/-- Blocks that hold both active and inactive elements. -/
def mixedBlock (blk : Nat) (act : List Bool) : Bool :=
  (blocks blk act.length act).any fun b => b.contains true && b.contains false

/-- The first failing check after the header: code, micro-op, stream (Table: Stream fault codes). -/
def progCheck (b : List Byte) (n : Nat) (fixed : Bool) (act : List Bool) : Option (Nat × Nat × Nat) :=
  let st := strmsOf b
  let us := uopsOf b
  match st.findIdx? fun x => !x.ok with
  | some i => some (2, 0, i)
  | none =>
    match us.findIdx? fun u => !u.ok st with
    | some i => some (3, i, 0)
    | none =>
      let stores (i : Nat) := (us.filter fun u => u.op = 2 && u.imm % 8 = i).length
      let find (p : Nat → Strm → Bool) : Option Nat := (List.range st.length).find? fun i => p i (st.getD i ⟨3, 0, 0, 0, 0, 0⟩)
      match find fun i x => x.kind = 1 && stores i != 1 with
      | some i => some (4, 0, i)
      | none =>
        match find fun _ x => !fixed && n % strmBlock x.fmt != 0 with
        | some i => some (5, 0, i)
        | none =>
          match find fun _ x => fixed && x.kind = 1 && strmBlock x.fmt != 1 && mixedBlock (strmBlock x.fmt) act with
          | some i => some (6, 0, i)
          | none => none

/-- The base of a stream, with the pointer registers as they stood (R219). -/
def Strm.base (x : Strm) (p : Ptrs) : Opnd :=
  match x.amode % 4 with
  | 0 => .mem x.addr false
  | 1 => .mem (wrap 64 ((p.get (x.amode / 4) : Int) + x.addr)) false
  | _ => .claim (x.amode / 4) x.addr

/-- Elements that a stream covers. -/
def Strm.count (x : Strm) (n : Nat) : Nat := if x.kind = 2 then 1 else n

/-- Check a stream: alignment, and every byte of its elements and side arrays (R219): places of both. -/
def strmWalk (k n : Nat) (p : Ptrs) (x : Strm) : M (List Seg × List Seg) := do
  let o := x.base p
  let c := x.count n
  let side := o.shift (sInt 32 x.soff)
  let es := codeBits x.fmt / 8
  let wide := x.fmt ≤ 3 || x.fmt = 0xD
  let u : Use := if x.kind = 1 then .write else .read
  if wide ∧ o.at % es ≠ 0 then throw (flt vAlign 0 (← opAddr k o) (b2n u.writes))
  else if (x.fmt = 0xC ∨ x.fmt = 0xA) ∧ (side.at + if x.fmt = 0xA then up8 (n / 32) else 0) % 2 ≠ 0 then
    throw (flt vAlign 0 (← opAddr k side) (b2n u.writes))
  else
    let l ← walkAll k u o (elemBytes x.fmt c)
    let m ← if sided x.fmt then walkAll k (if x.fmt = 0xC then .read else u) side (sideBytes x.fmt c) else pure []
    return (l, m)

/-- The effective rounding mode of a micro-op, with the instruction's resolved mode (R221). -/
def Uop.mode (u : Uop) (rm : Nat) : Nat := if u.rm = 7 then rm else u.rm

/-- Sampled values of a stream instruction: n, rounding mode, LTREE, SR_STREAM. -/
def seArgs (n rm lt st : Nat) : List Nat := [n, rm, lt, st]

/-- The slots of a stream instruction. -/
def seSlots (w : IWord) : Slots := ⟨noSlot, vMem, if w.major = 0xC0 then vImm else noSlot⟩

/-- The reserved bits of a stream base word (R217). -/
def seLegal (w : IWord) : Bool :=
  field w.base 16 3 = 0 && !bit w.base 12 && (w.rm ≤ 4 || w.rm = 7)
    && (if w.major = 0xC0 then field w.base 19 5 = 0 else vMaskOk w)

/-- A stream instruction at issue (R216-R219, R227). -/
def sePrep (k : Nat) (w : IWord) : M Prep := do
  let s ← get
  let t := k / 4
  let fixed := w.major = 0xC1
  let n := if fixed then 4096 else w.s2.toNat
  if (s.lmode = 1) ≠ fixed then throw (fltWord w vIllegal 0)
  else if n = 0 ∨ 65535 < n then throw (fltWord w vOperand 0)
  else if vME w ∧ (s.tree t).sb.any (fun e => !e.performed && e.work.regsW.testBit (40 + vMK w)) then throw (.hold .issue)
  else
    let o ← compute k w 0 (Config.operandZ w.major) 0 0 0
    let h ← fetchRaw k o.a 8
    let bad (c u i : Nat) : M Prep := do
      wr (.seFault t) (BitVec.ofNat 64 (c + u <<< 8 + i <<< 13 + (k % 4) <<< 16))
      throw (.exc vStream c ((← get).reg (.seFault t)) 0 false)
    if ¬ progHeaderOk h then bad 1 0 0
    else
      let r ← fetchRaw k (o.a.shift 8) (progLen h - 8)
      let b := h ++ r
      let act := s.vActive t w 0 n
      match progCheck b n fixed act with
      | some (c, u, i) => bad c u i
      | none =>
        if o.a.at % 8 ≠ 0 then throw (flt vAlign 0 (← opAddr k o.a) 0)
        else
          let ss := strmsOf b
          let l ← mapAll ss (strmWalk k n (s.ptrs k))
          let z := ss.zip l
          let foot (p : Strm → Bool) : M (List Footprint) := do
            return (← mapAll (z.filter fun e => p e.1) fun e => opFp t (e.1.base (s.ptrs k)) (e.2.1 ++ e.2.2)).flatten
          let rm := rmOf (s.flags k) w.rm
          let (lt, st) ← sampleSr k
          let x : Work := { Work.none 2 with
            reads := mergeFp (← foot fun e => e.kind != 1 || e.fmt = 0xC)
            writes := mergeFp (← foot fun e => e.kind = 1)
            regsR := if vME w then 1 <<< (40 + vMK w) else 0
            claims := opClaims (o.a :: ss.map fun e => e.base (s.ptrs k))
            args := seArgs n rm lt st
            segs := l.flatMap fun e => [e.1, e.2]
            bytes := b }
          return ⟨x, o.p, [], rm = 4 || (uopsOf b).any (fun u => u.mode rm = 4), none⟩

/-- The bytes of places, each with whether its line is poisoned. -/
def heartMarked : List Seg → M (List (Byte × Bool))
  | [] => return []
  | g :: r => do
    let (b, p) ← if g.n = 0 then pure ([], false) else rawRead g.pa g.n
    return b.map (·, p) ++ (← heartMarked r)

/-- A stream as read: its record, elements and side arrays, and which of their bytes lie in poisoned lines. -/
structure StrmIn where
  x : Strm
  el : List Byte
  side : List Byte
  elBad : List Bool
  sideBad : List Bool
  deriving DecidableEq, Repr

/-- Some byte of a range is marked. -/
def anyBad (l : List Bool) (off n : Nat) : Bool := ((l.drop off).take n).any id

/-- Element e of a stream of n elements uses a poisoned byte (R231). -/
def StrmIn.bad (i : StrmIn) (n e : Nat) : Bool :=
  let c := i.x.fmt
  let e := if i.x.kind = 2 then 0 else e
  let el := if c = 0xC then anyBad i.elBad (13 * (e / 64) + e % 64 / 5) 1
    else if codeBits c = 4 then anyBad i.elBad (e / 2) 1 else anyBad i.elBad (e * (codeBits c / 8)) (codeBits c / 8)
  let sd := if c = 0xC then anyBad i.sideBad (2 * (e / 64)) 2
    else if isMx c then anyBad i.sideBad (e / 32) 1 || (c = 0xA && anyBad i.sideBad (up8 (n / 32) + 6 * (e / 32)) 6)
    else false
  if i.x.kind = 1 then c = 0xC && sd else el || sd

/-- What LD gives for element e: 32 bits and conditions (R223). -/
def StrmIn.load (i : StrmIn) (p : Rnd) (r n e : Nat) : Nat × Nat :=
  let c := i.x.fmt
  let e := if i.x.kind = 2 then 0 else e
  match c with
  | 0x1 => (leAt i.el (4 * e) 4, 0)
  | 0x8 => (wrap 32 (sInt 8 (leAt i.el e 1)), 0)
  | 0xB => (wrap 32 (sInt 4 (nibble i.el e)), 0)
  | 0xD => (leAt i.el (4 * e) 4, 0)
  | c =>
    let (v, k) := elemVal c (i.x.count n) i.el i.side e
    let pad := if c = 0xC ∧ (t5Trit i.el (13 * (e / 64)) 64).1 ≠ 0 then cFMT else 0
    let (y, d) := Fmt.fp32.encode p r v
    (y, k ||| d ||| pad)

/-- The state of an element's run: temporaries, conditions, draws used, and what each ST gave: 32 bits and random value. -/
structure ElSt where
  t : List Nat
  conds : Nat
  j : Nat
  outs : List (Nat × Nat × Nat)
  deriving DecidableEq, Repr

/-- A floating-point micro-op's exact result and conditions. -/
def uopFp (u : Uop) (rdn : Bool) (a b c : Val) : Option (Val × Nat) :=
  match u.op with
  | 0x10 => some (a.add rdn b)
  | 0x11 => some (a.add rdn b.neg)
  | 0x12 => some (a.mul b)
  | 0x13 => some (a.div b)
  | 0x14 => some (a.fma rdn b c)
  | 0x15 => some a.sqrt
  | 0x16 => some (match a with
    | .fin false (n + 1) d => (Val.fin false d (n + 1)).sqrt
    | .fin sg 0 _ => (.inf sg, cDZ)
    | .fin true _ _ => (.nan false, cIV)
    | .inf true => (.nan false, cIV)
    | .inf false => (.fin false 0 1, 0)
    | .nan s => (.nan false, if s then cIV else 0))
  | 0x17 => some (a.min b)
  | 0x18 => some (a.max b)
  | 0x19 => some (match a with | .nan s => (.nan false, if s then cIV else 0) | v => (v.abs, 0))
  | 0x1A => some (match a with | .nan s => (.nan false, if s then cIV else 0) | v => (v.neg, 0))
  | 0x1B => some (chainFn u.imm a)
  | _ => none

/-- An integer micro-op's result. -/
def uopInt (op a b : Nat) : Nat :=
  match op with
  | 0x20 => (a + b) % 2 ^ 32
  | 0x21 => (a + 2 ^ 32 - b) % 2 ^ 32
  | 0x22 => a &&& b
  | 0x23 => a ||| b
  | _ => a ^^^ b

/-- One micro-op of element e (R221-R223). -/
def uopStep (ins : List StrmIn) (n rm e s : Nat) (ctx : SrCtx) (base : Rnd) (m : ElSt) (u : Uop) : ElSt :=
  let p : Rnd := { base with rm := u.mode rm }
  let r := ctx.draw p (e % 4096) (e / 4096 * s + m.j)
  let m := { m with j := m.j + b2n (p.rm = 4) }
  let a := m.t.getD u.a 0
  let b := m.t.getD u.b 0
  let c := m.t.getD u.c 0
  let f := Fmt.fp32
  let put (v k : Nat) : ElSt := { m with t := m.t.set u.d v, conds := m.conds ||| k }
  let va := f.decode a
  let vb := f.decode b
  match uopFp u p.rdn va vb (f.decode c) with
  | some x =>
    let (v, k) := f.fin p r x
    put v k
  | none =>
    match u.op with
    | 0x01 =>
      match ins[u.imm % 8]? with
      | some i =>
        let (v, k) := i.load p r n e
        put v k
      | none => m
    | 0x02 => { m with outs := (u.imm % 8, a, r) :: m.outs }
    | 0x03 => put u.imm 0
    | 0x04 => put e 0
    | 0x1C => put (if fpPred u.imm va vb then 0xFFFF_FFFF else 0) (sigs [va, vb])
    | 0x1D => put (if a ≠ 0 then b else c) 0
    | 0x1E =>
      let (x, y, k) := twoOp f false va vb
      { m with t := (m.t.set u.d x).set (u.d + 1) y, conds := m.conds ||| k }
    | 0x25 =>
      let (v, k) := f.encode p r (.ofInt (sInt 32 a))
      put v k
    | 0x26 =>
      let (v, k) := intOf 32 p r va
      put v k
    | op => put (uopInt op a b) 0

/-- What a program gave for each element: none for an inactive one. -/
def runProg (ins : List StrmIn) (us : List Uop) (n rm : Nat) (ctx : SrCtx) (base : Rnd) (act : List Bool) : List (Option ElSt) :=
  let s := (us.filter fun u => u.mode rm = 4).length
  (List.range n).zip act |>.map fun e =>
    if e.2 then some (us.foldl (uopStep ins n rm e.1 s ctx base) ⟨List.replicate 16 0, 0, 0, []⟩) else none

/-- What a stream writes: element bytes and side bytes, some left as they are; conditions, telemetry. -/
structure StrmOut where
  el : List (Option Byte)
  side : List (Option Byte)
  conds : Nat
  tel : Tel
  deriving DecidableEq, Repr

/-- A T5 block of an output stream with the scale in its side array (R223). -/
def t5Block (p : Rnd) (s : Val) (l : List (Option (Nat × Nat))) : List Byte × Nat × Tel :=
  let z := l.map fun o => match o with
    | some (a, r) =>
      let v := Fmt.fp32.decode a
      let (i, c) := tritOf p r s v
      (i, c, Tel.elem v c false)
    | none => (0, 0, Tel.none)
  (t5Pack (z.map (·.1)), z.foldl (fun m e => m ||| e.2.1) 0, z.foldl (fun m e => m.plus e.2.2) Tel.none)

/-- The bytes of an output stream from the ST of each element; old element bytes lie under nibbles that stay (R223, R224). -/
def storeStrm (x : Strm) (p : Rnd) (zm : Bool) (i : StrmIn) (l : List (Option (Nat × Nat))) : StrmOut :=
  let c := x.fmt
  let f := Fmt.fp32
  let keep (k : Nat) (b : List Byte) (o : Bool) : List (Option Byte) := if o then b.map some else List.replicate k none
  if isMx c then
    let bs := (blocks 32 l.length l).map fun b =>
      let q := quantBlock c p (fun j => match b.getD j none with | some (_, r) => r | none => 0)
        (b.map fun o => match o with | some (a, _) => f.decode a | none => .fin false 0 1)
      (q, b.all Option.isSome, zm || b.all Option.isSome)
    let sc := bs.flatMap fun e => keep 1 [BitVec.ofNat 8 e.1.scale] e.2.2
    ⟨bs.flatMap fun e => keep (32 * codeBits c / 8) (packCodes (codeBits c) e.1.codes) e.2.2,
      sc ++ (if c = 0xA then
        List.replicate (up8 sc.length - sc.length) none ++ bs.flatMap fun e => keep 6 (escRecord e.1.escs) e.2.2 else []),
      bs.foldl (fun m e => if e.2.1 then m ||| e.1.conds else m) 0,
      bs.foldl (fun m e => if e.2.1 then m.plus e.1.tel else m) Tel.none⟩
  else if c = 0xC then
    let bl := blocks 64 l.length l
    let bs := (List.range bl.length).zip bl |>.map fun e =>
      let r := t5Block p (Fmt.bf16.decode (leAt i.side (2 * e.1) 2)) e.2
      (r, zm || e.2.all Option.isSome)
    ⟨bs.flatMap fun e => keep 13 e.1.1 e.2, [], bs.foldl (fun m e => m ||| e.1.2.1) 0,
      bs.foldl (fun m e => m.plus e.1.2.2) Tel.none⟩
  else
    let one (o : Option (Nat × Nat)) : Option Nat × Nat × Tel :=
      match o with
      | none => (if zm then some 0 else none, 0, Tel.none)
      | some (a, r) =>
        if c = 1 ∨ c = 0xD then (some a, 0, Tel.none)
        else if isInt c then
          let v : Val := .ofInt (sInt 32 a)
          let (y, k) := codeFrom 0xD c p r v
          (some y, k, Tel.elem v k false)
        else
          let v := f.decode a
          let (y, k) := codeOf c p r v
          (some y, k, Tel.elem v k false)
    let z := l.map one
    ⟨if codeBits c = 4 then nibOut i.el (z.map (·.1)) else elemOut (codeBits c) (z.map (·.1)), [],
      z.foldl (fun m e => m ||| e.2.1) 0, z.foldl (fun m e => m.plus e.2.2) Tel.none⟩

/-- The byte ranges in which two lists of places overlap. -/
def overlaps (a b : List Seg) : List (Nat × Nat) :=
  (a.flatMap fun g => b.map fun h => (max g.pa h.pa, min (g.pa + g.n) (h.pa + h.n))).filter fun e => e.1 < e.2

/-- Whether some element of the block of n elements that byte k of an output's elements, or of its side arrays, belongs to is
bad. -/
def blockBad (c n : Nat) (bad : List Bool) (side : Bool) (k : Nat) : Bool :=
  let blk := strmBlock c
  let b := if side then (if c = 0xA ∧ n / 32 ≤ k then (k - up8 (n / 32)) / 6 else k)
    else if c = 0xC then k / 13
    else (if codeBits c = 4 then 2 * k else k / (codeBits c / 8)) / blk
  if blk = 1 ∧ codeBits c = 4 then anyBad bad (2 * k) 2 else anyBad bad (b * blk) blk

/-- The stream engine performs an instruction's work; conditions found. With every element inactive it writes nothing (R224). -/
def seDo (t : Nat) (w : IWord) (x : Work) : M Nat := do
  let s ← get
  let n := x.arg 0
  let rm := x.arg 1
  let b := x.bytes
  let ss := strmsOf b
  let us := uopsOf b
  let act := s.vActive t w 0 n
  let base ← rnd rm
  let ctx ← engCtx 2 (x.arg 2) (x.arg 3)
  let ins ← mapAll ((List.range ss.length).zip ss) fun e => do
    let el ← heartMarked (x.seg (2 * e.1))
    let sd ← heartMarked (x.seg (2 * e.1 + 1))
    return (⟨e.2, el.map (·.1), sd.map (·.1), el.map (·.2), sd.map (·.2)⟩ : StrmIn)
  let res := runProg ins us n rm ctx base act
  let used (i : Nat) : Bool := us.any fun u => u.op = 1 && u.imm % 8 = i
  let bad := (List.range n).map fun e => (act.getD e false) && (List.range ins.length).any fun i =>
    match ins[i]? with
    | some y => (used i || y.x.kind = 1) && y.bad n e
    | none => false
  let outs := (List.range ss.length).zip ss |>.filter fun e => e.2.kind = 1 && act.any id
  let cs ← mapAll outs fun e => do
    let md := match us.find? fun u => u.op = 2 && u.imm % 8 = e.1 with | some u => u.mode rm | none => 0
    let vals := res.map fun r => match r with
      | some m => (m.outs.find? fun o => o.1 = e.1).map (·.2)
      | none => none
    let o := storeStrm e.2 { base with rm := md } (vZM w) (ins.getD e.1 ⟨e.2, [], [], [], []⟩) vals
    heartMark (blockBad e.2.fmt n bad false) 0 (x.seg (2 * e.1)) o.el
    whenM (e.2.fmt ≠ 0xC) (heartMark (blockBad e.2.fmt n bad true) 0 (x.seg (2 * e.1 + 1)) o.side)
    tally e.2.tag o.tel
    return o.conds
  forAll outs fun e => forAll ((List.range ss.length).zip ss) fun f => do
    let a := x.seg (2 * e.1) ++ if e.2.fmt = 0xC then [] else x.seg (2 * e.1 + 1)
    let c := x.seg (2 * f.1) ++ x.seg (2 * f.1 + 1)
    let same := f.2.kind = 0 && f.2.fmt = e.2.fmt && x.seg (2 * f.1) = x.seg (2 * e.1)
    let own := f.1 = e.1
    whenM (!same && !own && act.any id) (forAll (overlaps a c) fun r => modify fun s => s.freeRange r.1 r.2)
  modify fun s => s.addFld (.seElems t) 0 48 (act.filter id).length
  return res.foldl (fun m r => match r with | some y => m ||| y.conds | none => m) (cs.foldl (· ||| ·) 0)

end Sys2Proof.Machine
end

