-- ==== Sys2Proof/Machine/Engines.lean ====
section
/-! DEFINITION. Issue of engine instructions and their execution in scoreboard order; claims, SBWAIT, WDONE and the epoch
instructions; completion (R113-R115, R124-R128, R233-R238, R331-R335, R416). -/

namespace Sys2Proof.Machine

/-- An engine performs the work of an entry: conditions found. -/
def performWork (t : Nat) (e : SbEntry) : M Nat :=
  match e.work.eng with
  | 0 => vecDo t e.word e.work
  | 1 => tileDo t e.word e.work
  | 2 => seDo t e.word e.work
  | 3 => return 0
  | _ => if isDrain e.word then drainDo t e.word e.work else mmaDo t e.word e.work false

/-- The engine may perform an entry, behind those before it: an SBWAIT waits for its counter, a drain for its start, an MMA
for fewer than 8 pending tallies (R157, R237). -/
def State.ready (s : State) (t : Nat) (pre : List SbEntry) (e : SbEntry) : Bool :=
  !e.performed && !e.early && e.work.wait.isNone && !isDrain e.word && !blocked pre e.th e.word e.work
    && (e.work.eng < 4 || (s.talliesOf t (e.work.eng - 4)).length < 8)

/-- Entry i of a tree's scoreboard is performed, and poison on its way to non-memory state is contained (R425). -/
def performAt (t i : Nat) : M Unit := do
  match ((← get).tree t).sb[i]? with
  | none => skip
  | some e =>
    let c ← tryCatch (performWork t e) fun x => match x with
      | .contain a => do
        contain t a
        return 0
      | x => throw x
    modify fun (s : State) =>
      let x := s.tree t
      s.setTree t { x with sb := x.sb.set i { e with performed := true, conds := c } }

/-- The engines of a tree perform what they may, oldest first. -/
def pump : Nat → Nat → M Unit
  | 0, _ => skip
  | f + 1, t => do
    let s ← get
    let sb := (s.tree t).sb
    match (List.range sb.length).find? fun i => match sb[i]? with | some e => s.ready t (sb.take i) e | none => false with
    | none => skip
    | some i =>
      performAt t i
      pump f t

/-- The engines of a tree go on, and their status registers follow. -/
def enginesGo (t : Nat) : M Unit := do
  pump 32 t
  engSync t

/-- An entry at the place in issue order that thread k's instruction has: where it is recorded already, else at the end (R233). -/
def placeEntry (k : Nat) (e : SbEntry) (l : List SbEntry) : List SbEntry :=
  match l.findIdx? fun y => y.th = k && y.early with
  | some i => l.set i e
  | none => l ++ [e]

/-- Record an instruction that has passed its fault point in the scoreboard (R233). -/
def record (k : Nat) (w : IWord) (x : Work) : M Unit := modify fun (s : State) =>
  let t := k / 4
  let y := s.tree t
  let e : SbEntry :=
    ⟨k, w, s.reg (thr k 0x1B), (s.thread k).starts, bit (s.flags k) 28, x, x.eng = 3 && x.wait.isNone, 0, false, false⟩
  let s := (s.setTree t { y with sb := placeEntry k e y.sb }).sbLatch t
  match x.eng with
  | 0 => s.setFld (.vuStatus t) 5 2 (k % 4)
  | 2 => s.setFld (.seStatus t) 4 2 (k % 4)
  | _ => s

/-- Record an instruction that waits before its fault point; nothing is known of its sets yet (R115, R233). -/
def enlist (k : Nat) (w : IWord) (eng : Nat) : M Unit := modify fun (s : State) =>
  let y := s.tree (k / 4)
  s.setTree (k / 4) { y with
    sb := placeEntry k ⟨k, w, s.reg (thr k 0x1B), (s.thread k).starts, false, Work.none eng, false, 0, false, true⟩ y.sb }

/-- Advance a thread's SR_STREAM (R77). -/
def nextStream (k : Nat) : M Unit := modify fun s =>
  s.setReg (.srStream (k / 4) (k % 4)) (s.reg (.srStream (k / 4) (k % 4)) + 1)

/-- An engine instruction resumes from VRESUME or TRESUME (R139, R209, R414). -/
def resumes (w : IWord) : Bool :=
  w.major = 0xA0 || w.major = 0xA1 || (0x80 ≤ w.major && w.major ≤ 0x93 && vElementwise w.major)

/-- The wait of an engine instruction before its fault point, at which it can be stopped (R141, R211, R228). -/
def Stop.engineWait (w : IWord) : Stop → Stop
  | .hold .issue => .hold .board
  | .hold (.port q a) => .hold (.fetch q a)
  | .hold (.epoch va i _) => .hold (.epoch va i (resumes w))
  | e => e

/-- An engine instruction of thread k stops before its fault point: one that waits stays recorded, and one that faults does
not. -/
def stops {α : Type} (k : Nat) (w : IWord) (eng : Nat) (e : Stop) : M α := do
  if e.waits then enlist k w eng else modify fun s => s.unissue k
  throw (e.engineWait w)

/-- Issue an engine instruction (R113-R115): its encoding, room in its engine, the checks up to its fault point; then its work
is recorded and the engines go on. An instruction that stops or waits part-way does the part before with its resume register set,
and faults or waits there (R139, R141, R210, R211); it reports the conditions of its final execution (R415; log entry 101). -/
def engine (t : Tid) (w : IWord) (eng : Nat) (sl : Slots) (legal epochs : Bool) (prep : Nat → M Prep) : M Unit :=
  starts t sl.len fun k => do
    encoded k w sl legal true
    engRoom k eng epochs
    let p ← tryCatch (prep k) (stops k w eng)
    match p.stop with
    | some (sel, v, e) =>
      if blocked ((← get).before k) k w p.work then stops k w eng (.hold .issue)
      else
        let _ ← (if eng = 0 then vecDo (k / 4) w p.work else tileDo (k / 4) w p.work : M Nat)
        wr (thr k sel) (BitVec.ofNat 64 v)
        stops k w eng e
    | none =>
      whenM p.sr (nextStream k)
      commitPtrs k p.ptrs
      record k w p.work
      enginesGo (k / 4)
      if (← get).parked k then return .raw else return .next p.sets

/-- A vector instruction. -/
def vector (t : Tid) (w : IWord) : M Unit := engine t w 0 (vecSlots w) (vecLegal w) false fun k => vecPrep k w

/-- A tile instruction. -/
def tile (t : Tid) (w : IWord) : M Unit :=
  engine t w 1 (tileSlots w) (tileLegal w) false fun k => if w.major ≤ 0xA1 then tilePrep k w else tileSimple k w

/-- A matrix instruction. -/
def matrix (t : Tid) (w : IWord) : M Unit :=
  engine t w (4 + arrOf w) (mxSlots w) (mxLegal w) false fun k => if isDrain w then drainPrep k w else mmaPrep k w

/-- A stream instruction. -/
def stream (t : Tid) (w : IWord) : M Unit := engine t w 2 (seSlots w) (seLegal w) false fun k => sePrep k w

/-- Bits [17:12] of a scoreboard, claim or epoch base word are 0. -/
def low6 (w : IWord) : Bool := field w.base 12 6 = 0

/-- The result of an instruction whose operation is done at issue. -/
def doneNow (p : Ptrs) : M Prep :=
  return ⟨Work.none 3, p, [], false, none⟩

/-- The claims open or closing of a tree. -/
def State.openClaims (s : State) (t : Nat) : List W64 :=
  ((List.range 64).map fun c => s.reg (.claim t c)).filter fun w => bit w 32 || bit w 33

/-- A claim word is out of range (Table: Claim fault codes, RANGE). -/
def State.claimRange (s : State) (t : Nat) (w : W64) : Bool :=
  let g := field w 5 3
  let n := field w 18 10
  5 < g || field w 0 5 % 2 ^ g != 0 || field w 28 4 != 0
    || 1024 - 256 * s.lend t < field w 8 10 + (if n = 0 then 1024 else n)

/-- CLMOPEN at issue (R124, R127). -/
def clmOpen (k : Nat) (w : IWord) : M Prep := do
  let s ← get
  let t := k / 4
  let c := field w.base 18 6
  let o ← compute k w 0 4 0 0 0
  let v := BitVec.ofNat 64 (← ctlArg k o.a)
  let old := s.reg (.claim t c)
  if s.claimRange t v then throw (flt vClaim 5 c 0)
  else if bit old 32 ∨ bit old 33 then throw (flt vClaim 3 c 0)
  else if (s.openClaims t).any fun x => (claimFp v).meets (claimFp x) then throw (flt vClaim 4 c 0)
  else
    wr (.claim t c) (v ||| BitVec.ofNat 64 (1 <<< 32 + (k % 4) <<< 34))
    doneNow o.p

/-- CLMCLOSE at issue: the claim is closing and no longer open (R127, R128). -/
def clmClose (k : Nat) (w : IWord) : M Prep := do
  let s ← get
  let t := k / 4
  let c := field w.base 18 6
  let old := s.reg (.claim t c)
  if ¬ bit old 32 ∨ bit old 33 then throw (flt vClaim 1 c 0)
  else
    wrf (.claim t c) 32 2 2
    doneNow (s.ptrs k)

/-- CLAIM_FREE: a closing claim that no instruction under way names is free (R128). -/
def claimFreed (t c : Nat) : M Unit := do
  let s ← get
  whenM (s.flag (.claim t c) 33 && (s.tree t).sb.all fun e => !e.work.claims.contains c) (wrf (.claim t c) 32 2 0)

/-- SBWAIT at issue (R237). -/
def sbWait (k : Nat) (w : IWord) : M Prep := do
  let o ← compute k w 0 4 0 0 0
  let v ← ctlArg k o.a
  return ⟨{ Work.none 3 with wait := some (field w.base 18 4, v) }, o.p, [], false, none⟩

/-- WDONE (R238, R252): it needs room in the scoreboard unit's queue (R114), waits as FENCE.ENG does, ends the work item and leaves
the thread parked (R412). -/
def workDone (t : Tid) (w : IWord) : M Unit :=
  starts t 8 fun k => do
    encoded k w oneSlot (field w.base 12 12 = 0) true
    if ((← get).thread k).item.isNone then throw (fltWord w vIllegal 0)
    else
      engRoom k 3 false
      let (o, v) ← tryCatch (do
        let o ← compute k w 0 4 0 0 0
        return (o, ← ctlArg k o.a)) (stops k w 3)
      enlist k w 3
      fenceEngines k
      modify fun s => s.unissue k
      commitPtrs k o.p
      endItem k (BitVec.ofNat 64 v)
      park k
      modify fun s => s.setThread k { s.thread k with hold := .none }
      return .raw

/-- An EPOCH fault of an epoch instruction. -/
def epFault {α : Type} (k code va idx : Nat) : M α := do
  noteEpFault code k idx
  throw (flt vEpoch code va idx)

/-- The directory entry of a page that an epoch instruction names (R332); an error in it halts the directory (R341). -/
def epPage (k : Nat) (u : Use) (far : Bool) (va : Nat) : M Nat := do
  match ← trLeaf ((← get).crewPort k) u far va 1 va with
  | .error c => throw (flt vAddress c va (b2n u.writes))
  | .ok (e, pa) =>
    epCheck (pa / 2 ^ 21 * 2 ^ 21)
    if (← get).epMode = 3 then epFault k 0x0B va 0xFFFF_FFFF
    else if ¬ e.attrs.testBit 6 then epFault k 7 va 0xFFFF_FFFF
    else
      match (← get).entries.find? fun x => field x.2 21 31 * 2 ^ 21 = pa / 2 ^ 21 * 2 ^ 21 with
      | none => epFault k 5 va 0xFFFF_FFFF
      | some (i, _) => return i

/-- A page operand: 2 MiB aligned; a claim offset names no versioned page (R331). -/
def epOperand (k : Nat) (o : Opnd) : M (Nat × Bool) := do
  match o with
  | .claim c off =>
    let a := claimAddr (k / 4) (← useClaim (k / 4) c off 1) off
    if a % 2 ^ 21 ≠ 0 then throw (flt vAlign 0 a 0) else epFault k 7 a 0xFFFF_FFFF
  | .mem va far => if va % 2 ^ 21 ≠ 0 then throw (flt vAlign 0 va 0) else return (va, far)
  | o => if o.at % 2 ^ 21 ≠ 0 then throw (flt vAlign 0 o.at 0) else return (o.at, false)

/-- An epoch instruction presents its accesses once the SBWAITs of its thread are satisfied (R237), and faults while the
directory is HALTED (R341). -/
def epStart (k : Nat) : M Unit := do
  let s ← get
  heartClear k []
  if s.epMode = 3 then epFault k 0x0B 0 0xFFFF_FFFF else skip

/-- The pages of EPDECL, SEAL or EPDISCARD, each in a state that the instruction permits (R332-R334). -/
def epRange (k : Nat) (w : IWord) (ok : Nat → Bool) : M (List Nat × Ptrs) := do
  let o ← compute k w 0 (Config.operandZ w.major) 4 0 0
  let n ← ctlArg k o.b
  if n = 0 ∨ 512 < n then throw (fltWord w vOperand 0)
  else
    epStart k
    let (va, far) ← epOperand k o.a
    let l ← mapAll (List.range n) fun i => do
      let v := (va + i * 2 ^ 21) % 2 ^ 64
      let e ← epPage k .write far v
      if ok (epState ((← get).reg (.epEntry e 0))) then return e else epFault k 8 v e
    return (l, o.p)

/-- EPDECL (R332). -/
def epDecl (k : Nat) (w : IWord) : M Prep := do
  let (l, p) ← epRange k w fun x => x = 0
  let set_ := field w.base 18 6
  if (← get).setDone set_ then epFault k 9 0 0xFFFF_FFFF
  else
    forAll l (declPage set_)
    epCount
    doneNow p

/-- SEAL (R333). -/
def epSeal (k : Nat) (w : IWord) : M Prep := do
  let (l, p) ← epRange k w fun x => x = 1
  forAll l sealPage
  epCount
  doneNow p

/-- EPDISCARD (R334). -/
def epDiscard (k : Nat) (w : IWord) : M Prep := do
  let (l, p) ← epRange k w fun x => x = 1 || x = 2
  forAll l discardPage
  epCount
  doneNow p

/-- EPTAG (R331). -/
def epTagSet (k : Nat) (w : IWord) : M Prep := do
  let s ← get
  let o ← compute k w 0 4 0 0 0
  let a ← ctlArg k o.a
  let rel := bit w.base 19
  if rel ∧ 1 < a then throw (fltWord w vOperand 0)
  else if s.epMode = 3 then epFault k 0x0B 0 0xFFFF_FFFF
  else
    let e := (if rel then s.epoch + a else a) % 2 ^ 32
    wr (.epTag (k / 4) (k % 4)) (BitVec.ofNat 64 (e + b2n (bit w.base 18) <<< 32))
    doneNow o.p

/-- EPCOMMIT: kernel level only, and for epoch E + 1 (R331, R336). -/
def epCommit (k : Nat) (w : IWord) : M Prep := do
  let s ← get
  if ¬ bit (s.flags k) 33 then throw (fltWord w vPrivilege 0)
  else
    let o ← compute k w 0 4 0 0 0
    let a ← ctlArg k o.a
    epStart k
    if a ≠ (s.epoch + 1) % 2 ^ 32 then epFault k 0x0A 0 0xFFFF_FFFF
    else
      requestCommit
      doneNow o.p

/-- The page status word of an entry (Table: Page status word). -/
def State.pageStatus (s : State) (i : Nat) : Nat :=
  let w := s.reg (.epEntry i 0)
  epState w + b2n (bit w 7) <<< 2 + b2n (bit w 4) <<< 3 + b2n (epState w != 0 && s.setDone (epSet w)) <<< 4 + epSet w <<< 8 + i <<< 32

/-- EPSTAT (R331): its memory operand is in its write set, and is written behind the earlier instructions that meet it (R234). -/
def epStat (k : Nat) (w : IWord) : M Prep := do
  let o ← compute k w 8 (Config.operandZ w.major) 0 1 0
  epStart k
  let (va, far) ← epOperand k o.a
  let i ← epPage k .read far va
  let l ← placeOf k o.d .write 8
  let x : Work := { Work.none 3 with writes := placeFp (k / 4) l, claims := opClaims [o.d] }
  if blocked ((← get).before k) k w x then throw (.hold .issue)
  else
    writePlace k l ((← get).pageStatus i)
    return ⟨x, o.p, [], false, none⟩

/-- A claim, scoreboard or epoch instruction. -/
def boardOp (t : Tid) (w : IWord) (sl : Slots) (legal epochs : Bool) (prep : Nat → IWord → M Prep) : M Unit :=
  engine t w 3 sl legal epochs fun k => prep k w

/-- An MMA has its tally still pending. -/
def State.tallyPending (s : State) (t : Nat) (e : SbEntry) : Bool :=
  4 ≤ e.work.eng && !isDrain e.word && (s.talliesOf t (e.work.eng - 4)).any fun y => y.seq = e.work.arg 7

/-- An entry's instruction has done all that completes it (R416). -/
def State.complete (s : State) (t : Nat) (e : SbEntry) : Bool := e.performed && !s.tallyPending t e

/-- ENGINE_COMPLETE: the j-th instruction of a thread in the scoreboard completes and reports its conditions (R415, R416). -/
def engineDone (k j : Nat) : M Unit := do
  let s ← get
  let t := k / 4
  let sb := (s.tree t).sb
  match ((List.range sb.length).filter fun i => match sb[i]? with | some e => e.th = k | none => false)[j]? with
  | none => skip
  | some i =>
    match sb[i]? with
    | none => skip
    | some e =>
      if s.complete t e then
        modify fun s => s.setTree t { s.tree t with sb := sb.eraseIdx i }
        report k e.conds e.pc e.startNo
        enginesGo t
        entryGoesOn k
      else skip

/-- DRAIN_START: the oldest waiting drain of an array starts once the tallies of its bank have passed (R157). -/
def drainStarts (t n : Nat) : M Unit := do
  let s ← get
  let sb := (s.tree t).sb
  match (List.range sb.length).find? fun i => match sb[i]? with
    | some e => e.work.eng = 4 + n && isDrain e.word && !e.performed && !e.early
    | none => false with
  | none => skip
  | some i =>
    match sb[i]? with
    | none => skip
    | some e =>
      if blocked (sb.take i) e.th e.word e.work ∨ (s.talliesOf t n).any fun y => y.bank = bankOf e.word then skip
      else
        performAt t i
        enginesGo t

/-- TALLY_PASS: the oldest pending tally of an array. -/
def tallyPassed (t n : Nat) : M Unit := do
  tallyPass t n
  enginesGo t

/-- TALLY_MISMATCH. -/
def tallyMissed (t n m : Nat) (d : Diag) : M Unit := do
  tallyMismatch t n m d
  enginesGo t

/-- SBWAIT_SATISFIED: conditions that hold now are satisfied, and the accesses behind them proceed (R237). -/
def sbSatisfied (t : Nat) : M Unit := do
  modify fun s => s.sbLatch t
  enginesGo t

end Sys2Proof.Machine
end

