-- ==== Sys2Proof/Machine/EngineRows.lean ====
section
/-! DEFINITION. One meaning per engine, claim, scoreboard and epoch row, over the shared issue path (R113-R115, R124-R128,
R132, R153, R193, R217, R233-R238, R331-R336). -/

namespace Sys2Proof.Machine

/-- VADD (R193). -/
def execVadd (t : Tid) (w : IWord) (s : State) : Host.Outcome State Fault Refusal := run (vector t w) s

/-- VSUB (R193). -/
def execVsub (t : Tid) (w : IWord) (s : State) : Host.Outcome State Fault Refusal := run (vector t w) s

/-- VMUL (R193). -/
def execVmul (t : Tid) (w : IWord) (s : State) : Host.Outcome State Fault Refusal := run (vector t w) s

/-- VMULH (R193). -/
def execVmulh (t : Tid) (w : IWord) (s : State) : Host.Outcome State Fault Refusal := run (vector t w) s

/-- VMULHU (R193). -/
def execVmulhu (t : Tid) (w : IWord) (s : State) : Host.Outcome State Fault Refusal := run (vector t w) s

/-- VMIN (R193). -/
def execVmin (t : Tid) (w : IWord) (s : State) : Host.Outcome State Fault Refusal := run (vector t w) s

/-- VMAX (R193). -/
def execVmax (t : Tid) (w : IWord) (s : State) : Host.Outcome State Fault Refusal := run (vector t w) s

/-- VMINU (R193). -/
def execVminu (t : Tid) (w : IWord) (s : State) : Host.Outcome State Fault Refusal := run (vector t w) s

/-- VMAXU (R193). -/
def execVmaxu (t : Tid) (w : IWord) (s : State) : Host.Outcome State Fault Refusal := run (vector t w) s

/-- VABS (R193). -/
def execVabs (t : Tid) (w : IWord) (s : State) : Host.Outcome State Fault Refusal := run (vector t w) s

/-- VNEG (R193). -/
def execVneg (t : Tid) (w : IWord) (s : State) : Host.Outcome State Fault Refusal := run (vector t w) s

/-- VAND (R193). -/
def execVand (t : Tid) (w : IWord) (s : State) : Host.Outcome State Fault Refusal := run (vector t w) s

/-- VOR (R193). -/
def execVor (t : Tid) (w : IWord) (s : State) : Host.Outcome State Fault Refusal := run (vector t w) s

/-- VXOR (R193). -/
def execVxor (t : Tid) (w : IWord) (s : State) : Host.Outcome State Fault Refusal := run (vector t w) s

/-- VANDN (R193). -/
def execVandn (t : Tid) (w : IWord) (s : State) : Host.Outcome State Fault Refusal := run (vector t w) s

/-- VNOT (R193). -/
def execVnot (t : Tid) (w : IWord) (s : State) : Host.Outcome State Fault Refusal := run (vector t w) s

/-- VSHL (R193). -/
def execVshl (t : Tid) (w : IWord) (s : State) : Host.Outcome State Fault Refusal := run (vector t w) s

/-- VSHR (R193). -/
def execVshr (t : Tid) (w : IWord) (s : State) : Host.Outcome State Fault Refusal := run (vector t w) s

/-- VSAR (R193). -/
def execVsar (t : Tid) (w : IWord) (s : State) : Host.Outcome State Fault Refusal := run (vector t w) s

/-- VPOPC (R193). -/
def execVpopc (t : Tid) (w : IWord) (s : State) : Host.Outcome State Fault Refusal := run (vector t w) s

/-- VCLZ (R193). -/
def execVclz (t : Tid) (w : IWord) (s : State) : Host.Outcome State Fault Refusal := run (vector t w) s

/-- VCMP (R193). -/
def execVcmp (t : Tid) (w : IWord) (s : State) : Host.Outcome State Fault Refusal := run (vector t w) s

/-- VFADD (R193). -/
def execVfadd (t : Tid) (w : IWord) (s : State) : Host.Outcome State Fault Refusal := run (vector t w) s

/-- VFSUB (R193). -/
def execVfsub (t : Tid) (w : IWord) (s : State) : Host.Outcome State Fault Refusal := run (vector t w) s

/-- VFMUL (R193). -/
def execVfmul (t : Tid) (w : IWord) (s : State) : Host.Outcome State Fault Refusal := run (vector t w) s

/-- VFDIV (R193). -/
def execVfdiv (t : Tid) (w : IWord) (s : State) : Host.Outcome State Fault Refusal := run (vector t w) s

/-- VFMA (R193). -/
def execVfma (t : Tid) (w : IWord) (s : State) : Host.Outcome State Fault Refusal := run (vector t w) s

/-- VFMS (R193). -/
def execVfms (t : Tid) (w : IWord) (s : State) : Host.Outcome State Fault Refusal := run (vector t w) s

/-- VFSQRT (R193). -/
def execVfsqrt (t : Tid) (w : IWord) (s : State) : Host.Outcome State Fault Refusal := run (vector t w) s

/-- VFMIN (R193). -/
def execVfmin (t : Tid) (w : IWord) (s : State) : Host.Outcome State Fault Refusal := run (vector t w) s

/-- VFMAX (R193). -/
def execVfmax (t : Tid) (w : IWord) (s : State) : Host.Outcome State Fault Refusal := run (vector t w) s

/-- VFABS (R193). -/
def execVfabs (t : Tid) (w : IWord) (s : State) : Host.Outcome State Fault Refusal := run (vector t w) s

/-- VFNEG (R193). -/
def execVfneg (t : Tid) (w : IWord) (s : State) : Host.Outcome State Fault Refusal := run (vector t w) s

/-- VTWOSUM (R193). -/
def execVtwosum (t : Tid) (w : IWord) (s : State) : Host.Outcome State Fault Refusal := run (vector t w) s

/-- VTWOPROD (R193). -/
def execVtwoprod (t : Tid) (w : IWord) (s : State) : Host.Outcome State Fault Refusal := run (vector t w) s

/-- VFFN (R193). -/
def execVffn (t : Tid) (w : IWord) (s : State) : Host.Outcome State Fault Refusal := run (vector t w) s

/-- VFCMP (R193). -/
def execVfcmp (t : Tid) (w : IWord) (s : State) : Host.Outcome State Fault Refusal := run (vector t w) s

/-- VCVT (R193). -/
def execVcvt (t : Tid) (w : IWord) (s : State) : Host.Outcome State Fault Refusal := run (vector t w) s

/-- VMOV (R193). -/
def execVmov (t : Tid) (w : IWord) (s : State) : Host.Outcome State Fault Refusal := run (vector t w) s

/-- VLDS (R193). -/
def execVlds (t : Tid) (w : IWord) (s : State) : Host.Outcome State Fault Refusal := run (vector t w) s

/-- VSTS (R193). -/
def execVsts (t : Tid) (w : IWord) (s : State) : Host.Outcome State Fault Refusal := run (vector t w) s

/-- VIOTA (R193). -/
def execViota (t : Tid) (w : IWord) (s : State) : Host.Outcome State Fault Refusal := run (vector t w) s

/-- VPERM (R193). -/
def execVperm (t : Tid) (w : IWord) (s : State) : Host.Outcome State Fault Refusal := run (vector t w) s

/-- VSLIDEUP (R193). -/
def execVslideup (t : Tid) (w : IWord) (s : State) : Host.Outcome State Fault Refusal := run (vector t w) s

/-- VSLIDEDN (R193). -/
def execVslidedn (t : Tid) (w : IWord) (s : State) : Host.Outcome State Fault Refusal := run (vector t w) s

/-- VCOMPRESS (R193). -/
def execVcompress (t : Tid) (w : IWord) (s : State) : Host.Outcome State Fault Refusal := run (vector t w) s

/-- VEXPAND (R193). -/
def execVexpand (t : Tid) (w : IWord) (s : State) : Host.Outcome State Fault Refusal := run (vector t w) s

/-- VREV (R193). -/
def execVrev (t : Tid) (w : IWord) (s : State) : Host.Outcome State Fault Refusal := run (vector t w) s

/-- VGATHER (R193). -/
def execVgather (t : Tid) (w : IWord) (s : State) : Host.Outcome State Fault Refusal := run (vector t w) s

/-- VSCATTER (R193). -/
def execVscatter (t : Tid) (w : IWord) (s : State) : Host.Outcome State Fault Refusal := run (vector t w) s

/-- MAND (R193). -/
def execMand (t : Tid) (w : IWord) (s : State) : Host.Outcome State Fault Refusal := run (vector t w) s

/-- MOR (R193). -/
def execMor (t : Tid) (w : IWord) (s : State) : Host.Outcome State Fault Refusal := run (vector t w) s

/-- MXOR (R193). -/
def execMxor (t : Tid) (w : IWord) (s : State) : Host.Outcome State Fault Refusal := run (vector t w) s

/-- MANDN (R193). -/
def execMandn (t : Tid) (w : IWord) (s : State) : Host.Outcome State Fault Refusal := run (vector t w) s

/-- MNOT (R193). -/
def execMnot (t : Tid) (w : IWord) (s : State) : Host.Outcome State Fault Refusal := run (vector t w) s

/-- MSET (R193). -/
def execMset (t : Tid) (w : IWord) (s : State) : Host.Outcome State Fault Refusal := run (vector t w) s

/-- MPOP (R193). -/
def execMpop (t : Tid) (w : IWord) (s : State) : Host.Outcome State Fault Refusal := run (vector t w) s

/-- MFIRST (R193). -/
def execMfirst (t : Tid) (w : IWord) (s : State) : Host.Outcome State Fault Refusal := run (vector t w) s

/-- MMOV (R193). -/
def execMmov (t : Tid) (w : IWord) (s : State) : Host.Outcome State Fault Refusal := run (vector t w) s

/-- VRSUM (R193). -/
def execVrsum (t : Tid) (w : IWord) (s : State) : Host.Outcome State Fault Refusal := run (vector t w) s

/-- VRMIN (R193). -/
def execVrmin (t : Tid) (w : IWord) (s : State) : Host.Outcome State Fault Refusal := run (vector t w) s

/-- VRMAX (R193). -/
def execVrmax (t : Tid) (w : IWord) (s : State) : Host.Outcome State Fault Refusal := run (vector t w) s

/-- VRMINU (R193). -/
def execVrminu (t : Tid) (w : IWord) (s : State) : Host.Outcome State Fault Refusal := run (vector t w) s

/-- VRMAXU (R193). -/
def execVrmaxu (t : Tid) (w : IWord) (s : State) : Host.Outcome State Fault Refusal := run (vector t w) s

/-- VRAND (R193). -/
def execVrand (t : Tid) (w : IWord) (s : State) : Host.Outcome State Fault Refusal := run (vector t w) s

/-- VROR (R193). -/
def execVror (t : Tid) (w : IWord) (s : State) : Host.Outcome State Fault Refusal := run (vector t w) s

/-- VRXOR (R193). -/
def execVrxor (t : Tid) (w : IWord) (s : State) : Host.Outcome State Fault Refusal := run (vector t w) s

/-- VFRSUM (R193). -/
def execVfrsum (t : Tid) (w : IWord) (s : State) : Host.Outcome State Fault Refusal := run (vector t w) s

/-- VFRMIN (R193). -/
def execVfrmin (t : Tid) (w : IWord) (s : State) : Host.Outcome State Fault Refusal := run (vector t w) s

/-- VFRMAX (R193). -/
def execVfrmax (t : Tid) (w : IWord) (s : State) : Host.Outcome State Fault Refusal := run (vector t w) s

/-- VFRAMAX (R193). -/
def execVframax (t : Tid) (w : IWord) (s : State) : Host.Outcome State Fault Refusal := run (vector t w) s

/-- TLD (R132). -/
def execTld (t : Tid) (w : IWord) (s : State) : Host.Outcome State Fault Refusal := run (tile t w) s

/-- TST (R132). -/
def execTileStore (t : Tid) (w : IWord) (s : State) : Host.Outcome State Fault Refusal := run (tile t w) s

/-- TMOVTV (R132). -/
def execTmovtv (t : Tid) (w : IWord) (s : State) : Host.Outcome State Fault Refusal := run (tile t w) s

/-- TMOVVT (R132). -/
def execTmovvt (t : Tid) (w : IWord) (s : State) : Host.Outcome State Fault Refusal := run (tile t w) s

/-- TSHP (R132). -/
def execTshp (t : Tid) (w : IWord) (s : State) : Host.Outcome State Fault Refusal := run (tile t w) s

/-- TZERO (R132). -/
def execTzero (t : Tid) (w : IWord) (s : State) : Host.Outcome State Fault Refusal := run (tile t w) s

/-- MMA (R153). -/
def execMma (t : Tid) (w : IWord) (s : State) : Host.Outcome State Fault Refusal := run (matrix t w) s

/-- MMAP (R153). -/
def execMmap (t : Tid) (w : IWord) (s : State) : Host.Outcome State Fault Refusal := run (matrix t w) s

/-- MDRN (R153). -/
def execMdrn (t : Tid) (w : IWord) (s : State) : Host.Outcome State Fault Refusal := run (matrix t w) s

/-- MLDA (R153). -/
def execMlda (t : Tid) (w : IWord) (s : State) : Host.Outcome State Fault Refusal := run (matrix t w) s

/-- SRUN (R217). -/
def execSrun (t : Tid) (w : IWord) (s : State) : Host.Outcome State Fault Refusal := run (stream t w) s

/-- SRUNF (R217). -/
def execSrunf (t : Tid) (w : IWord) (s : State) : Host.Outcome State Fault Refusal := run (stream t w) s

/-- CLMOPEN (R124, R126). -/
def execClmopen (t : Tid) (w : IWord) (s : State) : Host.Outcome State Fault Refusal :=
  run (boardOp t w oneSlot (low6 w) false clmOpen) s

/-- CLMCLOSE (R126, R128). -/
def execClmclose (t : Tid) (w : IWord) (s : State) : Host.Outcome State Fault Refusal :=
  run (boardOp t w noSlots (low6 w) false clmClose) s

/-- SBWAIT (R237). -/
def execSbwait (t : Tid) (w : IWord) (s : State) : Host.Outcome State Fault Refusal :=
  run (boardOp t w oneSlot (low6 w && field w.base 22 2 = 0) false sbWait) s

/-- EPTAG (R331). -/
def execEptag (t : Tid) (w : IWord) (s : State) : Host.Outcome State Fault Refusal :=
  run (boardOp t w oneSlot (low6 w && field w.base 20 4 = 0) true epTagSet) s

/-- EPDECL (R332). -/
def execEpdecl (t : Tid) (w : IWord) (s : State) : Host.Outcome State Fault Refusal :=
  run (boardOp t w ⟨noSlot, memSlot, immSlot⟩ (low6 w) true epDecl) s

/-- SEAL (R333). -/
def execSeal (t : Tid) (w : IWord) (s : State) : Host.Outcome State Fault Refusal :=
  run (boardOp t w ⟨noSlot, memSlot, immSlot⟩ (field w.base 12 12 = 0) true epSeal) s

/-- EPDISCARD (R334). -/
def execEpdiscard (t : Tid) (w : IWord) (s : State) : Host.Outcome State Fault Refusal :=
  run (boardOp t w ⟨noSlot, memSlot, immSlot⟩ (field w.base 12 12 = 0) true epDiscard) s

/-- EPCOMMIT (R336). -/
def execEpcommit (t : Tid) (w : IWord) (s : State) : Host.Outcome State Fault Refusal :=
  run (boardOp t w oneSlot (field w.base 12 12 = 0) true epCommit) s

/-- EPSTAT (R331). -/
def execEpstat (t : Tid) (w : IWord) (s : State) : Host.Outcome State Fault Refusal :=
  run (boardOp t w ⟨memSlot, memSlot, noSlot⟩ (field w.base 12 12 = 0) true epStat) s

/-- WDONE (R238). -/
def execWdone (t : Tid) (w : IWord) (s : State) : Host.Outcome State Fault Refusal := run (workDone t w) s

/-- CLAIM_FREE (R128). -/
def execClaimFree (tree : Fin 64) (c : Fin 64) (s : State) : Host.Outcome State Fault Refusal :=
  run (claimFreed tree c) s

/-- DRAIN_START (R157). -/
def execDrainStart (tree : Fin 64) (arr : Fin 16) (s : State) : Host.Outcome State Fault Refusal :=
  run (drainStarts tree arr) s

/-- TALLY_PASS (R160). -/
def execTallyPass (tree : Fin 64) (arr : Fin 16) (s : State) : Host.Outcome State Fault Refusal :=
  run (tallyPassed tree arr) s

/-- TALLY_MISMATCH (R161, R162). -/
def execTallyMismatch (tree : Fin 64) (arr : Fin 16) (m : Nat) (d : Diag) (s : State) :
    Host.Outcome State Fault Refusal :=
  run (tallyMissed tree arr m d) s

/-- SBWAIT_SATISFIED (R237). -/
def execSbwaitSatisfied (t : Tid) (s : State) : Host.Outcome State Fault Refusal := run (sbSatisfied t.tree) s

/-- ENGINE_COMPLETE (R416). -/
def execEngineComplete (t : Tid) (k : Nat) (s : State) : Host.Outcome State Fault Refusal := run (engineDone t.k k) s

end Sys2Proof.Machine
end

