-- ==== Sys2Proof/Machine/Dispatch.lean ====
section
/-! DEFINITION. The dispatch: one arm per command. -/

namespace Sys2Proof.Machine

/-- The effect of a command on everything but the queue. -/
def exec (i : Instr) (s : State) : Host.Outcome State Fault Refusal :=
  match i with
  | .nop t w => Sys2Proof.Machine.execNop t w s
  | .br t w => Sys2Proof.Machine.execBr t w s
  | .bcc t w => Sys2Proof.Machine.execBcc t w s
  | .call t w => Sys2Proof.Machine.execCall t w s
  | .ret t w => Sys2Proof.Machine.execRet t w s
  | .fenceMem t w => Sys2Proof.Machine.execFenceMem t w s
  | .fenceEng t w => Sys2Proof.Machine.execFenceEng t w s
  | .gate t w => Sys2Proof.Machine.execGate t w s
  | .eret t w => Sys2Proof.Machine.execEret t w s
  | .trap t w => Sys2Proof.Machine.execTrap t w s
  | .park t w => Sys2Proof.Machine.execPark t w s
  | .add t w => Sys2Proof.Machine.execAdd t w s
  | .sub t w => Sys2Proof.Machine.execSub t w s
  | .adc t w => Sys2Proof.Machine.execAdc t w s
  | .sbb t w => Sys2Proof.Machine.execSbb t w s
  | .and t w => Sys2Proof.Machine.execAnd t w s
  | .or t w => Sys2Proof.Machine.execOr t w s
  | .xor t w => Sys2Proof.Machine.execXor t w s
  | .andn t w => Sys2Proof.Machine.execAndn t w s
  | .shl t w => Sys2Proof.Machine.execShl t w s
  | .shr t w => Sys2Proof.Machine.execShr t w s
  | .sar t w => Sys2Proof.Machine.execSar t w s
  | .rol t w => Sys2Proof.Machine.execRol t w s
  | .ror t w => Sys2Proof.Machine.execRor t w s
  | .min t w => Sys2Proof.Machine.execMin t w s
  | .max t w => Sys2Proof.Machine.execMax t w s
  | .minu t w => Sys2Proof.Machine.execMinu t w s
  | .maxu t w => Sys2Proof.Machine.execMaxu t w s
  | .cmp t w => Sys2Proof.Machine.execCmp t w s
  | .tst t w => Sys2Proof.Machine.execTst t w s
  | .mov t w => Sys2Proof.Machine.execMov t w s
  | .zext t w => Sys2Proof.Machine.execZext t w s
  | .sext t w => Sys2Proof.Machine.execSext t w s
  | .neg t w => Sys2Proof.Machine.execNeg t w s
  | .not t w => Sys2Proof.Machine.execNot t w s
  | .swap t w => Sys2Proof.Machine.execSwap t w s
  | .cas t w => Sys2Proof.Machine.execCas t w s
  | .aadd t w => Sys2Proof.Machine.execAadd t w s
  | .aand t w => Sys2Proof.Machine.execAand t w s
  | .aor t w => Sys2Proof.Machine.execAor t w s
  | .mul t w => Sys2Proof.Machine.execMul t w s
  | .mulu t w => Sys2Proof.Machine.execMulu t w s
  | .muls t w => Sys2Proof.Machine.execMuls t w s
  | .mulDelivery t => Sys2Proof.Machine.execMulDelivery t s
  | .div t w => Sys2Proof.Machine.execDiv t w s
  | .divu t w => Sys2Proof.Machine.execDivu t w s
  | .divDelivery t => Sys2Proof.Machine.execDivDelivery t s
  | .crc32c t w => Sys2Proof.Machine.execCrc32c t w s
  | .crc64 t w => Sys2Proof.Machine.execCrc64 t w s
  | .crcp t w => Sys2Proof.Machine.execCrcp t w s
  | .par t w => Sys2Proof.Machine.execPar t w s
  | .popc t w => Sys2Proof.Machine.execPopc t w s
  | .clz t w => Sys2Proof.Machine.execClz t w s
  | .ctz t w => Sys2Proof.Machine.execCtz t w s
  | .brev t w => Sys2Proof.Machine.execBrev t w s
  | .fadd t w => Sys2Proof.Machine.execFadd t w s
  | .fsub t w => Sys2Proof.Machine.execFsub t w s
  | .fmul t w => Sys2Proof.Machine.execFmul t w s
  | .fdiv t w => Sys2Proof.Machine.execFdiv t w s
  | .fsqrt t w => Sys2Proof.Machine.execFsqrt t w s
  | .fma t w => Sys2Proof.Machine.execFma t w s
  | .fmin t w => Sys2Proof.Machine.execFmin t w s
  | .fmax t w => Sys2Proof.Machine.execFmax t w s
  | .fcmp t w => Sys2Proof.Machine.execFcmp t w s
  | .cvt t w => Sys2Proof.Machine.execCvt t w s
  | .getr t w => Sys2Proof.Machine.execGetr t w s
  | .putr t w => Sys2Proof.Machine.execPutr t w s
  | .lea t w => Sys2Proof.Machine.execLea t w s
  | .rep t w nxt => Sys2Proof.Machine.execRep t w nxt s
  | .repx t w nxt => Sys2Proof.Machine.execRepx t w nxt s
  | .vadd t w => Sys2Proof.Machine.execVadd t w s
  | .vsub t w => Sys2Proof.Machine.execVsub t w s
  | .vmul t w => Sys2Proof.Machine.execVmul t w s
  | .vmulh t w => Sys2Proof.Machine.execVmulh t w s
  | .vmulhu t w => Sys2Proof.Machine.execVmulhu t w s
  | .vmin t w => Sys2Proof.Machine.execVmin t w s
  | .vmax t w => Sys2Proof.Machine.execVmax t w s
  | .vminu t w => Sys2Proof.Machine.execVminu t w s
  | .vmaxu t w => Sys2Proof.Machine.execVmaxu t w s
  | .vabs t w => Sys2Proof.Machine.execVabs t w s
  | .vneg t w => Sys2Proof.Machine.execVneg t w s
  | .vand t w => Sys2Proof.Machine.execVand t w s
  | .vor t w => Sys2Proof.Machine.execVor t w s
  | .vxor t w => Sys2Proof.Machine.execVxor t w s
  | .vandn t w => Sys2Proof.Machine.execVandn t w s
  | .vnot t w => Sys2Proof.Machine.execVnot t w s
  | .vshl t w => Sys2Proof.Machine.execVshl t w s
  | .vshr t w => Sys2Proof.Machine.execVshr t w s
  | .vsar t w => Sys2Proof.Machine.execVsar t w s
  | .vpopc t w => Sys2Proof.Machine.execVpopc t w s
  | .vclz t w => Sys2Proof.Machine.execVclz t w s
  | .vcmp t w => Sys2Proof.Machine.execVcmp t w s
  | .vfadd t w => Sys2Proof.Machine.execVfadd t w s
  | .vfsub t w => Sys2Proof.Machine.execVfsub t w s
  | .vfmul t w => Sys2Proof.Machine.execVfmul t w s
  | .vfdiv t w => Sys2Proof.Machine.execVfdiv t w s
  | .vfma t w => Sys2Proof.Machine.execVfma t w s
  | .vfms t w => Sys2Proof.Machine.execVfms t w s
  | .vfsqrt t w => Sys2Proof.Machine.execVfsqrt t w s
  | .vfmin t w => Sys2Proof.Machine.execVfmin t w s
  | .vfmax t w => Sys2Proof.Machine.execVfmax t w s
  | .vfabs t w => Sys2Proof.Machine.execVfabs t w s
  | .vfneg t w => Sys2Proof.Machine.execVfneg t w s
  | .vtwosum t w => Sys2Proof.Machine.execVtwosum t w s
  | .vtwoprod t w => Sys2Proof.Machine.execVtwoprod t w s
  | .vffn t w => Sys2Proof.Machine.execVffn t w s
  | .vfcmp t w => Sys2Proof.Machine.execVfcmp t w s
  | .vcvt t w => Sys2Proof.Machine.execVcvt t w s
  | .vmov t w => Sys2Proof.Machine.execVmov t w s
  | .vlds t w => Sys2Proof.Machine.execVlds t w s
  | .vsts t w => Sys2Proof.Machine.execVsts t w s
  | .viota t w => Sys2Proof.Machine.execViota t w s
  | .vperm t w => Sys2Proof.Machine.execVperm t w s
  | .vslideup t w => Sys2Proof.Machine.execVslideup t w s
  | .vslidedn t w => Sys2Proof.Machine.execVslidedn t w s
  | .vcompress t w => Sys2Proof.Machine.execVcompress t w s
  | .vexpand t w => Sys2Proof.Machine.execVexpand t w s
  | .vrev t w => Sys2Proof.Machine.execVrev t w s
  | .vgather t w => Sys2Proof.Machine.execVgather t w s
  | .vscatter t w => Sys2Proof.Machine.execVscatter t w s
  | .mand t w => Sys2Proof.Machine.execMand t w s
  | .mor t w => Sys2Proof.Machine.execMor t w s
  | .mxor t w => Sys2Proof.Machine.execMxor t w s
  | .mandn t w => Sys2Proof.Machine.execMandn t w s
  | .mnot t w => Sys2Proof.Machine.execMnot t w s
  | .mset t w => Sys2Proof.Machine.execMset t w s
  | .mpop t w => Sys2Proof.Machine.execMpop t w s
  | .mfirst t w => Sys2Proof.Machine.execMfirst t w s
  | .mmov t w => Sys2Proof.Machine.execMmov t w s
  | .vrsum t w => Sys2Proof.Machine.execVrsum t w s
  | .vrmin t w => Sys2Proof.Machine.execVrmin t w s
  | .vrmax t w => Sys2Proof.Machine.execVrmax t w s
  | .vrminu t w => Sys2Proof.Machine.execVrminu t w s
  | .vrmaxu t w => Sys2Proof.Machine.execVrmaxu t w s
  | .vrand t w => Sys2Proof.Machine.execVrand t w s
  | .vror t w => Sys2Proof.Machine.execVror t w s
  | .vrxor t w => Sys2Proof.Machine.execVrxor t w s
  | .vfrsum t w => Sys2Proof.Machine.execVfrsum t w s
  | .vfrmin t w => Sys2Proof.Machine.execVfrmin t w s
  | .vfrmax t w => Sys2Proof.Machine.execVfrmax t w s
  | .vframax t w => Sys2Proof.Machine.execVframax t w s
  | .tld t w => Sys2Proof.Machine.execTld t w s
  | .tmovtv t w => Sys2Proof.Machine.execTmovtv t w s
  | .tmovvt t w => Sys2Proof.Machine.execTmovvt t w s
  | .tshp t w => Sys2Proof.Machine.execTshp t w s
  | .tzero t w => Sys2Proof.Machine.execTzero t w s
  | .clmopen t w => Sys2Proof.Machine.execClmopen t w s
  | .clmclose t w => Sys2Proof.Machine.execClmclose t w s
  | .claimFree tree c => Sys2Proof.Machine.execClaimFree tree c s
  | .mma t w => Sys2Proof.Machine.execMma t w s
  | .mmap t w => Sys2Proof.Machine.execMmap t w s
  | .mdrn t w => Sys2Proof.Machine.execMdrn t w s
  | .mlda t w => Sys2Proof.Machine.execMlda t w s
  | .drainStart tree arr => Sys2Proof.Machine.execDrainStart tree arr s
  | .tallyPass tree arr => Sys2Proof.Machine.execTallyPass tree arr s
  | .tallyMismatch tree arr m d => Sys2Proof.Machine.execTallyMismatch tree arr m d s
  | .srun t w => Sys2Proof.Machine.execSrun t w s
  | .srunf t w => Sys2Proof.Machine.execSrunf t w s
  | .sbwait t w => Sys2Proof.Machine.execSbwait t w s
  | .sbwaitSatisfied t => Sys2Proof.Machine.execSbwaitSatisfied t s
  | .wdone t w => Sys2Proof.Machine.execWdone t w s
  | .engineComplete t k => Sys2Proof.Machine.execEngineComplete t k s
  | .eptag t w => Sys2Proof.Machine.execEptag t w s
  | .epdecl t w => Sys2Proof.Machine.execEpdecl t w s
  | .seal t w => Sys2Proof.Machine.execSeal t w s
  | .epdiscard t w => Sys2Proof.Machine.execEpdiscard t w s
  | .epcommit t w => Sys2Proof.Machine.execEpcommit t w s
  | .epstat t w => Sys2Proof.Machine.execEpstat t w s
  | .exceptionEntry t vec sub info info2 resumable => Sys2Proof.Machine.execExceptionEntry t vec sub info info2 resumable s
  | .takeInterrupt t => Sys2Proof.Machine.execTakeInterrupt t s
  | .tideJ t => Sys2Proof.Machine.execTideJ t s
  | .tideS t => Sys2Proof.Machine.execTideS t s
  | .softJ r t => Sys2Proof.Machine.execSoftJ r t s
  | .softS r t => Sys2Proof.Machine.execSoftS r t s
  | .run q => Sys2Proof.Machine.execRun q s
  | .barrier q => Sys2Proof.Machine.execBarrier q s
  | .barrierClear q => Sys2Proof.Machine.execBarrierClear q s
  | .signal q => Sys2Proof.Machine.execSignal q s
  | .eventsLost e => Sys2Proof.Machine.execEventsLost e s
  | .queueError q => Sys2Proof.Machine.execQueueError q s
  | .doorbellTail r q width v => Sys2Proof.Machine.execDoorbellTail r q width v s
  | .doorbellHead r q width v => Sys2Proof.Machine.execDoorbellHead r q width v s
  | .jobStart r => Sys2Proof.Machine.execJobStart r s
  | .jobEnd r => Sys2Proof.Machine.execJobEnd r s
  | .jobEndDrain => Sys2Proof.Machine.execJobEndDrain s
  | .jobEndScrub us => Sys2Proof.Machine.execJobEndScrub us s
  | .farScrubDone us => Sys2Proof.Machine.execFarScrubDone us s
  | .rerigCmdGo r => Sys2Proof.Machine.execRerigCmdGo r s
  | .rerigDone us failed => Sys2Proof.Machine.execRerigDone us failed s
  | .cfgHold r b hold => Sys2Proof.Machine.execCfgHold r b hold s
  | .qreq r b => Sys2Proof.Machine.execQreq r b s
  | .quiescentApply b sub => Sys2Proof.Machine.execQuiescentApply b sub s
  | .cfgClear r b => Sys2Proof.Machine.execCfgClear r b s
  | .registerWrite r addr width v => Sys2Proof.Machine.execRegisterWrite r addr width v s
  | .telemClr r v => Sys2Proof.Machine.execTelemClr r v s
  | .hwErrclr r tree => Sys2Proof.Machine.execHwErrclr r tree s
  | .mxTallyClr r tree => Sys2Proof.Machine.execMxTallyClr r tree s
  | .vuPassesClr r tree => Sys2Proof.Machine.execVuPassesClr r tree s
  | .seClr r tree => Sys2Proof.Machine.execSeClr r tree s
  | .ferryDoneWrite r tree k v => Sys2Proof.Machine.execFerryDoneWrite r tree k v s
  | .manifest f n => Sys2Proof.Machine.execManifest f n s
  | .copy f => Sys2Proof.Machine.execCopy f s
  | .fill f => Sys2Proof.Machine.execFill f s
  | .check f => Sys2Proof.Machine.execCheck f s
  | .ferryDone f => Sys2Proof.Machine.execFerryDone f s
  | .nbRefresh c => Sys2Proof.Machine.execNbRefresh c s
  | .nbPatrolScrub c tags finds => Sys2Proof.Machine.execNbPatrolScrub c tags finds s
  | .nbRetrainDone c ok => Sys2Proof.Machine.execNbRetrainDone c ok s
  | .hwPatrolScrub tree errs => Sys2Proof.Machine.execHwPatrolScrub tree errs s
  | .hwCorrectWriteback tree bank row recurs => Sys2Proof.Machine.execHwCorrectWriteback tree bank row recurs s
  | .canopyFill g fill => Sys2Proof.Machine.execCanopyFill g fill s
  | .clean r g scope => Sys2Proof.Machine.execClean r g scope s
  | .inval r g scope => Sys2Proof.Machine.execInval r g scope s
  | .clinv r g scope => Sys2Proof.Machine.execClinv r g scope s
  | .clinvAll r g scope => Sys2Proof.Machine.execClinvAll r g scope s
  | .cmoDone g => Sys2Proof.Machine.execCmoDone g s
  | .fbLinkUp p caps => Sys2Proof.Machine.execFbLinkUp p caps s
  | .fbLinkLoss p => Sys2Proof.Machine.execFbLinkLoss p s
  | .viral p => Sys2Proof.Machine.execViral p s
  | .fbTimeout p k => Sys2Proof.Machine.execFbTimeout p k s
  | .fbErrClr r p => Sys2Proof.Machine.execFbErrClr r p s
  | .nbClr r c => Sys2Proof.Machine.execNbClr r c s
  | .fyClr r f => Sys2Proof.Machine.execFyClr r f s
  | .tlbInvRange r world => Sys2Proof.Machine.execTlbInvRange r world s
  | .tlbInvWorld r world => Sys2Proof.Machine.execTlbInvWorld r world s
  | .tlbInvAll r => Sys2Proof.Machine.execTlbInvAll r s
  | .tlbInvDone => Sys2Proof.Machine.execTlbInvDone s
  | .atsInvalidateRequest base size => Sys2Proof.Machine.execAtsInvalidateRequest base size s
  | .translationCompletion k hpa size rd wr => Sys2Proof.Machine.execTranslationCompletion k hpa size rd wr s
  | .prgResponse k code => Sys2Proof.Machine.execPrgResponse k code s
  | .priWaitExpiry k => Sys2Proof.Machine.execPriWaitExpiry k s
  | .accRuleCommit r b k n v => Sys2Proof.Machine.execAccRuleCommit r b k n v s
  | .accDenyClr r => Sys2Proof.Machine.execAccDenyClr r s
  | .load r => Sys2Proof.Machine.execLoad r s
  | .unload r => Sys2Proof.Machine.execUnload r s
  | .commit r => Sys2Proof.Machine.execCommit r s
  | .cancel r => Sys2Proof.Machine.execCancel r s
  | .resync r => Sys2Proof.Machine.execResync r s
  | .commitFlip => Sys2Proof.Machine.execCommitFlip s
  | .commitDrainTimeout => Sys2Proof.Machine.execCommitDrainTimeout s
  | .waitTimeout u => Sys2Proof.Machine.execWaitTimeout u s
  | .journalTimeout => Sys2Proof.Machine.execJournalTimeout s
  | .tideMark => Sys2Proof.Machine.execTideMark s
  | .beaconSend => Sys2Proof.Machine.execBeaconSend s
  | .beaconLoss l => Sys2Proof.Machine.execBeaconLoss l s
  | .holdoverExpiry => Sys2Proof.Machine.execHoldoverExpiry s
  | .tideSet r v => Sys2Proof.Machine.execTideSet r v s
  | .stepOrigin r v => Sys2Proof.Machine.execStepOrigin r v s
  | .stepAdvance => Sys2Proof.Machine.execStepAdvance s
  | .ttEntryCommit r e v => Sys2Proof.Machine.execTtEntryCommit r e v s
  | .ttEn r en => Sys2Proof.Machine.execTtEn r en s
  | .ttClr r => Sys2Proof.Machine.execTtClr r s
  | .qstart e => Sys2Proof.Machine.execQstart e s
  | .cwopen e => Sys2Proof.Machine.execCwopen e s
  | .cwclose e => Sys2Proof.Machine.execCwclose e s
  | .bist e => Sys2Proof.Machine.execBist e s
  | .refresh e => Sys2Proof.Machine.execRefresh e s
  | .collect e => Sys2Proof.Machine.execCollect e s
  | .dcheck e => Sys2Proof.Machine.execDcheck e s
  | .event e => Sys2Proof.Machine.execEvent e s
  | .tideMiss e => Sys2Proof.Machine.execTideMiss e s
  | .bistSliceRun res => Sys2Proof.Machine.execBistSliceRun res s
  | .bistSliceAbandon => Sys2Proof.Machine.execBistSliceAbandon s
  | .bistCycleLate => Sys2Proof.Machine.execBistCycleLate s
  | .landingTrain l peer => Sys2Proof.Machine.execLandingTrain l peer s
  | .landingTrainRetry l peer => Sys2Proof.Machine.execLandingTrainRetry l peer s
  | .retrain r l => Sys2Proof.Machine.execRetrain r l s
  | .landClr r l => Sys2Proof.Machine.execLandClr r l s
  | .landUnfence r l => Sys2Proof.Machine.execLandUnfence r l s
  | .laneLoss l lane => Sys2Proof.Machine.execLaneLoss l lane s
  | .data l seq ack bytes => Sys2Proof.Machine.execData l seq ack bytes s
  | .nak l ack => Sys2Proof.Machine.execNak l ack s
  | .beacon l b => Sys2Proof.Machine.execBeacon l b s
  | .train l peer => Sys2Proof.Machine.execTrain l peer s
  | .idle l ack => Sys2Proof.Machine.execIdle l ack s
  | .replay l => Sys2Proof.Machine.execReplay l s
  | .packetForward l p => Sys2Proof.Machine.execPacketForward l p s
  | .pktWrite l p => Sys2Proof.Machine.execPktWrite l p s
  | .readreq l p => Sys2Proof.Machine.execReadreq l p s
  | .readcpl l p => Sys2Proof.Machine.execReadcpl l p s
  | .pktReduce l p => Sys2Proof.Machine.execPktReduce l p s
  | .ack l p => Sys2Proof.Machine.execAck l p s
  | .notify l p => Sys2Proof.Machine.execNotify l p s
  | .journal l p => Sys2Proof.Machine.execJournal l p s
  | .jack l p => Sys2Proof.Machine.execJack l p s
  | .landWrite l n => Sys2Proof.Machine.execLandWrite l n s
  | .landRead l n => Sys2Proof.Machine.execLandRead l n s
  | .reduce l n => Sys2Proof.Machine.execReduce l n s
  | .reduceCopy l n => Sys2Proof.Machine.execReduceCopy l n s
  | .landDone l n => Sys2Proof.Machine.execLandDone l n s
  | .landError l n => Sys2Proof.Machine.execLandError l n s
  | .landPacketTimeout l tid => Sys2Proof.Machine.execLandPacketTimeout l tid s
  | .flr => Sys2Proof.Machine.execFlr s
  | .hotReset => Sys2Proof.Machine.execHotReset s
  | .linkDisable => Sys2Proof.Machine.execLinkDisable s
  | .perstN => Sys2Proof.Machine.execPerstN s
  | .d3hot => Sys2Proof.Machine.execD3hot s
  | .d0 => Sys2Proof.Machine.execD0 s
  | .pcieLinkLoss => Sys2Proof.Machine.execPcieLinkLoss s
  | .bar2Access off wr len bytes => Sys2Proof.Machine.execBar2Access off wr len bytes s
  | .msixUnmask v => Sys2Proof.Machine.execMsixUnmask v s
  | .hostCompletionFailure line down => Sys2Proof.Machine.execHostCompletionFailure line down s
  | .setEndpointId eid => Sys2Proof.Machine.execSetEndpointId eid s
  | .getEndpointId => Sys2Proof.Machine.execGetEndpointId s
  | .getEndpointUuid => Sys2Proof.Machine.execGetEndpointUuid s
  | .getMctpVersionSupport => Sys2Proof.Machine.execGetMctpVersionSupport s
  | .getMessageTypeSupport => Sys2Proof.Machine.execGetMessageTypeSupport s
  | .getVendorDefinedMsgSupport => Sys2Proof.Machine.execGetVendorDefinedMsgSupport s
  | .readIncidents start count => Sys2Proof.Machine.execReadIncidents start count s
  | .readReg addr width => Sys2Proof.Machine.execReadReg addr width s
  | .writeReg addr width v => Sys2Proof.Machine.execWriteReg addr width v s
  | .debugToken token => Sys2Proof.Machine.execDebugToken token s
  | .setEventReceiver eid => Sys2Proof.Machine.execSetEventReceiver eid s
  | .pldmSensorUpdate vals => Sys2Proof.Machine.execPldmSensorUpdate vals s
  | .requestUpdate ep => Sys2Proof.Machine.execRequestUpdate ep s
  | .verifyComplete comp image => Sys2Proof.Machine.execVerifyComplete comp image s
  | .activateFirmware => Sys2Proof.Machine.execActivateFirmware s
  | .getVersion ep => Sys2Proof.Machine.execGetVersion ep s
  | .getCapabilities ep => Sys2Proof.Machine.execGetCapabilities ep s
  | .negotiateAlgorithms ep mldsa shake => Sys2Proof.Machine.execNegotiateAlgorithms ep mldsa shake s
  | .getDigests ep => Sys2Proof.Machine.execGetDigests ep s
  | .getCertificate ep slot off len => Sys2Proof.Machine.execGetCertificate ep slot off len s
  | .challenge ep slot nonce => Sys2Proof.Machine.execChallenge ep slot nonce s
  | .getMeasurements ep idx => Sys2Proof.Machine.execGetMeasurements ep idx s
  | .setCertificate ep v13 chain => Sys2Proof.Machine.execSetCertificate ep v13 chain s
  | .spdmStateExpiry ep => Sys2Proof.Machine.execSpdmStateExpiry ep s
  | .enec events => Sys2Proof.Machine.execEnec events s
  | .disec events => Sys2Proof.Machine.execDisec events s
  | .rstdaa => Sys2Proof.Machine.execRstdaa s
  | .entdaa addr => Sys2Proof.Machine.execEntdaa addr s
  | .setdasa static addr => Sys2Proof.Machine.execSetdasa static addr s
  | .setmwl n => Sys2Proof.Machine.execSetmwl n s
  | .setmrl n => Sys2Proof.Machine.execSetmrl n s
  | .getmwl => Sys2Proof.Machine.execGetmwl s
  | .getmrl => Sys2Proof.Machine.execGetmrl s
  | .getpid => Sys2Proof.Machine.execGetpid s
  | .getbcr => Sys2Proof.Machine.execGetbcr s
  | .getdcr => Sys2Proof.Machine.execGetdcr s
  | .getstatus => Sys2Proof.Machine.execGetstatus s
  | .clearFaults => Sys2Proof.Machine.execClearFaults s
  | .vinUvWarnLimit => Sys2Proof.Machine.execVinUvWarnLimit s
  | .pinOpWarnLimit => Sys2Proof.Machine.execPinOpWarnLimit s
  | .statusWord => Sys2Proof.Machine.execStatusWord s
  | .statusInput => Sys2Proof.Machine.execStatusInput s
  | .statusTemperature => Sys2Proof.Machine.execStatusTemperature s
  | .readVin => Sys2Proof.Machine.execReadVin s
  | .readIin => Sys2Proof.Machine.execReadIin s
  | .readTemperature1 => Sys2Proof.Machine.execReadTemperature1 s
  | .readPin => Sys2Proof.Machine.execReadPin s
  | .pmbusRevision => Sys2Proof.Machine.execPmbusRevision s
  | .bypass => Sys2Proof.Machine.execBypass s
  | .idcode => Sys2Proof.Machine.execIdcode s
  | .samplePreload => Sys2Proof.Machine.execSamplePreload s
  | .extest => Sys2Proof.Machine.execExtest s
  | .clamp => Sys2Proof.Machine.execClamp s
  | .highz => Sys2Proof.Machine.execHighz s
  | .dbgToken frame => Sys2Proof.Machine.execDbgToken frame s
  | .dbgAccess addr wr width v => Sys2Proof.Machine.execDbgAccess addr wr width v s
  | .scan => Sys2Proof.Machine.execScan s
  | .enrol r => Sys2Proof.Machine.execEnrol r s
  | .addKey r => Sys2Proof.Machine.execAddKey r s
  | .revokeKey r => Sys2Proof.Machine.execRevokeKey r s
  | .release r => Sys2Proof.Machine.execRelease r s
  | .recover r => Sys2Proof.Machine.execRecover r s
  | .rollCommit r => Sys2Proof.Machine.execRollCommit r s
  | .incRingEn r v => Sys2Proof.Machine.execIncRingEn r v s
  | .incHead r head => Sys2Proof.Machine.execIncHead r head s
  | .incidentWindowEnd k => Sys2Proof.Machine.execIncidentWindowEnd k s
  | .incClr r => Sys2Proof.Machine.execIncClr r s
  | .recoveryTimeout d => Sys2Proof.Machine.execRecoveryTimeout d s
  | .watchdog t => Sys2Proof.Machine.execWatchdog t s
  | .powerBrakeAssert => Sys2Proof.Machine.execPowerBrakeAssert s
  | .powerBrakeRelease => Sys2Proof.Machine.execPowerBrakeRelease s
  | .pwrMeasure watts bound => Sys2Proof.Machine.execPwrMeasure watts bound s
  | .pwrStatClr r => Sys2Proof.Machine.execPwrStatClr r s
  | .thermSample temps => Sys2Proof.Machine.execThermSample temps s
  | .uvWarning => Sys2Proof.Machine.execUvWarning s
  | .uvLockout => Sys2Proof.Machine.execUvLockout s
  | .ovLockout => Sys2Proof.Machine.execOvLockout s
  | .railFault rail => Sys2Proof.Machine.execRailFault rail s
  | .leak => Sys2Proof.Machine.execLeak s
  | .powerUp vin => Sys2Proof.Machine.execPowerUp vin s
  | .moduleReset => Sys2Proof.Machine.execModuleReset s
  | .coldStart env => Sys2Proof.Machine.execColdStart env s
  | .tileStore t w => Sys2Proof.Machine.execTileStore t w s
  | .configurationRequest c => Sys2Proof.Machine.execConfigurationRequest c s
  | .pcieLinkUp speed width flit => Sys2Proof.Machine.execPcieLinkUp speed width flit s
  | .uncorrectableCodeword l => Sys2Proof.Machine.execUncorrectableCodeword l s
  | .railFaultRelease => Sys2Proof.Machine.execRailFaultRelease s
  | .secretsCleared ok => Sys2Proof.Machine.execSecretsCleared ok s
  | .pmbusOtherCommand code => Sys2Proof.Machine.execPmbusOtherCommand code s

end Sys2Proof.Machine
end

