-- ==== Sys2Proof/Safety.lean ====
section
/-! DEFINITION. What a safe run is, and the terms that statements about commands use: when a thread starts an instruction,
and the state in which an instruction ends. -/

namespace Sys2Proof.Machine

/-- A state from which the next step goes on. -/
def State.goes (s : State) : Prop := ∃ t, step s = .next t

/-- n steps that all go on. -/
def State.runs : Nat → State → Prop
  | 0, _ => True
  | n + 1, s => ∃ t, step s = .next t ∧ State.runs n t

/-- The state in which an action ends, whether or not it stops early. -/
def after (m : M Unit) (s : State) : State :=
  match m s with
  | .ok _ t => t
  | .error _ t => t

/-- The module is powered and out of module reset, so that its units act (R469, R472). -/
def State.live (s : State) : Prop := s.power.on = true ∧ s.power.held = false

/-- At the boundary before what thread k does next, unless there is none, no ARITH is pending and no interrupt can be taken (R418,
R419). -/
def State.passes (s : State) (k : Nat) : Prop :=
  (s.thread k).hold.started = true ∨ (bit (s.flags k) 29 = true ∧ bit (s.flags k) 30 = true) ∨
    (s.flag (excReg k) 2 = false ∧ s.takable k = none)

/-- A thread starts the instruction it is given: the module acts, the thread is not parked, no fault of it is on its way in,
nothing stalls it, and the boundary before the instruction lets it pass (R404, R418, R419). -/
def State.Ready (s : State) (t : Tid) : Prop :=
  s.live ∧ s.parked t.k = false ∧ (s.thread t.k).raised = none ∧ s.stalled t.k = false ∧ s.passes t.k

/-- The state in which an instruction of thread k has started: it counts, and the products and quotient whose time has come
have landed (R106, R107). An instruction that had started before waits no second time. -/
def State.begun (s : State) (k : Nat) : State :=
  if (s.thread k).hold = .none ∨ (s.thread k).hold = .issue then after (beginInstr k) s else s

/-- Registers of thread k set, in order. -/
def State.putRegs (s : State) (k : Nat) (l : List (Nat × W64)) : State :=
  l.foldl (fun s e => s.setReg (thr k e.1) e.2) s

/-- Pointer updates of an instruction of thread k. -/
def State.putPtrs (s : State) (k : Nat) (p : Ptrs) : State :=
  s.putRegs k (p.upd.map fun n => (n, BitVec.ofNat 64 (p.get n)))

/-- Thread k waits for nothing. -/
def State.unheld (s : State) (k : Nat) : State := s.setThread k { s.thread k with hold := .none }

/-- An instruction of `len` bytes has completed: registers are set, and PC is at the next one. Under a repeat (R109) REPCNT
counts down and PC stays until the count is done, when RA and RX go to 0. -/
def State.retired (s : State) (k len : Nat) (rep : Bool) (sets : List (Nat × W64)) : State :=
  let next := BitVec.ofNat 64 (s.pc k + len)
  let n := s.fld (thr k 0x19) 0 32
  let u := s.putRegs k sets
  let u :=
    if ¬ rep then u.setReg (thr k 0x1B) next
    else if n ≤ 1 then
      let u := u.setReg (thr k 0x19) 0
      (u.setReg (thr k 0x10) (setField (u.flags k) 29 2 0)).setReg (thr k 0x1B) next
    else u.setReg (thr k 0x19) (BitVec.ofNat 64 (n - 1))
  u.unheld k

/-- An instruction has completed and goes on at another address. -/
def State.jumped (s : State) (k pc : Nat) (sets : List (Nat × W64)) : State :=
  ((s.putRegs k sets).setReg (thr k 0x1B) (BitVec.ofNat 64 pc)).unheld k

/-- A state with the queue of another: what every command leaves of its queue. -/
def State.queueOf (u s : State) : State := { u with pending := s.pending }

/-- The encoding of an instruction is legal: its options, its slots, and under a repeat that a repeat may prefix it (R88, R98,
R111). -/
def State.encodes (s : State) (k : Nat) (w : IWord) (sl : Slots) (legal rep : Bool) : Prop :=
  legal = true ∧ sl.judge w = .fine ∧ (bit (s.flags k) 29 = true → rep = true)

/-- A thread starts an instruction of a legal encoding whose operands are computed as `o` (R87-R98): operand sizes zd, za, zb,
and INFO2 of a fault of src1. -/
def State.issues (s : State) (t : Tid) (w : IWord) (sl : Slots) (legal rep : Bool) (zd za zb i2a : Nat) (o : Opnds) : Prop :=
  s.Ready t ∧ (s.begun t.k).encodes t.k w sl legal rep ∧
    operands w ((s.begun t.k).ptrs t.k) zd za zb 1 i2a 0 = .ok o

/-- Check and read two sources of z bytes. -/
def reads2 (k z : Nat) (o : Opnds) : M (Nat × Nat) := do
  let a ← srcOf k o.a z
  let b ← srcOf k o.b z
  let a ← readSrc k a
  let b ← readSrc k b
  return (a, b)

/-- Check a source and a destination of z bytes, and read the source. -/
def reads1To (k z : Nat) (o : Opnds) : M (Nat × Place) := do
  let a ← srcOf k o.a z
  let l ← placeOf k o.d .write z
  let a ← readSrc k a
  return (a, l)

/-- Check two sources and a destination of z bytes, and read the sources. -/
def reads2To (k z : Nat) (o : Opnds) : M (Nat × Nat × Place) := do
  let a ← srcOf k o.a z
  let b ← srcOf k o.b z
  let l ← placeOf k o.d .write z
  let a ← readSrc k a
  let b ← readSrc k b
  return (a, b, l)

/-- Check a source of za bytes and a destination of z bytes, and read the source with its poison. -/
def carries (k za z : Nat) (o : Opnds) : M ((Nat × Option Nat) × Place) := do
  let a ← srcOf k o.a za
  let l ← placeOf k o.d .write z
  let a ← readP k a
  return (a, l)

/-- Check and read the source and the target of an atomic of z bytes, with their poison, and check the place of its old value (R103). -/
def atomReads (k : Nat) (w : IWord) (z : Nat) (o : Opnds) : M ((Nat × Option Nat) × (Nat × Option Nat) × Place × Place) := do
  let a ← srcOf k o.a z
  let b ← placeOf k o.b .write z
  let d ← atomPlace k w o.d z
  let a ← readP k a
  let old ← atomRead k d
  return (a, old, b, d)

/-- An instruction of thread k that started in s completes in v with its pointer updates: what exec answers. -/
def State.done (s v : State) (k len : Nat) (p : Ptrs) (sets : List (Nat × W64)) : Host.Outcome State Fault Refusal :=
  .next (((v.putPtrs k p).retired k len (bit (s.flags k) 29) sets).queueOf s)

/-- An instruction of thread k that started in s goes on at another address. -/
def State.goesTo (s v : State) (k pc : Nat) (p : Ptrs) (sets : List (Nat × W64)) : Host.Outcome State Fault Refusal :=
  .next (((v.putPtrs k p).jumped k pc sets).queueOf s)

/-- The target of a branch or CALL: PC plus an immediate, or the effective address; none for an operand that has none. -/
def State.targetOf (s : State) (k : Nat) : Opnd → Option Nat
  | .imm v => some (above (s.pc k) v.toNat)
  | .mem va _ => some va
  | .claim c off =>
    let w := s.reg (.claim (k / 4) c)
    if bit w 32 ∧ ¬ bit w 33 ∧ off + 1 ≤ claimLen w then some (claimAddr (k / 4) w off) else none
  | _ => none

/-- An entry into a handler (R408 step 5): the pointer updates; SP at the frame; FLAGS with LEVEL kernel and the world of the
handler; REPCNT 0; PC at the handler; PARKED 0 and LAST the vector. It is an instruction boundary, at which pending quiescent fields
take effect (R46). -/
def State.atHandler (s : State) (k : Nat) (w : Bool) (f pc vec : Nat) (p : Ptrs) : State :=
  let u := (s.putPtrs k p).putRegs k [(15, BitVec.ofNat 64 f), (0x10, BitVec.ofNat 64 (1 <<< 33 + b2n w <<< 34)), (0x19, 0),
    (0x1B, BitVec.ofNat 64 pc)]
  let u := (u.setFld (excReg k) 1 1 0).setFld (excReg k) 8 8 vec
  let u := ((u.setThread k { u.thread k with hold := .none, raised := none }).forget (waiterOf k)).unissue k
  after (crewQuiet k) u

/-- The state in which every product and quotient of thread k has landed (R108). -/
def State.landed (s : State) (k : Nat) : State := after (landAll k) s

/-- An exception of thread k is entered from s, in v: no engine instruction of the thread is under way, no double fault is in
progress, and the frame can be written (R408). -/
def State.entersNow (s : State) (k : Nat) (e : Exn) (p : Ptrs) (v : State) : Prop :=
  s.engBusy k = false ∧ (s.landed k).flag (excReg k) 0 = false ∧
    ∃ u, writeFrame k ((s.landed k).excWorld k e) ((s.landed k).excFrame k e p) ((s.landed k).excBytes k e p) (s.landed k)
        = .ok none u ∧
      v = u.atHandler k ((s.landed k).excWorld k e) ((s.landed k).excFrame k e p)
        (e.gate.getD (above ((s.landed k).vbar k ((s.landed k).excWorld k e)) (64 * e.vec))) e.vec p

/-- An exception of thread k is entered from s, in v, and no ARITH is pending that would replace it (R408). -/
def State.enters (s : State) (k : Nat) (e : Exn) (p : Ptrs) (v : State) : Prop :=
  s.flag (excReg k) 2 = false ∧ s.entersNow k e p v

/-- The pending ARITH of thread k is entered from s, in v (R408, R415). -/
def State.entersArith (s : State) (k : Nat) (v : State) : Prop :=
  s.flag (excReg k) 2 = true ∧ ∃ u, s.entersNow k ((s.landed k).arith k) ((s.landed k).ptrs k) u ∧ v = u.setFld (excReg k) 2 1 0

/-- The interrupt that thread k can take is entered from s, in v: vector 0x10, with the interrupt as sub-code and INT_PEND as INFO
(R417). -/
def State.entersIrq (s : State) (k : Nat) (v : State) : Prop :=
  ∃ b, s.takable k = some b ∧
    s.enters k ⟨0x10, b, s.reg (.intPend (k / 4) (k % 4)), 0, false, false, s.pc k, none⟩ (s.ptrs k) v

/-- A fault that thread k raises in s is entered in v, with the PC and the pointer registers that it finds (R413). -/
def State.raises (s : State) (k vec sub : Nat) (info info2 : W64) (res : Bool) (v : State) : Prop :=
  let x := s.raise k vec sub info info2 res
  x.entersNow k ⟨vec, sub, info, info2, res, false, x.pc k, none⟩ (x.ptrs k) v

/-- A fault of an instruction of thread k, found in s, is entered in v: the instruction counts as not started (R408, R413). -/
def State.faults (s : State) (k vec sub : Nat) (info info2 : W64) (res : Bool) (v : State) : Prop :=
  (after (uncount k) s).raises k vec sub info info2 res v

/-- An engine instruction of thread k is issued: SR_STREAM advances for one that rounds stochastically, pointers are updated,
and the scoreboard records it (R77, R113, R233). -/
def State.issued (s : State) (k : Nat) (w : IWord) (p : Prep) : State :=
  after (record k w p.work) ((if p.sr then after (nextStream k) s else s).putPtrs k p.ptrs)

/-- A register write is accepted: it answers to no PCIe reset, the access is granted, and no field meets a refusal cause
(R49, R306, R391). -/
def State.accepts (s : State) (r : Req) (g : Reg) (v : W64) : Prop :=
  s.hostMute r = false ∧ (∃ b, regCheck r .wr g.addr (g.width / 8) s = .ok (.ok (some (b, g))) s) ∧ s.refusal g v = none

/-- What a write of v brings to a register: as many bits as the register has, and for a Job-world write of an interrupt register
no bit of the Service world (R5, R405). -/
def State.brings (s : State) (r : Req) (g : Reg) (v : Nat) : W64 :=
  worldValue r g (s.stored g) (BitVec.ofNat 64 ((BitVec.ofNat 64 v).toNat % 2 ^ (8 * (g.width / 8))))

/-- The module acts, and a write of v to a register is accepted. -/
def State.takes (s : State) (r : Req) (g : Reg) (v : Nat) : Prop := s.live ∧ s.accepts r g (s.brings r g v)

/-- The state in which an accepted write of v has been stored: the fields that a write sets hold it, or hold it in shadow (R5,
R46, R240). -/
def State.wrote (s : State) (r : Req) (g : Reg) (v : Nat) : State := after (storeReg g (s.brings r g v)) s

/-- Registers set to 0. -/
def State.zeroed (s : State) (l : List Reg) : State := l.foldl (fun s r => s.setReg r 0) s

/-- What exec answers for a command that ends in u: the queue is as it was. -/
def State.ends (s u : State) : Host.Outcome State Fault Refusal := .next (u.queueOf s)

/-- What exec answers for a register command whose write has its effect in u: the writes of registers that it causes follow (R5,
R240). -/
def State.endsBus (s u : State) : Host.Outcome State Fault Refusal := s.ends (after writeWaitingRegs u)

/-- The shadow values of registers come into effect (R46). -/
def State.applied (s : State) (l : List Reg) : State := { s with inEffect := l.foldl (fun m g => adel m g.addr) s.inEffect }

/-- A register takes the value that a write holds in shadow for it, where there is one (R310, R352). -/
def State.unshadow (s : State) (g : Reg) : State :=
  match aget s.wordShadow g.addr with
  | some x => { s.setReg g x with wordShadow := adel s.wordShadow g.addr }
  | none => s

/-- A message is sent. -/
def State.sent (s : State) (m : Msg) : State := { s with out := m :: s.out }

/-- An answer of an interface is sent, one in MCTP after an in-band interrupt where the I3C bus may have one (R395; log entry 172). -/
def State.answers (s : State) (iface code : Nat) (data : List Nat) : State :=
  (if [vendorIface, pldmIface, spdmIface, mctpIface].contains iface && s.flag .mgmtstat 15 && s.mgmt.events.testBit 0
    then s.sent (.ibi 0xAE) else s).sent (.answer iface code data)

/-- A configuration request is answered with some bytes (R386). -/
def State.configured (s : State) (data : List Nat) : State := s.sent (.answer pcieIface 0 data)

/-- The state of a ferry that takes the header h at HEAD of its queue n (R283). -/
def State.begins (s : State) (f n : Nat) (h : List Byte) : State :=
  let q := 0x800 + 64 * f + n
  (((s.setFerry f (some ⟨q, s.qWorld q, h, 0, 0, 0, false, 0, false, s.ferryTag q, .none, [], none⟩)).setFld (fyReg f) 0 1 1).setFld
    (fyReg f) 1 6 n).setFld (fyReg f) 7 12 0

/-- A ferry has run a descriptor to its end and reaches the next one (R285, R325). -/
def nextDesc (f desc : Nat) : M Unit := do
  modify fun (s : State) => match s.ferry f with
    | some m => { s.setFerry f (some { m with desc := m.desc + 1, row := 0, crc := 0, crcBad := false, hold := .none }) with
        epUnits := adel s.epUnits f }
    | none => s
  wrf (fyReg f) 7 12 (desc + 1)
  ferryPeek f

/-- The state in which a running invalidation has taken out of the range caches, grove TLBs and walk caches what it meets, and
has marked the engine instructions whose operands that translated (R301). -/
def State.invalidated (s : State) : State :=
  let out (e : TlbEntry) : Bool := !e.ats && s.invMeets e.world (e.va % 2 ^ 57) (e.va % 2 ^ 57 + e.len - 1)
  let t := (s.markInval (s.allTlb.filter out)).dropTlb out
  { t with walks := t.walks.map fun (e : Nat × List WalkEnt) => (e.1, e.2.filter fun w =>
      !t.invMeets w.world (w.tag * pageSize w.level) (w.tag * pageSize w.level + pageSize w.level - 1)) }

/-- Entry i of the tide table, of an action, is armed and due: its time has come, no entry comes before it, 4 ticks have passed since
the one before, and the tide unit is not held for its quiescent fields (R48, R351, R353). -/
def State.due (s : State) (i act fire base : Nat) : Prop :=
  aget s.tide.armed i = some (fire, base) ∧ s.flag .ttCtrl 0 = true ∧ s.ttAct i = act ∧ max base s.tide.next ≤ s.tideNow ∧
    s.ttTurn i base = true ∧ s.tideHeld = false

/-- The state in which a due entry has fired: it is disarmed, the next may fire 4 ticks later, its deadline is pending when it has one,
with the number of the self-test slice that it starts, and more than 64 ticks of delay count (R351, R353, R355). -/
def State.fired (s : State) (i act fire base : Nat) : State :=
  let dl := s.ttField i 1 32 32
  let u := { s with tide := { s.tide with
    armed := adel s.tide.armed i
    next := max base s.tide.next + 4
    pend := if dl = 0 then s.tide.pend else s.tide.pend ++
      [(⟨i, fire, fire + dl, act, s.ttSnap act (s.ttQueues i) (s.ttField i 2 0 48) (s.bistNumber i)⟩ : Pend)] } }
  if base + 64 < max base s.tide.next then u.satFld .ttStat 32 16 else u

/-- A landing carries flits: it is up and does not retrain (R361, R362). -/
def State.flows (s : State) (l : Nat) : Prop := s.landUp l = true ∧ (s.link l).retrain = false

/-- A packet arrives for this part on a landing that carries traffic and is not fenced, with its CRC right (R369, R433). -/
def State.receives (s : State) (l : Nat) (p : Packet) : Prop :=
  s.flows l ∧ s.flag .landFence l = false ∧ p.dpart.toNat = s.partId ∧ pktCrc p = p.crc.toNat

/-- A request that arrives is served: it is of the Service world, or its job has not been drained (R249); and no REDUCE that waits
comes before it (R380). -/
def State.serves (s : State) (l : Nat) (p : Packet) : Prop :=
  s.receives l p ∧ (p.world = true ∨ s.job.drained = false) ∧
    (p.type = 4 → ∀ e ∈ (s.link l).inq, e.1.type = 4 → samePlace p e.1 = false)

/-- The state in which a landing has learned its peer and DELAY, counts flits from the start again, and has told the peer its own
identity; a pair landing takes the partner's journal from its start (R359, R360, R383). -/
def State.met (s : State) (l : Nat) (p : PeerInfo) : State :=
  let u := (after (learnPeer l p.info) s).setFld (.tideLink l) 5 16 (delayOf p.exchanges)
  let u := u.setLink l (u.link l).cleared
  let u := if u.pairLanding = some l then { u with replica := { u.replica with next := none, recs := [], early := [] } } else u
  u.sent (.train l (u.trainInfo l))

/-- A landing that trains, or is DOWN, has met its peer: it is MISWIRED when it was DOWN and finds another peer; else it is ACTIVE, or
DEGRADED after DOWN with fewer than four lanes, and its bundle is judged; then what waits is sent (R359, R360, R362). -/
def State.trained (s : State) (l : Nat) (p : PeerInfo) : State :=
  let u := s.met l p
  let down := s.landState l = 4
  let v := if down ∧ s.fld (.landStatus l) 16 16 ≠ p.info.part.toNat then after (setLandState l 5) u
    else after (judgeBundle l) (after (setLandState l (if down ∧ laneCount p.info.lanes.toNat < 4 then 3 else 2)) u)
  after (Sys2Proof.Machine.flows l) v

/-- A queue's landing descriptor has been taken in u, first of its packets still to be sent: the landing's next visit is to a later
queue (R373, R374). -/
def State.taken (u : State) (l q : Nat) (d : List Byte) : State :=
  let v : State := { u with turns := awrite 0 u.turns (72 + l) (q + 1) }
  v.setLink l { v.link l with runs := (v.link l).runs ++ [⟨q, d, 0, 0, false, 0, false, none, 0xFFFF⟩] }

/-- A packet of a landing's descriptor no longer awaits its reply. -/
def State.replied (s : State) (l tid : Nat) : State :=
  s.setLink l { s.link l with await := (s.link l).await.filter fun x => x.tid != tid }

end Sys2Proof.Machine
end

