-- ==== Sys2Proof/Certificates/Slice0/Obligations.lean ====
section
/-! DEFINITION. The statements about the model. -/

open Sys2Proof Sys2Proof.Machine

/-- A step with a command waiting is that command's effect on the state with the queue's rest. -/
def Obligations.StepRunsTheFrontCommand : Prop :=
  ∀ (c : Instr) (r : List Instr) (s : State), s.pending = c :: r → step s = exec c { s with pending := r }

/-- A step with no command waiting is one cycle of TIDE_REF (the model's choice, log entry 2). -/
def Obligations.EmptyQueueIdlesOneTick : Prop := ∀ s : State, s.pending = [] → step s = .next s.tick

/-- Every command answers a next state, and none changes the queue of waiting commands (the model's choice, log entry 1). -/
def Obligations.EveryCommandAnswersAndKeepsTheQueue : Prop :=
  ∀ (c : Instr) (s : State), ∃ t, exec c s = .next t ∧ t.pending = s.pending

/-- Every step keeps memory in canonical form. -/
def Obligations.StepKeepsMemoryCanonical : Prop :=
  ∀ s t : State, s.memWf = true → step s = .next t → t.memWf = true

/-- Memory after reset is in canonical form. -/
def Obligations.ResetMemoryIsCanonical : Prop := State.reset.memWf = true

/-- Every step keeps the waiting commands well formed. -/
def Obligations.StepKeepsWaitingCommandsWellFormed : Prop :=
  ∀ s t : State, (∀ c ∈ s.pending, c.wf = true) → step s = .next t → ∀ c ∈ t.pending, c.wf = true

/-- A store of bytes changes exactly those bytes: byte x reads as the byte stored there, and as before outside them. -/
def Obligations.StoreChangesItsBytesOnly : Prop :=
  ∀ (s : State) (a : Nat) (bs : List Byte) (x : Nat),
    (s.store a bs).byte x = if a ≤ x ∧ x < a + bs.length then bs.getD (x - a) 0 else s.byte x

/-- The "arith" column for an addition of n bits: the value is the sum modulo 2^n; Z, N, C and V are those of R101. -/
def Obligations.AdditionFollowsTheArithColumn : Prop :=
  ∀ n a b c : Nat, 0 < n → a < 2 ^ n → b < 2 ^ n → c ≤ 1 →
    (aluAdd n a b c).v = (a + b + c) % 2 ^ n
    ∧ ((aluAdd n a b c).z = true ↔ (aluAdd n a b c).v = 0)
    ∧ ((aluAdd n a b c).n = true ↔ 2 ^ (n - 1) ≤ (aluAdd n a b c).v)
    ∧ ((aluAdd n a b c).c = true ↔ 2 ^ n ≤ a + b + c)
    ∧ ((aluAdd n a b c).o = true ↔
        ¬ (-(2 : Int) ^ (n - 1) ≤ sInt n a + sInt n b + c ∧ sInt n a + sInt n b + c < (2 : Int) ^ (n - 1)))

/-- The "arith" column for a subtraction of n bits. -/
def Obligations.SubtractionFollowsTheArithColumn : Prop :=
  ∀ n a b c : Nat, 0 < n → a < 2 ^ n → b < 2 ^ n → c ≤ 1 →
    ((aluSub n a b c).v : Int) = ((a : Int) - b - c) % 2 ^ n
    ∧ ((aluSub n a b c).z = true ↔ (aluSub n a b c).v = 0)
    ∧ ((aluSub n a b c).n = true ↔ 2 ^ (n - 1) ≤ (aluSub n a b c).v)
    ∧ ((aluSub n a b c).c = true ↔ a < b + c)
    ∧ ((aluSub n a b c).o = true ↔
        ¬ (-(2 : Int) ^ (n - 1) ≤ sInt n a - sInt n b - c ∧ sInt n a - sInt n b - c < (2 : Int) ^ (n - 1)))

/-- The interrupt that is taken is the lowest pending, enabled bit of a source of the thread's world, with IE 1. -/
def Obligations.LowestInterruptOfTheWorldIsTaken : Prop :=
  ∀ (s : State) (k b : Nat), s.takable k = some b ↔
    bit (s.flags k) 32 = true
    ∧ b ∈ (if s.thrWorld k then [8, 9, 10] else [0, 1])
    ∧ s.flag (.intPend (k / 4) (k % 4)) b = true ∧ s.flag (.intEn (k / 4) (k % 4)) b = true
    ∧ ∀ i ∈ (if s.thrWorld k then [8, 9, 10] else [0, 1]), i < b →
        ¬ (s.flag (.intPend (k / 4) (k % 4)) i = true ∧ s.flag (.intEn (k / 4) (k % 4)) i = true)

/-- The oldest product of a thread lands in MH and ML, and leaves the thread's list of products under way; FLAGS and PC
stay. -/
def Obligations.OldestProductLandsInMhAndMl : Prop :=
  ∀ (t : Tid) (s : State) (age : Nat) (p : BitVec 128) (r : List (Nat × BitVec 128)),
    s.power.on = true → s.power.held = false → (s.thread t.k).muls = (age, p) :: r →
    ∃ u, exec (.mulDelivery t) s = .next u
      ∧ u.reg (thr t.k 0x11) = (p >>> 64).setWidth 64 ∧ u.reg (thr t.k 0x12) = p.setWidth 64
      ∧ (u.thread t.k).muls = r
      ∧ u.flags t.k = s.flags t.k ∧ u.pc t.k = s.pc t.k ∧ u.mem = s.mem

/-- A condition code of a branch holds when Table: Condition codes says so. -/
def Obligations.ConditionCodesFollowTheTable : Prop :=
  ∀ (f : W64) (c : Nat), c < 16 →
    condHolds f c = ([bit f 0, !bit f 0, bit f 1 != bit f 3, bit f 1 == bit f 3, !bit f 0 && bit f 1 == bit f 3,
      bit f 0 || bit f 1 != bit f 3, bit f 2, !bit f 2, !bit f 2 && !bit f 0, bit f 2 || bit f 0, bit f 1, !bit f 1,
      bit f 3, !bit f 3, true, !bit f 1 && !bit f 0 && !bit f 3].getD c false)

/-- Each draw of a lane's generator steps its state by shifts and exclusive ors, and takes the top k bits of the state times a
constant (R75). -/
def Obligations.StochasticDrawsFollowTheGenerator : Prop :=
  ∀ (k n : Nat) (x : W64),
    let a := x ^^^ (x >>> 12)
    let b := a ^^^ (a <<< 25)
    let y := b ^^^ (b >>> 27)
    srDraw k 0 x = ((y * 0x2545_F491_4F6C_DD1D) >>> (64 - k)).toNat ∧ srDraw k (n + 1) x = srDraw k n y

/-- A BITREV operand of width 1 to 32 addresses Pm + brev_w(Pn mod 2^w) * z and updates Pn to (Pn + 1) mod 2^w; a width of 0 or
above 32 raises ILLEGAL_OPERAND (R95); the address must be canonical (R90). -/
def Obligations.BitrevOperandFollowsItsWidth : Prop :=
  ∀ (w : IWord) (p : Ptrs) (x : W32) (z i2 : Nat),
    let n := field x 28 4
    let m := field x 24 4
    let k := field x 18 6
    ((k = 0 ∨ 32 < k) → operand w p 10 x z i2 = .error (flt 1 0 w.base.toNat 0)) ∧
    (1 ≤ k → k ≤ 32 → canonical (wrap 64 ((p.get m : Int) + (brev k (p.get n % 2 ^ k) * z : Nat))) = true →
      operand w p 10 x z i2 =
        .ok (.mem (wrap 64 ((p.get m : Int) + (brev k (p.get n % 2 ^ k) * z : Nat))) false,
          p.set n ((p.get n % 2 ^ k + 1) % 2 ^ k : Nat)))

/-- Rule i of a table takes part in an access whose first byte it covers (R308). -/
def ruleCovers (s : State) (b : Blk) (k i first : Nat) : Prop :=
  bit (s.reg (.accRule b k i 1)) 63 = true ∧ (s.reg (.accRule b k i 0)).toNat ≤ first ∧
    first ≤ (s.reg (.accRule b k i 1)).toNat % 2 ^ 52

/-- The evaluation of an access table: group 0xFF is denied with cause 4; with no rule that covers the first byte the cause is 1;
else the lowest such rule decides: 3 where its last byte does not cover the access, and otherwise its bit of the world, direction
and group grants, or denies with 2. An atomic must pass both ways (R308). -/
def Obligations.AccessTableDecidesByItsLowestRule : Prop :=
  ∀ (s : State) (sel : Nat) (r : Req) (write : Bool) (first last : Nat),
    (s.group r.master.toNat = 0xFF → s.aclDir sel r write first last = some 4) ∧
    (s.group r.master.toNat < 32 → (∀ i < 64, ¬ ruleCovers s (tableOf sel).1 (tableOf sel).2 i first) →
      s.aclDir sel r write first last = some 1) ∧
    (∀ i < 64, s.group r.master.toNat < 32 → ruleCovers s (tableOf sel).1 (tableOf sel).2 i first →
      (∀ j < i, ¬ ruleCovers s (tableOf sel).1 (tableOf sel).2 j first) →
      s.aclDir sel r write first last =
        if (s.reg (.accRule (tableOf sel).1 (tableOf sel).2 i 1)).toNat % 2 ^ 52 < last then some 3
        else if bit (s.reg (.accRule (tableOf sel).1 (tableOf sel).2 i (if r.world then 3 else 2)))
            ((if write then 32 else 0) + s.group r.master.toNat) then none
        else some 2) ∧
    (r.master ≠ 0x180 → (s.aclSel sel r .atomic first last = none ↔
      s.aclDir sel r false first last = none ∧ s.aclDir sel r true first last = none))

/-- The binary integer instructions and what each computes of n-bit operands a and b and the carry c (R101, R102). -/
def binaryRows : List ((Tid → IWord → Instr) × (Nat → Nat → Nat → Nat → Alu)) :=
  [(.add, fun n a b _ => aluAdd n a b 0), (.sub, fun n a b _ => aluSub n a b 0), (.adc, aluAdd), (.sbb, aluSub),
   (.and, fun n a b _ => aluLogic n (a &&& b)), (.or, fun n a b _ => aluLogic n (a ||| b)),
   (.xor, fun n a b _ => aluLogic n (a ^^^ b)), (.andn, fun n a b _ => aluLogic n (andNot n a b)),
   (.shl, fun n a b _ => aluShl n a (b % n)), (.shr, fun n a b _ => aluShr n a (b % n)),
   (.sar, fun n a b _ => aluSar n a (b % n)), (.rol, fun n a b _ => aluRol n a (b % n)),
   (.ror, fun n a b _ => aluRor n a (b % n)), (.min, fun n a b _ => aluLogic n (if sLt n b a then b else a)),
   (.max, fun n a b _ => aluLogic n (if sLt n a b then b else a)), (.minu, fun n a b _ => aluLogic n (Nat.min a b)),
   (.maxu, fun n a b _ => aluLogic n (Nat.max a b))]

/-- A binary integer instruction that starts, with operands that can be read and a destination that can be written, stores its
result, sets Z, N, C and V of FLAGS and updates pointers; it then completes. -/
def binaryIntegerInstructionsComplete : Prop :=
  ∀ e ∈ binaryRows, ∀ (t : Tid) (w : IWord) (s u v : State) (o : Opnds) (a b : Nat) (l : Place),
    s.issues t w ⟨memSlot, memSlot, immSlot⟩ (plain w) true (zOf w) (zOf w) (zOf w) 0 o →
    reads2To t.k (zOf w) o (s.begun t.k) = .ok (a, b, l) u →
    writePlace t.k l (e.2 (8 * zOf w) a b (b2n (bit (u.flags t.k) 2))).v u = .ok () v →
    exec (e.1 t w) s = s.done v t.k 16 o.p [(0x10, (e.2 (8 * zOf w) a b (b2n (bit (u.flags t.k) 2))).flags (u.flags t.k))]

/-- CMP and TST set FLAGS from their operands and store nothing. -/
def compareInstructionsComplete : Prop :=
  ∀ e ∈ ([(.cmp, fun n a b => aluSub n a b 0), (.tst, fun n a b => aluLogic n (a &&& b))] :
      List ((Tid → IWord → Instr) × (Nat → Nat → Nat → Alu))),
    ∀ (t : Tid) (w : IWord) (s u : State) (o : Opnds) (a b : Nat),
    s.issues t w ⟨noSlot, memSlot, immSlot⟩ (plain w) true (zOf w) (zOf w) (zOf w) 0 o →
    reads2 t.k (zOf w) o (s.begun t.k) = .ok (a, b) u →
    exec (e.1 t w) s = s.done u t.k 12 o.p [(0x10, (e.2 (8 * zOf w) a b).flags (u.flags t.k))]

/-- The unary integer instructions: legality of their options, and what each computes. -/
def unaryRows : List ((Tid → IWord → Instr) × (IWord → Bool) × (IWord → Nat → Nat → Alu)) :=
  [(.neg, plain, fun _ n a => aluSub n 0 a 0), (.not, plain, fun _ n a => aluLogic n (a ^^^ (2 ^ n - 1))),
   (.par, plain, fun _ n a => aluLogic n (popc n a % 2)), (.popc, plain, fun _ n a => aluLogic n (popc n a)),
   (.clz, plain, fun _ n a => aluLogic n (clz n a)), (.ctz, plain, fun _ n a => aluLogic n (ctz n a)),
   (.brev, fun w => plain w && 7 ≤ w.minor && w.minor < 8 * zOf w, fun w n a => aluLogic n (brev (w.minor + 1) a))]

/-- A unary integer instruction stores its result and sets Z, N, C and V. -/
def unaryIntegerInstructionsComplete : Prop :=
  ∀ e ∈ unaryRows, ∀ (t : Tid) (w : IWord) (s u v : State) (o : Opnds) (a : Nat) (l : Place),
    s.issues t w ⟨memSlot, memSlot, noSlot⟩ (e.2.1 w) true (zOf w) (zOf w) (zOf w) 0 o →
    reads1To t.k (zOf w) o (s.begun t.k) = .ok (a, l) u →
    writePlace t.k l (e.2.2 w (8 * zOf w) a).v u = .ok () v →
    exec (e.1 t w) s = s.done v t.k 12 o.p [(0x10, (e.2.2 w (8 * zOf w) a).flags (v.flags t.k))]

/-- The moves: slots, legality, bytes of the source, and what is stored of it. -/
def moveRows : List ((Tid → IWord → Instr) × Slots × (IWord → Bool) × (IWord → Nat) × (IWord → Nat → Nat)) :=
  [(.mov, ⟨memSlot, immSlot, noSlot⟩, plain, zOf, fun _ a => a),
   (.zext, ⟨memSlot, memSlot, noSlot⟩, fun w => plain w && w.minor % 4 < w.size, fun w => 2 ^ (w.minor % 4), fun _ a => a),
   (.sext, ⟨memSlot, memSlot, noSlot⟩, fun w => plain w && w.minor % 4 < w.size, fun w => 2 ^ (w.minor % 4),
     fun w a => wrap 64 (sInt (8 * 2 ^ (w.minor % 4)) a))]

/-- MOV, ZEXT and SEXT store their source, extended, with its poison; FLAGS stays. -/
def movesComplete : Prop :=
  ∀ e ∈ moveRows, ∀ (t : Tid) (w : IWord) (s u v : State) (o : Opnds) (a : Nat) (p : Option Nat) (l : Place),
    s.issues t w e.2.1 (e.2.2.1 w) true (zOf w) (e.2.2.2.1 w) (zOf w) 0 o →
    carries t.k (e.2.2.2.1 w) (zOf w) o (s.begun t.k) = .ok ((a, p), l) u →
    writeP t.k l (e.2.2.2.2 w a % 2 ^ (8 * zOf w)) p u = .ok () v →
    exec (e.1 t w) s = s.done v t.k 12 o.p []

/-- SWAP, AADD, AAND and AOR store the old value of their target at b, and then f [d] a at the target; poison of the target is carried
to both, that of a to the target (R102, R103, R425). -/
def atomicsComplete : Prop :=
  ∀ e ∈ ([(.swap, fun _ a => a), (.aadd, fun d a => d + a), (.aand, fun d a => d &&& a), (.aor, fun d a => d ||| a)] :
      List ((Tid → IWord → Instr) × (Nat → Nat → Nat))),
    ∀ (t : Tid) (w : IWord) (s u v x : State) (o : Opnds) (a old : Nat) (p q : Option Nat) (b d : Place),
    s.issues t w ⟨memSlot, immSlot, memSlot⟩ (plain w && 2 ≤ w.size) true (zOf w) (zOf w) (zOf w) 0 o →
    atomReads t.k w (zOf w) o (s.begun t.k) = .ok ((a, p), (old, q), b, d) u →
    writeP t.k b old q u = .ok () v → atomWrite t.k d (toLE (e.2 old a) (zOf w)) (p.or q).isSome v = .ok () x →
    exec (e.1 t w) s = s.done x t.k 16 o.p []

/-- What CAS checks and reads: a and its place, b with its poison, the old value of [d] with its poison, and the place of [d]. -/
def casReads (k : Nat) (w : IWord) (z : Nat) (o : Opnds) : M (Nat × Place × (Nat × Option Nat) × (Nat × Option Nat) × Place) := do
  let a ← srcOf k o.a z
  let la ← placeOf k o.a .write z
  let b ← srcOf k o.b z
  let d ← atomPlace k w o.d z
  let a ← readSrc k a
  let b ← readP k b
  let old ← atomRead k d
  return (a, la, b, old, d)

/-- CAS: where [d] equals a, b is stored at d with its poison and Z is 1; otherwise [d] is stored at a and Z is 0 (R103). -/
def compareAndSwapCompletes : Prop :=
  ∀ (t : Tid) (w : IWord) (s u v : State) (o : Opnds) (a b old : Nat) (p : Option Nat) (la d : Place),
    s.issues t w ⟨memSlot, memSlot, memSlot⟩ (plain w && 2 ≤ w.size) true (zOf w) (zOf w) (zOf w) 0 o →
    casReads t.k w (zOf w) o (s.begun t.k) = .ok (a, la, (b, p), (old, none), d) u →
    (if old = a then atomWrite t.k d (toLE b (zOf w)) p.isSome else writePlace t.k la old) u = .ok () v →
    exec (.cas t w) s = s.done v t.k 16 o.p [(0x10, setField (v.flags t.k) 0 1 (b2n (old = a)))]

/-- MUL, MULU and MULS put the exact product of their operands last among the thread's products under way (R106). -/
def multipliesStartTheirProduct : Prop :=
  ∀ e ∈ ([(.mul, true, true), (.mulu, false, false), (.muls, true, false)] : List ((Tid → IWord → Instr) × Bool × Bool)),
    ∀ (t : Tid) (w : IWord) (s u : State) (o : Opnds) (a b : Nat),
    s.issues t w ⟨noSlot, memSlot, immSlot⟩ (plain w) true (zOf w) (zOf w) (zOf w) 0 o →
    reads2 t.k (zOf w) o (s.begun t.k) = .ok (a, b) u →
    exec (e.1 t w) s = s.done (u.setThread t.k { u.thread t.k with
      muls := (u.thread t.k).muls ++
        [(0, BitVec.ofInt 128 (ext64 e.2.1 (8 * zOf w) a * ext64 e.2.2 (8 * zOf w) b))] }) t.k 12 o.p []

/-- DIV and DIVU by a divisor that is not 0, with no divide under way, start the quotient and remainder, both truncated towards
zero (R107). -/
def dividesStartTheirQuotient : Prop :=
  ∀ e ∈ ([(.div, true), (.divu, false)] : List ((Tid → IWord → Instr) × Bool)),
    ∀ (t : Tid) (w : IWord) (s u : State) (o : Opnds) (a b : Nat),
    s.issues t w ⟨noSlot, memSlot, immSlot⟩ (plain w) true (zOf w) (zOf w) (zOf w) 0 o →
    reads2 t.k (zOf w) o (s.begun t.k) = .ok (a, b) u → ext64 e.2 (8 * zOf w) b ≠ 0 → (u.thread t.k).div = none →
    exec (e.1 t w) s = s.done (u.setThread t.k { u.thread t.k with
      div := some (0, BitVec.ofInt 64 ((ext64 e.2 (8 * zOf w) a).tdiv (ext64 e.2 (8 * zOf w) b)),
        BitVec.ofInt 64 ((ext64 e.2 (8 * zOf w) a).tmod (ext64 e.2 (8 * zOf w) b))) }) t.k 12 o.p []

/-- The CRC instructions: legality, bytes of the destination, and what CRCPOLY p, the running value c and the bytes give. -/
def crcRows : List ((Tid → IWord → Instr) × (IWord → Bool) × Nat × (IWord → Nat → Nat → List Byte → Nat)) :=
  [(.crc32c, plain, 4, fun _ _ c l => crc32c c l), (.crc64, plain, 8, fun _ _ c l => crc64 c l),
   (.crcp, fun w => !bit w.base 12 && w.rm ≤ 1 && 7 ≤ w.minor, 8, fun w p c l =>
     crcBytes (w.minor + 1) (w.rm = 1) (p % 2 ^ (w.minor + 1)) c l)]

/-- What a CRC instruction checks and reads. -/
def crcReads (k z zd : Nat) (o : Opnds) : M ((Nat × Option Nat) × (Nat × Option Nat) × Place) := do
  let a ← srcOf k o.a z
  let d ← srcOf k o.d zd
  let l ← placeOf k o.d .write zd
  let x ← readP k a
  let c ← readP k d
  return (x, c, l)

/-- A CRC instruction folds the bytes of a, lowest first, into d (R112). -/
def Obligations.CrcInstructionsComplete : Prop :=
  ∀ e ∈ crcRows, ∀ (t : Tid) (w : IWord) (s u v : State) (o : Opnds) (a c : Nat) (p q : Option Nat) (l : Place),
    s.issues t w ⟨memSlot, memSlot, noSlot⟩ (e.2.1 w) true e.2.2.1 (zOf w) (zOf w) 0 o →
    crcReads t.k (zOf w) e.2.2.1 o (s.begun t.k) = .ok ((a, p), (c, q), l) u →
    writeP t.k l (e.2.2.2 w (u.reg (thr t.k 0x1A)).toNat c (toLE a (zOf w))) (p.or q) u = .ok () v →
    exec (e.1 t w) s = s.done v t.k 12 o.p []

/-- The floating-point instructions: slots, legality, whether d is an operand, and the exact value and conditions of a, b and
d (R80, R104). -/
def floatRows : List ((Tid → IWord → Instr) × Slots × (IWord → Bool) × Bool × (Bool → Val → Val → Val → Val × Nat)) :=
  [(.fadd, ⟨memSlot, memSlot, immSlot⟩, roundsOk, false, fun r a b _ => a.add r b),
   (.fsub, ⟨memSlot, memSlot, immSlot⟩, roundsOk, false, fun r a b _ => a.add r b.neg),
   (.fmul, ⟨memSlot, memSlot, immSlot⟩, roundsOk, false, fun _ a b _ => a.mul b),
   (.fdiv, ⟨memSlot, memSlot, immSlot⟩, roundsOk, false, fun _ a b _ => a.div b),
   (.fsqrt, ⟨memSlot, immSlot, noSlot⟩, roundsOk, false, fun _ a _ _ => a.sqrt),
   (.fma, ⟨memSlot, memSlot, immSlot⟩, roundsOk, true, fun r a b d => a.fma r b d),
   (.fmin, ⟨memSlot, memSlot, immSlot⟩, plain, false, fun _ a b _ => a.min b),
   (.fmax, ⟨memSlot, memSlot, immSlot⟩, plain, false, fun _ a b _ => a.max b)]

/-- What a floating-point instruction checks and reads: its values, whether they are poisoned, the place of d, and its rounding. -/
def floatReads (k : Nat) (w : IWord) (o : Opnds) (rw : Bool) : M ((Val × Val × Val) × Option Nat × Place × (Rnd × Nat)) := do
  let a ← fpVal k w o.a
  let b ← if o.b = .none then pure (pure (.fin false 0 1, none)) else fpVal k w o.b
  let d ← if rw then fpVal k w o.d else pure (pure (.fin false 0 1, none))
  let l ← placeOf k o.d .write (zOf w)
  let a ← a
  let b ← b
  let d ← d
  return ((a.1, b.1, d.1), a.2.or (b.2.or d.2), l, ← scalarRnd k w)

/-- A floating-point instruction stores the exact result rounded to the format of SIZE, then reports its conditions; of poison it stores
poison, and reports none (R104, R415, R425; that no condition is reported of poison is the model's choice, log entry 171). -/
def floatInstructionsComplete : Prop :=
  ∀ e ∈ floatRows, ∀ (t : Tid) (w : IWord) (s u v x : State) (o : Opnds) (a b d : Val) (q : Option Nat) (l : Place) (p : Rnd) (r : Nat),
    s.issues t w e.2.1 (e.2.2.1 w && 2 ≤ w.size) true (zOf w) (zOf w) (zOf w) 0 o →
    floatReads t.k w o e.2.2.2.1 (s.begun t.k) = .ok ((a, b, d), q, l, p, r) u →
    writeP t.k l ((sizeFmt w).fin p r (e.2.2.2.2 p.rdn a b d)).1 q u = .ok () v →
    whenM q.isNone (reportHere t.k ((sizeFmt w).fin p r (e.2.2.2.2 p.rdn a b d)).2) (v.putPtrs t.k o.p) = .ok () x →
    exec (e.1 t w) s = .next ((x.retired t.k e.2.1.len (bit (s.flags t.k) 29) []).queueOf s)

/-- FCMP sets Z where its operands are equal, N where a is less, V where one is a NaN, and C to 0 (R100). -/
def floatCompareCompletes : Prop :=
  ∀ (t : Tid) (w : IWord) (s u x : State) (o : Opnds) (a b : Val),
    s.issues t w ⟨noSlot, memSlot, immSlot⟩ (plain w && 2 ≤ w.size) true (zOf w) (zOf w) (zOf w) 0 o →
    (do
      let a ← fpVal t.k w o.a
      let b ← fpVal t.k w o.b
      return (← a, ← b) : M ((Val × Option Nat) × (Val × Option Nat))) (s.begun t.k) = .ok ((a, none), (b, none)) u →
    reportHere t.k (sigs [a, b]) (u.putPtrs t.k o.p) = .ok () x →
    exec (.fcmp t w) s = .next ((x.retired t.k 12 (bit (s.flags t.k) 29)
      [(0x10, setZNCV (x.flags t.k) (a.eqv b) (a.lt b) false (a.isNan || b.isNan))]).queueOf s)

/-- CVT stores its source, with its poison, converted from the format of bits [19:16] to that of bits [23:20] (R104, R425). -/
def convertCompletes : Prop :=
  ∀ (t : Tid) (w : IWord) (s u v x : State) (o : Opnds) (a : Nat) (q : Option Nat) (l : Place) (p : Rnd) (r : Nat),
    s.issues t w ⟨memSlot, memSlot, noSlot⟩ (roundsOk w && cvtFmt (field w.base 20 4) && cvtFmt (field w.base 16 4)) true
      (codeBits (field w.base 20 4) / 8) (codeBits (field w.base 16 4) / 8) (codeBits (field w.base 16 4) / 8) 0 o →
    (do
      let a ← srcOf t.k o.a (codeBits (field w.base 16 4) / 8)
      let l ← placeOf t.k o.d .write (codeBits (field w.base 20 4) / 8)
      let a ← readP t.k a
      return (a, l, ← scalarRnd t.k w) : M ((Nat × Option Nat) × Place × Rnd × Nat)) (s.begun t.k) = .ok ((a, q), l, p, r) u →
    writeP t.k l (codeFrom (field w.base 16 4) (field w.base 20 4) p r
      (elemVal (field w.base 16 4) 1 (toLE a (codeBits (field w.base 16 4) / 8)) [] 0).1).1 q u = .ok () v →
    whenM q.isNone (reportHere t.k (codeFrom (field w.base 16 4) (field w.base 20 4) p r
      (elemVal (field w.base 16 4) 1 (toLE a (codeBits (field w.base 16 4) / 8)) [] 0).1).2) (v.putPtrs t.k o.p) = .ok () x →
    exec (.cvt t w) s = .next ((x.retired t.k 12 (bit (s.flags t.k) 29) []).queueOf s)

/-- The integer instructions complete: binary, compare, unary and move instructions. -/
def Obligations.IntegerInstructionsComplete : Prop :=
  binaryIntegerInstructionsComplete ∧ compareInstructionsComplete ∧ unaryIntegerInstructionsComplete ∧ movesComplete

/-- The atomic instructions complete. -/
def Obligations.AtomicInstructionsComplete : Prop :=
  atomicsComplete ∧ compareAndSwapCompletes

/-- Multiplies and divides start their results. -/
def Obligations.MultipliesAndDividesStart : Prop :=
  multipliesStartTheirProduct ∧ dividesStartTheirQuotient

/-- The floating-point instructions complete. -/
def Obligations.FloatingPointInstructionsComplete : Prop :=
  floatInstructionsComplete ∧ floatCompareCompletes ∧ convertCompletes

/-- NOP and FENCE.MEM only go on to the next instruction; in this model accesses are performed in order (R314). -/
def nopAndMemoryFenceComplete : Prop :=
  ∀ c ∈ ([.nop, .fenceMem] : List (Tid → IWord → Instr)), ∀ (t : Tid) (w : IWord) (s : State) (o : Opnds),
    s.issues t w noSlots (plain w) false (zOf w) (zOf w) (zOf w) 0 o →
    exec (c t w) s = .next (((s.begun t.k).retired t.k 4 (bit (s.flags t.k) 29) []).queueOf s)

/-- FENCE.ENG goes on once no engine instruction of the thread is under way (R408). -/
def engineFenceCompletes : Prop :=
  ∀ (t : Tid) (w : IWord) (s : State) (o : Opnds),
    s.issues t w noSlots (plain w) false (zOf w) (zOf w) (zOf w) 0 o → (s.begun t.k).engBusy t.k = false →
    exec (.fenceEng t w) s = .next (((s.begun t.k).retired t.k 4 (bit (s.flags t.k) 29) []).queueOf s)

/-- BR, and BCC where its condition holds, go to their target, which must be a canonical multiple of 4; BCC goes on to the next
instruction where its condition does not hold (R100). -/
def branchesComplete : Prop :=
  ∀ (t : Tid) (w : IWord) (s : State) (o : Opnds) (a : Nat),
    (s.begun t.k).targetOf t.k o.a = some a → canonical a = true → a % 4 = 0 →
    (s.issues t w oneSlot (plain w) false (zOf w) (zOf w) (zOf w) 2 o →
      exec (.br t w) s = s.goesTo (s.begun t.k) t.k a o.p []) ∧
    (s.issues t w oneSlot (plain w && w.minor < 16) false (zOf w) (zOf w) (zOf w) 2 o →
      exec (.bcc t w) s =
        if condHolds (((s.begun t.k).putPtrs t.k o.p).flags t.k) w.minor then s.goesTo (s.begun t.k) t.k a o.p []
        else s.done (s.begun t.k) t.k 8 o.p [])

/-- CALL stores the address of the next instruction below SP, and goes to its target with SP 8 lower. -/
def callCompletes : Prop :=
  ∀ (t : Tid) (w : IWord) (s u v : State) (o : Opnds) (a : Nat) (l : Place),
    s.issues t w oneSlot (plain w) false (zOf w) (zOf w) (zOf w) 2 o →
    (s.begun t.k).targetOf t.k o.a = some a → canonical a = true → a % 4 = 0 →
    canonical (below (o.p.get 15) 8) = true →
    placeOf t.k (.mem (below (o.p.get 15) 8) false) .write 8 (s.begun t.k) = .ok l u →
    writePlace t.k l (above (u.pc t.k) 8) u = .ok () v →
    exec (.call t w) s = s.goesTo v t.k a (o.p.set 15 (below (o.p.get 15) 8)) []

/-- RET goes to the 8-byte address at SP, with SP 8 higher. -/
def returnCompletes : Prop :=
  ∀ (t : Tid) (w : IWord) (s u v : State) (o : Opnds) (a : Nat) (l : Place),
    s.issues t w noSlots (plain w) false (zOf w) (zOf w) (zOf w) 0 o → canonical (o.p.get 15) = true →
    placeOf t.k (.mem (o.p.get 15) false) .read 8 (s.begun t.k) = .ok l u → readSrc t.k (.at l) u = .ok a v →
    canonical a = true → a % 4 = 0 →
    exec (.ret t w) s = s.goesTo v t.k a (o.p.set 15 (o.p.get 15 + 8)) []

/-- GATE through a gate that GATE_MASK opens enters the Service kernel at that gate, with INFO the effective address and the
saved PC after it; its pointer update is not made (R411). -/
def gateEntersTheServiceKernel : Prop :=
  ∀ (t : Tid) (w : IWord) (s v : State) (o : Opnds) (a : Nat),
    s.issues t w ⟨noSlot, memSlot, noSlot⟩ (plain w) false (zOf w) (zOf w) (zOf w) 0 o →
    (∀ x, o.a ≠ .imm x) → (s.begun t.k).targetOf t.k o.a = some a →
    (s.begun t.k).flag (.gateMask (t.k / 4)) w.minor = true →
    (s.begun t.k).enters t.k ⟨0x0C, w.minor, BitVec.ofNat 64 a, 0, false, false, above ((s.begun t.k).pc t.k) 8,
      some (above (va57 ((s.begun t.k).reg (.gateBase (t.k / 4))).toNat) (64 * w.minor))⟩ ((s.begun t.k).ptrs t.k) v →
    exec (.gate t w) s = .next (v.queueOf s)

/-- TRAP enters vector 0x0B with its operand as INFO and the saved PC after it (R413). -/
def trapEntersItsException : Prop :=
  ∀ (t : Tid) (w : IWord) (s u1 u v : State) (o : Opnds) (x : Src) (a : Nat),
    s.issues t w oneSlot (plain w) false (zOf w) (zOf w) (zOf w) 0 o →
    srcOf t.k o.a (zOf w) (s.begun t.k) = .ok x u1 → readSrc t.k x u1 = .ok a u →
    u.enters t.k ⟨0x0B, 0, BitVec.ofNat 64 a, 0, false, false, above (u.pc t.k) 8, none⟩ o.p v →
    exec (.trap t w) s = .next (v.queueOf s)

/-- ERET at kernel level restores PC, FLAGS, SP and REPCNT from the frame at SP and clears DF, where the frame's PC is a
multiple of 4 and not 0, its RM is at most 4, and RA, RX and REPCNT agree; a Job-world thread cannot return to the Service world,
and the handling of a double fault ends (R410, R439). -/
def eretRestoresTheFrame : Prop :=
  ∀ (t : Tid) (w : IWord) (s u v : State) (o : Opnds) (l : Place) (n : Nat),
    s.issues t w noSlots (plain w) false (zOf w) (zOf w) (zOf w) 0 o →
    bit ((s.begun t.k).flags t.k) 33 = true → (s.begun t.k).engBusy t.k = false → canonical (o.p.get 15) = true →
    placeOf t.k (.mem (o.p.get 15) false) .read 64 (s.begun t.k) = .ok l u → readSrc t.k (.at l) u = .ok n v →
    let f := toLE n 64
    let nf : W64 := BitVec.ofNat 64 (leAt f 8 8)
    (bit nf 34 = true → bit ((s.begun t.k).flags t.k) 34 = true) → leAt f 0 8 % 4 = 0 → leAt f 0 8 ≠ 0 → field nf 24 3 ≤ 4 →
    (bit nf 30 = true → bit nf 29 = true) → (bit nf 29 = true → leAt f 0x30 4 ≠ 0) →
    exec (.eret t w) s = .next ((((v.setFld (excReg t.k) 0 1 0).endDouble t.k).jumped t.k (leAt f 0 8)
      [(0x10, nf &&& flagsMask), (0x0F, BitVec.ofNat 64 (leAt f 0x10 8)), (0x19, BitVec.ofNat 64 (leAt f 0x30 4))]).queueOf s)

/-- PARK in the Service kernel leaves the thread parked, in the state of R412. -/
def parkParksTheThread : Prop :=
  ∀ (t : Tid) (w : IWord) (s : State), s.Ready t →
    bit ((s.begun t.k).flags t.k) 34 = true → bit ((s.begun t.k).flags t.k) 33 = true →
    (s.begun t.k).encodes t.k w noSlots (plain w && w.minor = 0) false → (s.begun t.k).engBusy t.k = false →
    exec (.park t w) s = .next (((((s.begun t.k).setReg (thr t.k 0x10) parkedFlags).setFld (excReg t.k) 1 1 1).unheld t.k).queueOf s)

/-- EXCEPTION_ENTRY. A fault of the instruction about to start is entered with the sub-code, INFO, INFO2 and RESUMABLE given, and the
PC of the instruction, where the boundary lets it pass; a fetch that an access table denies is reported first, and an instruction of the
reserved majors is privileged or illegal by the world (R302, R404, R408, R413). At a boundary with an ARITH pending, ARITH is
entered in its place, and with none pending an interrupt that can be taken is (R419). A fault on its way in goes on once the
thread's engine instructions have completed. GATE and DOUBLE_FAULT are no vectors of this command, and a parked thread raises none. -/
def exceptionEntryEntersTheVector : Prop :=
  ∀ (t : Tid) (vec sub : BitVec 8) (info info2 : W64) (res : Bool) (s : State), s.live →
    (∀ e v, (s.thread t.k).raised = some e → s.enters t.k ⟨e.vec, e.sub, e.info, e.info2, e.res, false, s.pc t.k, none⟩ (s.ptrs t.k) v →
      exec (.exceptionEntry t vec sub info info2 res) s = .next (v.queueOf s)) ∧
    ((s.thread t.k).raised = none → s.parked t.k = false →
      (∀ u v, vec.toNat ≤ 0x0B → vec ≠ 0x0A → s.passes t.k →
        whenM (vec.toNat = vAddress && bit info2 1 && (sub.toNat = 0x10 || sub.toNat = 0x11)) (fetchDenied t.k info.toNat) s = .ok () u →
        u.raises t.k (s.wordVector t.k vec.toNat info) sub.toNat info info2 res v →
        exec (.exceptionEntry t vec sub info info2 res) s = .next (v.queueOf s)) ∧
      (∀ v, vec.toNat ≤ 0x0B → s.atBoundary t.k = true → s.entersArith t.k v →
        exec (.exceptionEntry t vec sub info info2 res) s = .next (v.queueOf s)) ∧
      (∀ v, vec.toNat ≤ 0x0B → vec ≠ 0x0A → s.atBoundary t.k = true → s.entersIrq t.k v →
        exec (.exceptionEntry t vec sub info info2 res) s = .next (v.queueOf s))) ∧
    ((s.thread t.k).raised = none → vec ≠ 0x10 → 0x0B < vec.toNat ∨ s.parked t.k = true →
      exec (.exceptionEntry t vec sub info info2 res) s = s.ends s)

/-- TAKE_INTERRUPT, or EXCEPTION_ENTRY of vector 0x10 of a thread with no fault on its way in: at a boundary an interrupt that can be
taken is entered with vector 0x10, the interrupt as sub-code and INT_PEND as INFO; a pending ARITH is entered first; with no interrupt
that can be taken, or away from a boundary, nothing changes (R417, R418, R419). -/
def takeInterruptEntersItsVector : Prop :=
  ∀ (t : Tid) (c : Instr) (s : State), s.live →
    c = .takeInterrupt t ∨ (s.thread t.k).raised = none ∧ (∃ sub info info2 res, c = .exceptionEntry t 0x10 sub info info2 res) →
    (∀ v, s.atBoundary t.k = true → s.stalled t.k = false → s.entersIrq t.k v → exec c s = .next (v.queueOf s)) ∧
    (∀ v, s.atBoundary t.k = true → s.stalled t.k = false → s.parked t.k = false → s.takable t.k ≠ none → s.entersArith t.k v →
      exec c s = .next (v.queueOf s)) ∧
    (s.takable t.k = none ∨ s.atBoundary t.k = false ∨ s.stalled t.k = true → exec c s = s.ends s)

/-- GETR stores the low bytes of the register that MINOR selects (R84). -/
def getrStoresTheRegister : Prop :=
  ∀ (t : Tid) (w : IWord) (s u v : State) (o : Opnds) (l : Place),
    s.issues t w ⟨memSlot, noSlot, noSlot⟩ (plain w && threadSel w.minor) true (zOf w) (zOf w) (zOf w) 0 o →
    placeOf t.k o.d .write (zOf w) (s.begun t.k) = .ok l u →
    writePlace t.k l ((u.reg (thr t.k w.minor)).toNat % 2 ^ (8 * zOf w)) u = .ok () v →
    exec (.getr t w) s = s.done v t.k 8 o.p []

/-- PUTR sets the register that MINOR selects to its operand, as far as the register takes it (R99, R105). -/
def putrSetsTheRegister : Prop :=
  ∀ (t : Tid) (w : IWord) (s u1 u : State) (o : Opnds) (x : Src) (a : Nat) (y : W64),
    s.issues t w oneSlot (plain w && threadSel w.minor) (w.minor ≠ 0x10 && w.minor ≠ 0x19) (zOf w) (zOf w) (zOf w) 0 o →
    w.minor < 0x1B → srcOf t.k o.a (zOf w) (s.begun t.k) = .ok x u1 → readSrc t.k x u1 = .ok a u →
    putValue w.minor (u.flags t.k) a = some y →
    exec (.putr t w) s = s.done u t.k 8 o.p [(w.minor, y)]

/-- LEA sets the pointer register that MINOR names to the effective address, or to its immediate. -/
def leaSetsThePointer : Prop :=
  ∀ (t : Tid) (w : IWord) (s : State) (o : Opnds) (a : Nat),
    s.issues t w oneSlot (plain w && w.minor < 16) true (zOf w) (zOf w) (zOf w) 0 o →
    ((∃ x, o.a = .imm x ∧ a = x.toNat) ∨ ((∀ x, o.a ≠ .imm x) ∧ (s.begun t.k).targetOf t.k o.a = some a)) →
    exec (.lea t w) s = s.done (s.begun t.k) t.k 8 o.p [(w.minor, BitVec.ofNat 64 a)]

/-- REP and REPX with a count set REPCNT, RA, and RX for REPX alone; with a count of 0 they pass over the next instruction
(R109, R110). -/
def repeatsStart : Prop :=
  ∀ e ∈ ([(.rep, false), (.repx, true)] : List ((Tid → IWord → BitVec 32 → Instr) × Bool)),
    ∀ (t : Tid) (w : IWord) (nxt : BitVec 32) (s u1 u : State) (o : Opnds) (x : Src) (a : Nat),
    s.issues t w oneSlot (plain w && !noRepeat nxt) false (zOf w) (zOf w) (zOf w) 0 o →
    srcOf t.k o.a (zOf w) (s.begun t.k) = .ok x u1 → readSrc t.k x u1 = .ok a u → (e.2 = true → a % 2 ^ 32 ≤ 64) →
    exec (e.1 t w nxt) s =
      if a % 2 ^ 32 = 0 then
        s.goesTo u t.k (above ((u.putPtrs t.k o.p).pc t.k) (8 + wordLen nxt)) o.p []
      else
        s.done u t.k 8 o.p [(0x19, BitVec.ofNat 64 (a % 2 ^ 32)),
          (0x10, setField ((u.putPtrs t.k o.p).flags t.k) 29 2 (1 + 2 * b2n e.2))]

/-- MUL_DELIVERY puts the oldest product into MH and ML; DIV_DELIVERY puts the quotient into QRQ and the remainder into QRR;
each leaves the list of results under way (R106, R107). -/
def deliveriesLand : Prop :=
  (∀ (t : Tid) (s : State) (n : Nat) (p : BitVec 128) (r : List (Nat × BitVec 128)),
    s.live → (s.thread t.k).muls = (n, p) :: r →
    exec (.mulDelivery t) s = .next (((s.setThread t.k { s.thread t.k with muls := r }).putRegs t.k
      [(0x11, (p >>> 64).setWidth 64), (0x12, p.setWidth 64)]).queueOf s)) ∧
  (∀ (t : Tid) (s : State) (n : Nat) (q r : W64), s.live → (s.thread t.k).div = some (n, q, r) →
    exec (.divDelivery t) s = .next (((s.setThread t.k { s.thread t.k with div := none }).putRegs t.k
      [(0x13, q), (0x14, r)]).queueOf s))

/-- A compare register that is not 0 and that TIDE_NOW has reached makes its source pending, INT_TCMP_J bit 1 and INT_TCMP_S bit 9,
once for each value that it is written with (R417; the last is the model's choice, log entry 75). -/
def tideComparesMakeTheirSourcePending : Prop :=
  ∀ (t : Tid) (s : State), s.live →
    (s.reg (.intTcmpJ t.tree t.th) ≠ 0 → (s.reg (.intTcmpJ t.tree t.th)).toNat ≤ s.tideNow →
      exec (.tideJ t) s = s.ends (if (s.thread t.k).pastJ then s
        else (s.setFld (.intPend t.tree t.th) 1 1 1).setThread t.k { s.thread t.k with pastJ := true })) ∧
    (s.reg (.intTcmpS t.tree t.th) ≠ 0 → (s.reg (.intTcmpS t.tree t.th)).toNat ≤ s.tideNow →
      exec (.tideS t) s = s.ends (if (s.thread t.k).pastS then s
        else (s.setFld (.intPend t.tree t.th) 9 1 1).setThread t.k { s.thread t.k with pastS := true }))

/-- The control-flow instructions and fences complete. -/
def Obligations.ControlFlowInstructionsComplete : Prop :=
  nopAndMemoryFenceComplete ∧ engineFenceCompletes ∧ branchesComplete ∧ callCompletes ∧ returnCompletes

/-- The instructions that change world or level complete. -/
def Obligations.ModeChangesComplete : Prop :=
  gateEntersTheServiceKernel ∧ trapEntersItsException ∧ eretRestoresTheFrame ∧ parkParksTheThread

/-- Faults and interrupts enter their vectors. -/
def Obligations.ExceptionsAndInterruptsEnter : Prop :=
  exceptionEntryEntersTheVector ∧ takeInterruptEntersItsVector

/-- Register access and repeat prefixes complete. -/
def Obligations.RegisterAccessAndRepeatsComplete : Prop :=
  getrStoresTheRegister ∧ putrSetsTheRegister ∧ leaSetsThePointer ∧ repeatsStart

/-- Results under way land, and tide compares set their source. -/
def Obligations.DeliveriesAndTideSourcesLand : Prop :=
  deliveriesLand ∧ tideComparesMakeTheirSourcePending

/-- An instruction that an illegal option or slot makes an illegal instruction raises ILLEGAL_INSTR with its base word as INFO,
and changes nothing else (R88, R98): binary integer instructions here. -/
def illegalEncodingsRaiseIllegalInstruction : Prop :=
  ∀ e ∈ binaryRows, ∀ (t : Tid) (w : IWord) (s v : State), s.Ready t →
    (plain w = false ∨ (⟨memSlot, memSlot, immSlot⟩ : Slots).judge w = .illegal) →
    (s.begun t.k).faults t.k 0 0 (BitVec.ofNat 64 w.base.toNat) 0 false v →
    exec (e.1 t w) s = .next (v.queueOf s)

/-- A REP or REPX raises ILLEGAL_INSTR when the base word after it is a control instruction, a REP or REPX, a PUTR to FLAGS or
REPCNT, or a Service-only instruction (R111). -/
def Obligations.RepeatsOfTheseInstructionsAreIllegal : Prop :=
  ∀ c ∈ ([.rep, .repx] : List (Tid → IWord → BitVec 32 → Instr)), ∀ (t : Tid) (w : IWord) (nxt : BitVec 32) (s v : State),
    s.Ready t →
    ((1 ≤ field nxt 24 8 ∧ field nxt 24 8 ≤ 0x0F) ∨ field nxt 24 8 = 0x48 ∨ field nxt 24 8 = 0x49 ∨
      (field nxt 24 8 = 0x41 ∧ (field nxt 18 6 = 0x10 ∨ field nxt 18 6 = 0x19)) ∨
      (0xE0 ≤ field nxt 24 8 ∧ field nxt 24 8 ≤ 0xEF)) →
    (s.begun t.k).faults t.k 0 0 (BitVec.ofNat 64 w.base.toNat) 0 false v →
    exec (c t w nxt) s = .next (v.queueOf s)

/-- ERET at user level and GATE through a closed gate raise PRIVILEGE, and so does PARK in the Job
world (R404); each with its base word as INFO. -/
def privilegedInstructionsFault : Prop :=
  (∀ (t : Tid) (w : IWord) (s v : State) (o : Opnds), s.issues t w noSlots (plain w) false (zOf w) (zOf w) (zOf w) 0 o →
    bit ((s.begun t.k).flags t.k) 33 = false →
    (s.begun t.k).faults t.k 4 0 (BitVec.ofNat 64 w.base.toNat) 0 false v → exec (.eret t w) s = .next (v.queueOf s)) ∧
  (∀ (t : Tid) (w : IWord) (s v : State) (o : Opnds) (a : Nat),
    s.issues t w ⟨noSlot, memSlot, noSlot⟩ (plain w) false (zOf w) (zOf w) (zOf w) 0 o →
    (∀ x, o.a ≠ .imm x) → (s.begun t.k).targetOf t.k o.a = some a → (s.begun t.k).flag (.gateMask (t.k / 4)) w.minor = false →
    (s.begun t.k).faults t.k 4 0 (BitVec.ofNat 64 w.base.toNat) 0 false v → exec (.gate t w) s = .next (v.queueOf s)) ∧
  (∀ (t : Tid) (w : IWord) (s v : State), s.Ready t → bit ((s.begun t.k).flags t.k) 34 = false →
    (s.begun t.k).faults t.k 4 0 (BitVec.ofNat 64 w.base.toNat) 0 false v → exec (.park t w) s = .next (v.queueOf s))

/-- DIV and DIVU by 0 raise INT_DIVIDE, vector 5 (R107). -/
def divisionByZeroFaults : Prop :=
  ∀ e ∈ ([(.div, true), (.divu, false)] : List ((Tid → IWord → Instr) × Bool)),
    ∀ (t : Tid) (w : IWord) (s u v : State) (o : Opnds) (a b : Nat),
    s.issues t w ⟨noSlot, memSlot, immSlot⟩ (plain w) true (zOf w) (zOf w) (zOf w) 0 o →
    reads2 t.k (zOf w) o (s.begun t.k) = .ok (a, b) u → ext64 e.2 (8 * zOf w) b = 0 →
    u.faults t.k 5 0 0 0 false v → exec (e.1 t w) s = .next (v.queueOf s)

/-- A pending ARITH is taken before an interrupt that could be taken, and either before the instruction about to start and its fault
(R419). -/
def Obligations.BoundaryTakesArithThenInterrupt : Prop :=
  ∀ e ∈ binaryRows, ∀ (t : Tid) (w : IWord) (s v : State), s.live → s.parked t.k = false → (s.thread t.k).raised = none →
    s.stalled t.k = false → s.atBoundary t.k = true →
    (s.entersArith t.k v → exec (e.1 t w) s = .next (v.queueOf s)) ∧
    (s.entersIrq t.k v → exec (e.1 t w) s = .next (v.queueOf s))

/-- Illegal encodings, privilege and division by 0 fault. -/
def Obligations.ScalarFaultsEnterTheirVectors : Prop :=
  illegalEncodingsRaiseIllegalInstruction ∧ privilegedInstructionsFault ∧ divisionByZeroFaults

/-- The instructions of the vector unit. -/
def vectorRows : List (Tid → IWord → Instr) :=
  [.vadd, .vsub, .vmul, .vmulh, .vmulhu, .vmin, .vmax, .vminu, .vmaxu, .vabs, .vneg, .vand, .vor, .vxor, .vandn, .vnot, .vshl,
   .vshr, .vsar, .vpopc, .vclz, .vcmp] ++
  [.vfadd, .vfsub, .vfmul, .vfdiv, .vfma, .vfms, .vfsqrt, .vfmin, .vfmax, .vfabs, .vfneg, .vtwosum, .vtwoprod, .vffn, .vfcmp,
   .vcvt, .vmov, .vlds, .vsts, .viota, .vperm, .vslideup, .vslidedn, .vcompress, .vexpand, .vrev, .vgather, .vscatter] ++
  [.mand, .mor, .mxor, .mandn, .mnot, .mset, .mpop, .mfirst, .mmov, .vrsum, .vrmin, .vrmax, .vrminu, .vrmaxu, .vrand, .vror,
   .vrxor, .vfrsum, .vfrmin, .vfrmax, .vframax]

/-- An engine instruction that its thread starts, whose encoding is legal, that finds room, and whose checks at issue end without a
fault: it is recorded, the engines of its tree do what they now may, and the thread goes on. Where the scoreboard was empty and
the engine may perform the instruction at once, its whole effect on memory and registers is the engine's work on it. -/
def issueCompletes (c : Tid → IWord → Instr) (eng : IWord → Nat) (sl : IWord → Slots) (legal : IWord → Bool) (epochs : Bool)
    (prep : Nat → IWord → M Prep) : Prop :=
  ∀ (t : Tid) (w : IWord) (s u : State) (p : Prep),
    s.Ready t → (s.begun t.k).encodes t.k w (sl w) (legal w) true →
    engRoom t.k (eng w) epochs (s.begun t.k) = .ok () (s.begun t.k) → prep t.k w (s.begun t.k) = .ok p u → p.stop = none →
    (∀ v, enginesGo (t.k / 4) (u.issued t.k w p) = .ok () v → v.parked t.k = false →
      exec (c t w) s = .next ((v.retired t.k (sl w).len (bit (s.flags t.k) 29) p.sets).queueOf s)) ∧
    (∀ e n v, ((u.issued t.k w p).tree (t.k / 4)).sb = [e] → (u.issued t.k w p).ready (t.k / 4) [] e = true →
      performWork (t.k / 4) e (u.issued t.k w p) = .ok n v → (v.tree (t.k / 4)).sb = [e] →
      let x := after (engSync (t.k / 4))
        (v.setTree (t.k / 4) { v.tree (t.k / 4) with sb := [{ e with performed := true, conds := n }] })
      x.parked t.k = false →
      exec (c t w) s = .next ((x.retired t.k (sl w).len (bit (s.flags t.k) 29) p.sets).queueOf s))

/-- Every vector instruction is issued and performed (R113, R193, R210). -/
def vectorInstructionsComplete : Prop :=
  ∀ c ∈ vectorRows, issueCompletes c (fun _ => 0) vecSlots vecLegal false vecPrep

/-- Every tile instruction is issued and performed (R132, R139). -/
def tileInstructionsComplete : Prop :=
  ∀ c ∈ ([.tld, .tileStore, .tmovtv, .tmovvt, .tshp, .tzero] : List (Tid → IWord → Instr)),
    issueCompletes c (fun _ => 1) tileSlots tileLegal false fun k w => if w.major ≤ 0xA1 then tilePrep k w else tileSimple k w

/-- Every matrix instruction is issued; an MMA or MMAP is performed, and a drain waits for its start (R153, R157). -/
def matrixInstructionsComplete : Prop :=
  ∀ c ∈ ([.mma, .mmap, .mdrn, .mlda] : List (Tid → IWord → Instr)),
    issueCompletes c (fun w => 4 + arrOf w) mxSlots mxLegal false fun k w => if isDrain w then drainPrep k w else mmaPrep k w

/-- Every stream instruction is issued and performed (R217). -/
def streamInstructionsComplete : Prop :=
  ∀ c ∈ ([.srun, .srunf] : List (Tid → IWord → Instr)), issueCompletes c (fun _ => 2) seSlots seLegal false sePrep

/-- The claim, scoreboard and epoch instructions: slots, legality, whether a commit holds them, and what each does at issue. -/
def boardRows : List ((Tid → IWord → Instr) × Slots × (IWord → Bool) × Bool × (Nat → IWord → M Prep)) :=
  [(.clmopen, oneSlot, low6, false, clmOpen), (.clmclose, noSlots, low6, false, clmClose),
   (.sbwait, oneSlot, fun w => low6 w && field w.base 22 2 = 0, false, sbWait),
   (.eptag, oneSlot, fun w => low6 w && field w.base 20 4 = 0, true, epTagSet),
   (.epdecl, ⟨noSlot, memSlot, immSlot⟩, low6, true, epDecl),
   (.seal, ⟨noSlot, memSlot, immSlot⟩, fun w => field w.base 12 12 = 0, true, epSeal),
   (.epdiscard, ⟨noSlot, memSlot, immSlot⟩, fun w => field w.base 12 12 = 0, true, epDiscard),
   (.epcommit, oneSlot, fun w => field w.base 12 12 = 0, true, epCommit),
   (.epstat, ⟨memSlot, memSlot, noSlot⟩, fun w => field w.base 12 12 = 0, true, epStat)]

/-- Every claim, scoreboard and epoch instruction does its work at issue and is recorded as performed (an SBWAIT waits in the
scoreboard for its counter), and its thread goes on (R124, R237, R331). -/
def boardInstructionsComplete : Prop :=
  ∀ e ∈ boardRows, issueCompletes e.1 (fun _ => 3) (fun _ => e.2.1) e.2.2.1 e.2.2.2.1 e.2.2.2.2

/-- A thread starts a claim, scoreboard or epoch instruction of a legal encoding, and the scoreboard unit has room for it (R114). -/
def boardStarts (s : State) (t : Tid) (w : IWord) (sl : Slots) (legal epochs : Bool) : Prop :=
  s.Ready t ∧ (s.begun t.k).encodes t.k w sl legal true ∧ engRoom t.k 3 epochs (s.begun t.k) = .ok () (s.begun t.k)

/-- A claim, scoreboard or epoch instruction that has done its work, in u, completes: where the thread runs on and no engine of its tree has
work that waits, it is recorded, pointers are updated, and the thread is at the next instruction or one repetition further. -/
def boardEnds (c : Instr) (s u : State) (t : Tid) (w : IWord) (sl : Slots) (x : Work) (p : Ptrs) : Prop :=
  u.parked t.k = false → (∀ e ∈ (u.tree (t.k / 4)).sb, e.performed = true ∨ e.work.eng = 3) →
    exec c s = .next (((after (enginesGo (t.k / 4)) (u.issued t.k w ⟨x, p, [], false, none⟩)).retired t.k sl.len
      (bit (s.flags t.k) 29) []).queueOf s)

/-- The operand of one of these instructions with one slot: its effective address or value is computed, and 4 bytes of it are read
(R93, R102). -/
def boardReads (s : State) (t : Tid) (w : IWord) (o : Opnds) (v : Nat) (u : State) : Prop :=
  operands w ((s.begun t.k).ptrs t.k) 0 4 0 0 0 0 = .ok o ∧ ctlArg t.k o.a (s.begun t.k) = .ok v u

/-- CLMOPEN opens a claim in range that meets no open claim, with its opener (R124, R127); CLMCLOSE sets CLOSING for OPEN (R128);
SBWAIT waits for its counter to reach its target (R237). -/
def claimsAndWaitsComplete : Prop :=
  (∀ (t : Tid) (w : IWord) (s u : State) (o : Opnds) (v : Nat), boardStarts s t w oneSlot (low6 w) false → boardReads s t w o v u →
    let b := s.begun t.k
    let c := Reg.claim (t.k / 4) (field w.base 18 6)
    b.claimRange (t.k / 4) (BitVec.ofNat 64 v) = false → b.flag c 32 = false → b.flag c 33 = false →
    (∀ x ∈ b.openClaims (t.k / 4), (claimFp (BitVec.ofNat 64 v)).meets (claimFp x) = false) →
    boardEnds (.clmopen t w) s (u.setReg c (BitVec.ofNat 64 v ||| BitVec.ofNat 64 (2 ^ 32 + t.k % 4 * 2 ^ 34))) t w oneSlot (Work.none 3)
      o.p) ∧
  (∀ (t : Tid) (w : IWord) (s : State), boardStarts s t w noSlots (low6 w) false →
    let b := s.begun t.k
    let c := Reg.claim (t.k / 4) (field w.base 18 6)
    b.flag c 32 = true → b.flag c 33 = false →
    boardEnds (.clmclose t w) s (b.setFld c 32 2 2) t w noSlots (Work.none 3) (b.ptrs t.k)) ∧
  (∀ (t : Tid) (w : IWord) (s u : State) (o : Opnds) (v : Nat),
    boardStarts s t w oneSlot (low6 w && field w.base 22 2 = 0) false → boardReads s t w o v u →
    boardEnds (.sbwait t w) s u t w oneSlot { Work.none 3 with wait := some (field w.base 18 4, v) } o.p)

/-- EPTAG sets the tag of its thread to its operand, relative to the epoch or not (R331); EPCOMMIT at kernel level, for epoch E + 1,
requests a commit (R336); EPSTAT stores the page status word of the entry of its page (R331). -/
def tagCommitAndStatusComplete : Prop :=
  (∀ (t : Tid) (w : IWord) (s u : State) (o : Opnds) (v : Nat),
    boardStarts s t w oneSlot (low6 w && field w.base 20 4 = 0) true → boardReads s t w o v u →
    (bit w.base 19 = true → v ≤ 1) → (s.begun t.k).epMode ≠ 3 →
    boardEnds (.eptag t w) s (u.setReg (.epTag (t.k / 4) (t.k % 4)) (BitVec.ofNat 64
      ((if bit w.base 19 then (s.begun t.k).epoch + v else v) % 2 ^ 32 + b2n (bit w.base 18) * 2 ^ 32))) t w oneSlot (Work.none 3) o.p) ∧
  (∀ (t : Tid) (w : IWord) (s u x : State) (o : Opnds),
    boardStarts s t w oneSlot (field w.base 12 12 = 0) true → bit ((s.begun t.k).flags t.k) 33 = true →
    boardReads s t w o (((s.begun t.k).epoch + 1) % 2 ^ 32) u → epStart t.k u = .ok () x →
    boardEnds (.epcommit t w) s (after requestCommit x) t w oneSlot (Work.none 3) o.p) ∧
  (∀ (t : Tid) (w : IWord) (s u v x y z : State) (o : Opnds) (va i : Nat) (far : Bool) (l : Place),
    boardStarts s t w ⟨memSlot, memSlot, noSlot⟩ (field w.base 12 12 = 0) true →
    operands w ((s.begun t.k).ptrs t.k) 8 (Config.operandZ w.major) 0 1 0 0 = .ok o → epStart t.k (s.begun t.k) = .ok () u →
    epOperand t.k o.a u = .ok (va, far) v → epPage t.k .read far va v = .ok i x → placeOf t.k o.d .write 8 x = .ok l y →
    let e : Work := { Work.none 3 with writes := placeFp (t.k / 4) l, claims := opClaims [o.d] }
    blocked (y.before t.k) t.k w e = false → writePlace t.k l (y.pageStatus i) y = .ok () z →
    boardEnds (.epstat t w) s z t w ⟨memSlot, memSlot, noSlot⟩ e o.p)

/-- EPDECL declares pages in STATE EMPTY into a set that is not done; SEAL seals declared pages; EPDISCARD gives up declared or
sealed ones: each names up to 512 pages, and EP_COUNT follows (R332, R333, R334). -/
def pageInstructionsComplete : Prop :=
  ∀ e ∈ ([(.epdecl, low6, fun x => x = 0, fun w u => !u.setDone (field w.base 18 6), fun w => declPage (field w.base 18 6)),
      (.seal, fun w => field w.base 12 12 = 0, fun x => x = 1, fun _ _ => true, fun _ => sealPage),
      (.epdiscard, fun w => field w.base 12 12 = 0, fun x => x = 1 || x = 2, fun _ _ => true, fun _ => discardPage)] :
      List ((Tid → IWord → Instr) × (IWord → Bool) × (Nat → Bool) × (IWord → State → Bool) × (IWord → Nat → M Unit))),
    ∀ (t : Tid) (w : IWord) (s u v : State) (l : List Nat) (p : Ptrs),
      boardStarts s t w ⟨noSlot, memSlot, immSlot⟩ (e.2.1 w) true → epRange t.k w e.2.2.1 (s.begun t.k) = .ok (l, p) u →
      e.2.2.2.1 w u = true → forAll l (e.2.2.2.2 w) u = .ok () v →
      boardEnds (e.1 t w) s (after epCount v) t w ⟨noSlot, memSlot, immSlot⟩ (Work.none 3) p

/-- WDONE of a thread with a work item, which finds room and no engine instruction of the thread under way, ends the item with its
status and parks the thread (R114, R238, R252, R412). -/
def wdoneEndsTheWorkItem : Prop :=
  ∀ (t : Tid) (w : IWord) (s u v : State) (o : Opnds) (n : Nat), s.Ready t →
    (s.begun t.k).encodes t.k w oneSlot (field w.base 12 12 = 0) true →
    ((s.begun t.k).thread t.k).item ≠ none → engRoom t.k 3 false (s.begun t.k) = .ok () (s.begun t.k) → boardReads s t w o n u →
    let x := after (enlist t.k w 3) u
    x.engBusy t.k = false → endItem t.k (BitVec.ofNat 64 n) ((x.unissue t.k).putPtrs t.k o.p) = .ok () v →
    exec (.wdone t w) s = .next ((((v.setReg (thr t.k 0x10) parkedFlags).setFld (excReg t.k) 1 1 1).unheld t.k).queueOf s)

/-- CLAIM_FREE frees a closing claim that no instruction under way names; DRAIN_START performs the oldest waiting drain of an array,
where nothing before it blocks it and its bank has no tally pending; TALLY_PASS releases the oldest pending tally when its comparisons
are equal; SBWAIT_SATISFIED satisfies the waits whose counter has been reached; the engines of the tree then go on (R128, R157, R160, R237). -/
def engineEventsTakeEffect : Prop :=
  (∀ (tr c : Fin 64) (s : State), s.live →
    exec (.claimFree tr c) s = s.ends (if s.flag (.claim tr c) 33 && (s.tree tr).sb.all fun e => !e.work.claims.contains c.val then
      s.setFld (.claim tr c) 32 2 0 else s)) ∧
  (∀ (tr : Fin 64) (a : Fin 16) (s : State) (i : Nat) (e : SbEntry), s.live → (s.tree tr).sb[i]? = some e →
    (∀ j < i, ∀ y, (s.tree tr).sb[j]? = some y → (y.work.eng = 4 + a.val && isDrain y.word && !y.performed && !y.early) = false) →
    (e.work.eng = 4 + a.val && isDrain e.word && !e.performed && !e.early) = true →
    blocked ((s.tree tr).sb.take i) e.th e.word e.work = false → (∀ y ∈ s.talliesOf tr a, y.bank ≠ bankOf e.word) →
    exec (.drainStart tr a) s = s.ends (after (do
      performAt tr i
      enginesGo tr) s)) ∧
  (∀ (tr : Fin 64) (a : Fin 16) (s : State), s.live →
    (∀ y r, s.talliesOf tr a = y :: r → y.equal = true → exec (.tallyPass tr a) s =
      s.ends (after (enginesGo tr) (((s.setTallies tr a r).releaseReads tr a y.seq).redone tr a y.again))) ∧
    ((∀ y ∈ (s.talliesOf tr a).head?, y.equal = false) → exec (.tallyPass tr a) s = s.ends (after (enginesGo tr) s))) ∧
  (∀ (t : Tid) (s : State), s.live → exec (.sbwaitSatisfied t) s = s.ends (after (enginesGo t.tree) (s.sbLatch t.tree)))

/-- ENGINE_COMPLETE of the j-th instruction of a thread in the scoreboard, which has done all its work, takes it out and reports its
conditions; the engines go on, and so does a fault of the thread that waited (R408, R415, R416). -/
def engineCompleteRetiresTheEntry : Prop :=
  ∀ (t : Tid) (j i : Nat) (s : State) (e : SbEntry), s.live → (s.tree (t.k / 4)).sb[i]? = some e → e.th = t.k →
    ((s.tree (t.k / 4)).sb.take i).countP (fun y => y.th = t.k) = j → s.complete (t.k / 4) e = true →
    exec (.engineComplete t j) s = s.ends (after (do
      report t.k e.conds e.pc e.startNo
      enginesGo (t.k / 4)
      entryGoesOn t.k) (s.setTree (t.k / 4) { s.tree (t.k / 4) with sb := (s.tree (t.k / 4)).sb.eraseIdx i }))

/-- TALLY_MISMATCH. A SEQ that no pending tally has leaves all but the engines as it is. Of a pending MMA it is handled, and then the
engines go on. A transient one, with REDO of MX_CTRL 0, restores the banks of that MMA and of those after it, newest first, gives up their
tallies, poisons their banks, and tells: MX_TALLY_LAST, the counts, a record of class TALLY, an event (R161, R162). -/
def tallyMismatchIsHandled : Prop :=
  ∀ (tr : Fin 64) (a : Fin 16) (m : Nat) (d : Diag) (s : State), s.live →
    ((∀ y ∈ s.talliesOf tr a, y.seq ≠ m) → exec (.tallyMismatch tr a m d) s = s.ends (after (enginesGo tr) s)) ∧
    (∀ u, tallyMismatch tr a m d s = .ok () u → exec (.tallyMismatch tr a m d) s = s.ends (after (enginesGo tr) u)) ∧
    (∀ i, ((s.talliesOf tr a).findIdx? fun y => y.seq = m) = some i →
      let hit := (s.talliesOf tr a).drop i
      let u := (after (forAll hit.reverse (restoreBank tr a)) s).setTallies tr a ((s.talliesOf tr a).take i)
      u.flag (.mxCtrl tr) 1 = false →
      let v := after (forAll hit fun y => do
        wrf (.mxBank tr a y.bank) 21 1 1
        modify fun s => s.releaseReads tr a y.seq) u
      let bank := match hit with | y :: _ => y.bank | [] => 0
      let again := match hit with | y :: _ => y.again | [] => false
      let last : W64 := BitVec.ofNat 64 (a + bank <<< 4 + m <<< 5 + 0x1FF <<< 21 + 0x1FF <<< 30 + 0 <<< 39 + 1 <<< 43)
      let w := ((v.setReg (.mxTallyLast tr) last).satFld (.mxTally tr) 0 16).satFld (.mxTally tr) 32 16
      exec (.tallyMismatch tr a m .transient) s = s.ends (after (do
        raise [.incident 3 2 1 (unitWord 2 tr) 0 (w.reg (.mxTallyLast tr)) 0 (again || (w.handling (.array tr a)).isSome)
          ((w.handling (.array tr a)).getD 0xFFFF_FFFF)]
        event (w.fld (.mxCtrl tr) 2 10) 2 1 (w.reg (.mxTallyLast tr)) (BitVec.ofNat 64 tr)
        enginesGo tr) (w.mismatched tr a 1 (unitWord 2 tr) false)))

/-- Vector, tile, matrix and stream instructions are issued and performed. -/
def Obligations.EngineInstructionsComplete : Prop :=
  vectorInstructionsComplete ∧ tileInstructionsComplete ∧ matrixInstructionsComplete ∧ streamInstructionsComplete

/-- Claim, scoreboard and epoch instructions complete and do their work. -/
def Obligations.BoardInstructionsCompleteWithTheirWork : Prop :=
  boardInstructionsComplete ∧ claimsAndWaitsComplete ∧ tagCommitAndStatusComplete ∧ pageInstructionsComplete

/-- WDONE and the events of the engines take effect. -/
def Obligations.EngineEventsComplete : Prop :=
  wdoneEndsTheWorkItem ∧ engineEventsTakeEffect ∧ engineCompleteRetiresTheEntry ∧ tallyMismatchIsHandled

/-- The reset commands of the device block zero what they name: CFG_CLEAR, TELEM_CLR (a bit per slot other than 0), ACC_DENY_CLR,
TT_CLR, LAND_CLR, INC_CLR, and PWR_STAT.CLR (R49, R83, R311, R353, R366, R436, R464). -/
def deviceClearsComplete : Prop :=
  ∀ (r : Req) (s : State),
    (∀ b, s.takes r (.cfgClear b) 1 →
      exec (.cfgClear r b) s = s.endsBus ((s.wrote r (.cfgClear b) 1).zeroed [.cfgStatus b])) ∧
    (∀ v, s.takes r .telemClr v.toNat → exec (.telemClr r v) s = s.endsBus ((s.wrote r .telemClr v.toNat).zeroed
      (((List.range 64).filter fun n => bit v n ∧ n ≠ 0).flatMap fun n => [.telemSat n, .telemAmax n]))) ∧
    (s.takes r .accDenyClr 1 →
      exec (.accDenyClr r) s = s.endsBus ((s.wrote r .accDenyClr 1).zeroed [.accDenyLast, .accDenyAddr])) ∧
    (s.takes r .ttClr 1 → exec (.ttClr r) s = s.endsBus ((s.wrote r .ttClr 1).zeroed [.ttStat])) ∧
    (∀ l : Fin 16, s.takes r (.landCtrl l) 2 →
      exec (.landClr r l) s = s.endsBus ((s.wrote r (.landCtrl l) 2).zeroed [.landErr l, .landBytes l])) ∧
    (s.takes r .incClr 1 → exec (.incClr r) s = s.endsBus ((s.wrote r .incClr 1).zeroed [.incOvf, .recovStat])) ∧
    (s.takes r .pwrStat (2 ^ 48) → exec (.pwrStatClr r) s = s.endsBus
      (((s.wrote r .pwrStat (2 ^ 48)).setFld .pwrStat 0 16 0).setFld .pwrStat 16 32 0))

/-- The reset commands of trees, groves and ports zero what they name: HW_ERRCLR, MX_TALLY_CLR, VU_PASSES_CLR, SE_CLR, NB_CLR,
FY_CLR, and CLR of FB_CTRL (R121, R162, R212, R227, R266, R272, R283). -/
def unitClearsComplete : Prop :=
  ∀ (r : Req) (s : State),
    (∀ t : Fin 64, s.takes r (.hwErrclr t) 1 →
      exec (.hwErrclr r t) s = s.endsBus ((s.wrote r (.hwErrclr t) 1).zeroed [.hwErr t])) ∧
    (∀ t : Fin 64, s.takes r (.mxTallyClr t) 1 →
      exec (.mxTallyClr r t) s = s.endsBus ((s.wrote r (.mxTallyClr t) 1).zeroed [.mxTally t, .mxTallyLast t])) ∧
    (∀ t : Fin 64, s.takes r (.vuPassesClr t) 1 →
      exec (.vuPassesClr r t) s = s.endsBus ((s.wrote r (.vuPassesClr t) 1).zeroed [.vuPasses t])) ∧
    (∀ t : Fin 64, s.takes r (.seClr t) 1 →
      exec (.seClr r t) s = s.endsBus ((s.wrote r (.seClr t) 1).zeroed [.seElems t, .seFault t])) ∧
    (∀ c : Fin 48, s.takes r (.nbClr (c / 6) (c % 6)) 1 → exec (.nbClr r c) s = s.endsBus
      ((s.wrote r (.nbClr (c / 6) (c % 6)) 1).zeroed [.nbErr (c / 6) (c % 6), .nbLast (c / 6) (c % 6)])) ∧
    (∀ f : Fin 64, s.takes r (.fyClr (f / 8) (f % 8)) 1 → exec (.fyClr r f) s = s.endsBus
      (((s.wrote r (.fyClr (f / 8) (f % 8)) 1).zeroed [.fyBytes (f / 8) (f % 8)]).setFld (fyReg f) 32 32 0)) ∧
    (∀ p : Fin 4, s.takes r (.fbCtrl p) (1024 + s.fld (.fbCtrl p) 0 10) → exec (.fbErrClr r p) s = s.endsBus
      ((s.wrote r (.fbCtrl p) (1024 + s.fld (.fbCtrl p) 0 10)).zeroed [.fbErr p]))

/-- REGISTER_WRITE of a register that has no shadow words and is no doorbell stores the value and has the register's effect, and
then the register writes that this causes (R5);
a write that meets a refusal cause changes nothing but CFG_STATUS and the record of its refusal (R49). The host names a register
by its offset in BAR0, every other master by its address (R13, R17); reserved space takes a write without effect (R6). -/
def registerWritesComplete : Prop :=
  (∀ (r : Req) (g : Reg) (a : BitVec 52) (v : W64) (s : State), busAddr r a.toNat = some g.addr → s.live →
    (s.accepts r g (s.brings r g v.toNat) → (∀ q, g ≠ .doorbell q) → (∀ b k i w, g ≠ .accRule b k i w) →
      (∀ i w, g ≠ .ttEntry i w) → exec (.registerWrite r a (g.width / 8) v) s =
        s.ends (after (withRegs (writeEffect r g (s.reg g) (s.brings r g v.toNat))) (s.wrote r g v.toNat))) ∧
    (∀ b c, s.hostMute r = false → regCheck r .wr g.addr (g.width / 8) s = .ok (.ok (some (b, g))) s →
      s.refusal g (s.brings r g v.toNat) = some c →
      let u := s.setReg (.cfgStatus b)
        (BitVec.ofNat 64 (c + ((g.addr - b.base) % 2 ^ 26) <<< 8 + satInc 16 (s.fld (.cfgStatus b) 48 16) <<< 48))
      exec (.registerWrite r a (g.width / 8) v) s =
        s.ends (after (incident 2 0 c (blkUnit b) (BitVec.ofNat 64 g.addr) (u.reg (.cfgStatus b))) u))) ∧
  (∀ (r : Req) (a : BitVec 52) (n p : Nat) (v : W64) (s : State), busAddr r a.toNat = some p → s.live → inRegs p = true →
    s.hostMute r = false → regCheck r .wr p n s = .ok (.ok none) s → exec (.registerWrite r a n v) s = s.ends s)

/-- CFG_HOLD stores HOLD; QREQ at HOLD 0 sets QACTIVE, which clears at once where the block has no pending field; a sub-block at
its quiescent point, with HOLD 0, puts its pending values into effect (R46, R47, R48). A write of word 3 of an access rule
commits the words held in shadow with it (R310). A write of FERRY_DONE_k satisfies the SBWAITs that it satisfies (R237). -/
def configurationCommandsComplete : Prop :=
  ∀ (r : Req) (s : State),
    (∀ b hold, s.takes r (.cfgCtrl b) (b2n hold) →
      exec (.cfgHold r b hold) s = s.endsBus (s.wrote r (.cfgCtrl b) (b2n hold))) ∧
    (∀ b, s.takes r (.cfgCtrl b) 2 → s.fld (.cfgCtrl b) 0 1 = 0 → (s.wrote r (.cfgCtrl b) 2).flag (.cfgCtrl b) 0 = false →
      let u := (s.wrote r (.cfgCtrl b) 2).setFld (.cfgCtrl b) 2 1 1
      exec (.qreq r b) s = s.endsBus (if u.reg (.cfgPending b) = 0 then u.setFld (.cfgCtrl b) 2 1 0 else u)) ∧
    (∀ b (n : Fin 64), s.live → s.flag (.cfgPending b) n = true → s.flag (.cfgCtrl b) 0 = false → s.quiet b n = true →
      let u := (s.applied (subRegs b n)).setFld (.cfgPending b) n 1 0
      let v := if u.reg (.cfgPending b) = 0 then u.setFld (.cfgCtrl b) 2 1 0 else u
      exec (.quiescentApply b n) s =
        s.ends (if b = .dev then after takeWaiting { v with tide := { v.tide with up := none } } else v)) ∧
    (∀ b (k : Fin 21) (n : Fin 64) v, s.takes r (.accRule b k n 3) v.toNat →
      exec (.accRuleCommit r b k n v) s = s.endsBus ((([0, 1, 2].map fun w => Reg.accRule b k n w).foldl State.unshadow s).setReg
        (.accRule b k n 3) (s.brings r (.accRule b k n 3) v.toNat))) ∧
    (∀ (t : Fin 64) (k : Fin 16) (v : BitVec 32), s.takes r (.ferryDone t k) v.toNat →
      exec (.ferryDoneWrite r t k v) s = s.endsBus ((s.wrote r (.ferryDone t k) v.toNat).sbLatch t))

/-- JOB_CTRL.START is accepted when the structure is READY and no scrub is requested: STATE is JOB, RESULT 0, the debug level 0,
the tide master and a value that waits for a mark forgotten, and the journal starts (R248, R338, R344, R348, R459). -/
def jobsStart : Prop :=
  ∀ (r : Req) (s : State), s.takes r .jobCtrl 1 → (s.wrote r .jobCtrl 1).pstate = 1 →
    (s.wrote r .jobCtrl 1).flag .structStatus 17 = false → (s.wrote r .jobCtrl 1).sec.clearing = none →
    let u := (((s.wrote r .jobCtrl 1).setFld .structStatus 4 4 3).setFld .jobStatus 0 8 0).setFld .dbgstat 0 2 0
    exec (.jobStart r) s = s.ends (after (withRegs startJournal) { u with tide := { u.tide with known := false, setv := none } })

/-- JOB_CTRL.END sets END_PENDING while a job runs whose end is not yet requested (R248). -/
def jobsEnd : Prop :=
  ∀ (r : Req) (s : State), s.takes r .jobCtrl 2 → (s.wrote r .jobCtrl 2).jobRuns = true →
    (s.wrote r .jobCtrl 2).flag .jobStatus 8 = false →
    exec (.jobEnd r) s = s.endsBus ((s.wrote r .jobCtrl 2).setFld .jobStatus 8 1 1)

/-- The end of a job: with END_PENDING and no work item left, its manifests and descriptors are dropped, its queues stop, and, with no
commit in progress and no access of the job left, the scrub starts, and what it
writes reads as unspecified values (R249, R461); the scrub, once no commit is in progress, clears the job's state and the structure
is READY again (R460); the far-bank part of a scrub clears the far bank outside the replica. What was written meanwhile stays or not, which is the model's
choice (log entry 177). -/
def jobEndComplete : Prop :=
  (∀ (s u v : State), s.live → s.jobRuns = true → s.flag .jobStatus 8 = true →
    (∀ g < 8, s.fld (.dispStatus g) 0 32 = 0) → s.job.drained = false → s.flag .structStatus 17 = false →
    dropJobRuns s = .ok () u → stopJobQueues u = .ok () v → v.flag .epStatus 36 = false → v.flag .structStatus 17 = false →
    v.pcie.inReset = false → v.jobWaits = false → exec .jobEndDrain s =
      s.ends (after scrubStarts { v with job := { v.job with drained := true } })) ∧
  (∀ (us : Nat) (s u v : State), s.live → s.pcie.inReset = false → s.job = ⟨true, false⟩ → s.flag .scrubStatus 0 = true →
    s.commit.step = 0 → scrubAll (s.flag .scrubCtrl 0) s = .ok () u → scrubEnds us u = .ok () v → v.pcie.inReset = false →
    exec (.jobEndScrub us) s = s.ends v) ∧
  (∀ (us : Nat) (s : State), s.live → s.job.far = true → s.flag .scrubStatus 0 = true →
    exec (.farScrubDone us) s = s.ends (after (scrubEnds us) (s.zeroRanges s.farRanges)))

/-- RERIG_CMD.GO in READY takes the structure to RERIG and fetches the delta where its place is legal; RERIG_DONE, with no matrix
instruction, no self-test slice and no host reset waiting, ends the re-rig (R39, R40, R166). -/
def rerigsComplete : Prop :=
  (∀ (r : Req) (s : State), s.takes r .rerigCmd 1 → (s.wrote r .rerigCmd 1).pstate = 1 →
    let u := (s.wrote r .rerigCmd 1).setFld .structStatus 4 4 2
    let a := (s.wrote r .rerigCmd 1).fld .rerigAddr 0 52
    let n := (s.wrote r .rerigCmd 1).fld .rerigLen 0 22
    (∀ b p v, inFetch true a n = true → readPhys ⟨0x180, true⟩ a n u = .ok (.ok (b, p)) v →
      exec (.rerigCmdGo r) s = s.endsBus { v with rerig := some (b, p || a % 8 != 0) }) ∧
    (∀ c v, inFetch true a n = false → checkAcc ⟨0x180, true⟩ .rd a n u = .ok c v →
      exec (.rerigCmdGo r) s = s.endsBus { v with rerig := some ([], true) })) ∧
  (∀ (us : Nat) (failed : List UnitRef) (s u : State) (x : List Byte × Bool), s.live →
    (∀ e ∈ s.trees, ∀ y ∈ e.2.sb, y.work.eng < 4) → s.rerig = some x → s.bist.slice = none → rerigEnd us failed s = .ok () u →
    u.pcie.inReset = false → exec (.rerigDone us failed) s = s.ends (u.setFld .bistStat 16 14 u.schedule.length))

/-- The record b at HEAD of command queue q is the next that the dispatcher of its grove takes, and has the OP `op`: the job runs,
the dispatcher is not held, its rotating order has come to q, no barrier holds q, and the entry at HEAD is a well-formed record,
read in u (R48, R242, R243, R251). -/
def recordTurn (s : State) (q op : Nat) (b : List Byte) (u : State) : Prop :=
  s.owner q < 8 ∧ s.jobRuns = true ∧ s.flag .partState 0 = false ∧ s.dispHeld (s.owner q) = false ∧
    s.dispTurn (s.owner q) = some q ∧ aread false s.barriers q = false ∧ headEntry q s = .ok (some b) u ∧
    recordOk b = true ∧ leAt b 2 1 = op

/-- The state in which the dispatcher of queue q has taken the record that it read in u: its next visit is to a later queue. -/
def recordTaken (s u : State) (q : Nat) : State := { u with turns := awrite 0 u.turns (s.owner q) (q + 1) }

/-- The dispatchers, for a record whose turn it is: RUN starts its thread, BARRIER holds its queue while an earlier RUN has not
ended, and SIGNAL, once every earlier RUN has ended, writes its event; each takes its record. BARRIER_CLEAR ends a barrier when
every earlier RUN has ended (R243, R250, R251). -/
def dispatchersComplete : Prop :=
  (∀ (q : Fin 2048) (s u : State) (b : List Byte) (k : Nat), s.live → recordTurn s q 1 b u →
    let v := recordTaken s u q
    bit (v.effReg (.dispCtrl (v.owner q))) 10 = false → v.flag .jobStatus 8 = false →
    v.placement (v.owner q) (fun l => leAt b 3 1 = 0 || (leAt b 3 1).testBit l) = some k →
    exec (.run q) s = s.ends (after (withRegs do
      startThread k q b
      setHead q (v.qHead q + 1)) v)) ∧
  (∀ (q : Fin 2048) (s u : State) (b : List Byte), s.live → recordTurn s q 2 b u →
    let v := recordTaken s u q
    exec (.barrier q) s = s.ends (after (withRegs (setHead q (v.qHead q + 1)))
      { v with barriers := awrite false v.barriers q (!(v.itemsOf q).isEmpty) })) ∧
  (∀ (q : Fin 2048) (s : State), s.live → s.itemsOf q = [] →
    exec (.barrierClear q) s = s.ends { s with barriers := awrite false s.barriers q false }) ∧
  (∀ (q : Fin 2048) (s u : State) (b : List Byte), s.live → recordTurn s q 3 b u →
    let v := recordTaken s u q
    v.itemsOf q = [] → exec (.signal q) s = s.ends (after (withRegs do
      event (leAt b 0x28 2 % 1024) 0x0003 0 (BitVec.ofNat 64 (leAt b 0x10 8)) 0
      setHead q (v.qHead q + 1)) v))

/-- Rings: a doorbell write of 8 bytes that is not refused, goes forward and stays within the ring sets TAIL, or HEAD of an event
queue, whose held events are then written (R244, R246, R247). -/
def doorbellsComplete : Prop :=
  (∀ (r : Req) (q : Fin 8192) (v : W64) (s : State), s.takes r (.doorbell q) v.toNat → q.val < 0x1C00 → v.toNat < 2 ^ 32 →
    s.bellRefused r.world q = false →
    let d := (v.toNat + 2 ^ 32 - s.qTail q) % 2 ^ 32
    0 < d → d < 2 ^ 31 → (v.toNat + 2 ^ 32 - s.qHead q) % 2 ^ 32 ≤ 2 ^ field (s.qctx q) 52 4 →
    exec (.doorbellTail r q 8 v) s = s.endsBus (s.setFld (.qctxPtr q) 32 32 v.toNat)) ∧
  (∀ (r : Req) (q : Fin 8192) (v : W64) (s : State), s.takes r (.doorbell q) v.toNat → 0x1C00 ≤ q.val → v.toNat < 2 ^ 32 →
    s.bellRefused r.world q = false →
    let d := (v.toNat + 2 ^ 32 - s.qHead q) % 2 ^ 32
    0 < d → d < 2 ^ 31 → d ≤ (s.qTail q + 2 ^ 32 - s.qHead q) % 2 ^ 32 →
    exec (.doorbellHead r q 8 v) s = s.ends (after (withRegs do
      setHead q v.toNat
      writeHeld q 32) s))

/-- EVENTS_LOST writes its event once no held event is left and space remains; QUEUE_ERROR stops a running queue whose HEAD entry
has not the SEQ it must have, with ERR 2 and its event (R241, R244). -/
def queueReportsComplete : Prop :=
  (∀ (e : Fin 1024) (s : State), s.live → aread [] s.heldEvents (0x1C00 + e) = [] → s.qState (0x1C00 + e) ≠ 0 →
    0 < s.qRoom (0x1C00 + e) → s.fld (.qctxStat (0x1C00 + e)) 52 12 ≠ 0 →
    let y := writeEvent s e (lostEvent s (0x1C00 + e))
    exec (.eventsLost e) s = s.ends (after (raise y.2) y.1)) ∧
  (∀ (q : Fin 8192) (s u : State) (bs : List Byte) (p : Bool), s.live → q.val < 0x1C00 → s.qState q = 1 → s.qHead q ≠ s.qTail q →
    readHead q s = .ok (.ok (some (bs, p))) u → p = true ∨ leAt bs 0 2 ≠ s.qHead q % 2 ^ 16 →
    exec (.queueError q) s = s.ends (after (stopQueue q 2) u))

/-- COPY, FILL and CHECK run the rows of the descriptor in progress, whose OP is 1, 2 or 3, and write its CRC where it asks for
one; the ferry then reaches the next descriptor (R285-R288). -/
def descriptorsComplete : Prop :=
  ∀ e ∈ ([(.copy, 1), (.fill, 2), (.check, 3)] : List ((Fin 64 → Instr) × Nat)),
    ∀ (f : Fin 64) (s u v x : State) (m n : Manifest) (d : List Byte), s.live → s.ferry f = some m → m.ending = none →
      m.desc < leAt m.header 2 2 → ferryDesc f m s = .ok d u → leAt d 0 1 = e.2 →
      ((leAt d 3 1).testBit 6 = true → m.row ≠ 0) → ferryRows f d (leAt d 0x1C 4) u = .ok () v → v.ferry f = some n →
      ferryCrc f n d v = .ok () x → exec (e.1 f) s = s.ends (after (withRegs (ferryDo f (nextDesc f m.desc))) x)

/-- MANIFEST takes a well-formed header at HEAD of an idle ferry's queue when its turn comes; FERRY_DONE writes STATUS of a
manifest whose descriptors have all run, adds to its counter, raises its event, counts it, and takes its entry (R283, R289). -/
def manifestsComplete : Prop :=
  (∀ (f n : Fin 64) (s u : State) (h : List Byte), s.live → s.ferry f = none → s.testing 7 f = false →
    s.ferryTurn f = some (0x800 + 64 * f + n) →
    headEntry (0x800 + 64 * f + n) { s with turns := awrite 0 s.turns (8 + f) (0x800 + 64 * f + n + 1) } = .ok (some h) u →
    headerOk h = true → leAt h 8 8 % 64 = 0 → exec (.manifest f n) s = s.ends (after (withRegs (ferryPeek f)) (u.begins f n h))) ∧
  (∀ (f : Fin 64) (s u : State) (m : Manifest), s.live → s.ferry f = some m → m.ending = none → leAt m.header 2 2 ≤ m.desc →
    ferryStatus f m (fyStatusWord m (if m.poisoned then 4 else 0) 0 0) s = .ok (some true) u →
    exec (.ferryDone f) s = s.ends (after (withRegs do
      whenM ((leAt m.header 5 1).testBit 7) (bumpFerry (leAt m.header 5 1) (leAt m.header 6 1))
      whenM ((leAt m.header 4 1).testBit 0) (event (leAt m.header 0x18 2 % 1024) 0x0010 0
        (BitVec.ofNat 64 (m.queue + leAt m.header 0 2 <<< 32)) (BitVec.ofNat 64 (leAt m.header 0x20 8)))
      modify fun s => s.addFld (fyReg f) 32 32 1
      setHead m.queue ((← get).qHead m.queue + 1)) (after (ferryIdle f) u)))

/-- The near bank and the heartwoods: a refresh serves one that a hint asked for; a patrol scrub reads every line of its row, and
of each bank; a channel that is not in erasure mode counts and reports four failed repetitions and its retrain, and one in erasure mode
does not retrain; a corrected line is written back, and one whose error recurs or that cannot be corrected takes a spare (R121, R123,
R264, R265, R267, R426, R427). -/
def memoryEventsComplete : Prop :=
  (∀ (c : Fin 48) (s : State), s.live →
    exec (.nbRefresh c) s = s.ends { s with hints := awrite 0 s.hints c (aread 0 s.hints c - 1) }) ∧
  (∀ (c : Fin 48) (tags : List TagErr) (errs : List NearErr) (dir : List (Fin 24576)) (s : State), s.live →
    let u := tags.foldl (fun s e => s.strikeRow c e) (errs.foldl (fun s e => s.strikeNear c e) s)
    let v : State := { u with epFlaws := dir.foldl (fun m i => awrite false m i.val true) u.epFlaws }
    v.flag (.nbScrub (c / 6)) 0 = true →
    exec (.nbPatrolScrub c tags ⟨0, errs, dir, none⟩) s = s.ends (after (do
      forAll (List.range 15) fun k => do
        let _ ← nearLine (v.nearAddr c (aread 0 v.nbScrubbed c % 2 ^ 21) k / 128)
        skip
      modify fun s => s.scrubbedRow c) v)) ∧
  (∀ (c : Fin 48) (s : State), s.live →
    (s.flag (nbHealthOf c) 6 = false → exec (.nbRetrainDone c true) s = s.ends (after (do
      forAll (List.range 4) fun _ => do
        bump (nbErrOf c) 32 16
        reportIn (some (.channel c)) 0x05 1 4 (unitWord 5 c) 0 (nbErrOf c)
      bump (nbErrOf c) 48 8
      reportIn (some (.channel c)) 0x05 2 5 (unitWord 5 c) 0 (nbErrOf c)) s)) ∧
    (∀ ok, s.flag (nbHealthOf c) 6 = true → exec (.nbRetrainDone c ok) s = s.ends s)) ∧
  (∀ (t : Fin 64) (errs : List HeartErr) (s u v : State), s.live → forAll errs (strikeHeart t) s = .ok () u →
    u.flag (.hwCfg t) 2 = true →
    forAll (List.range 32) (fun b => scrubBank t b (aread 0 u.hwScrubbed t % 1024)) u = .ok () v →
    exec (.hwPatrolScrub t errs) s =
      s.ends { v with hwScrubbed := awrite 0 v.hwScrubbed t ((aread 0 u.hwScrubbed t % 1024 + 1) % 1024) }) ∧
  (∀ (t : Fin 64) (b : Fin 32) (row : Fin 1024) (e : Nat × Nat × Bool) (s : State), s.live →
    ((s.tree t).writebacks.find? fun e => e.1 = b.val ∧ e.2.1 = row.val) = some e →
    let u := s.setTree t { s.tree t with writebacks := (s.tree t).writebacks.erase e }
    let l := heartOf t / 128 + row * 32 + b
    ((s.lineFlaw l).bad = false →
      exec (.hwCorrectWriteback t b row .clean) s = s.ends (u.setLinePoison l (s.linePoison l))) ∧
    (∀ w, (s.lineFlaw l).bad = false → w ≠ .clean → exec (.hwCorrectWriteback t b row w) s =
      s.ends (after (spareLine t b row (s.linePoison l) e.2.2 (w == .again)) u)) ∧
    (∀ w, (s.lineFlaw l).bad = true →
      exec (.hwCorrectWriteback t b row w) s = s.ends (after (spareLine t b row true e.2.2 (w != .copyFails)) u)))

/-- The far-bank ports: a link that comes up shows its devices and capacity, the writes that waited for the port reach memory, and what
else waited for it is tried again; a loss of link and a viral indication count and report themselves; a request that has waited for
its port too long is ended (R270, R272). -/
def portEventsComplete : Prop :=
  (∀ (p : Fin 4) (caps : List Nat) (s : State), s.live → s.farWord p % 4 ≠ 0 →
    let l := caps.take (if (s.farWord p).testBit 2 then 4 else 1)
    exec (.fbLinkUp p caps) s = s.ends (after (do
      servePosted p
      cmoGo
      landingsGo) (((s.setFld (.fbPort p) 32 3 2).setFld (.fbPort p) 35 3 l.length).setFld
      (.fbPort p) 38 15 ((l.map fun c => c / 2 ^ 28).sum)))) ∧
  (∀ (p : Fin 4) (s : State), s.live → s.portUp p = true →
    let u := (s.setFld (.fbPort p) 32 3 1).satFld (.fbErr p) 32 16
    exec (.fbLinkLoss p) s = s.ends (after (incident 0x06 2 3 (unitWord 6 p) 0 (u.reg (.fbErr p))) u)) ∧
  (∀ (p : Fin 4) (s : State), s.live →
    let u := (s.setFld (.fbPort p) 32 3 3).setFld (.fbErr p) 48 1 1
    exec (.viral p) s = s.ends (after (incident 0x06 3 4 (unitWord 6 p) 0 (u.reg (.fbErr p))) u)) ∧
  (∀ (p : Fin 4) (k a : Nat) (s : State), s.live → (s.waitingOn p)[k]? = some a → s.portUp p = false →
    exec (.fbTimeout p k) s = s.ends (after (do
      portEnd p a
      cmoGo
      landingsGo) { s with dead := awrite false s.dead (a / 128) true }))

/-- The commands of the grove's cache: CLEAN, INVAL, CLINV and CLINV_ALL, with none in progress, start on the sectors they select, in
ascending order; CMO_DONE ends one that has processed them all, no fill that it acts on left; a fill lands (R276, R279, R280). -/
def cacheCommandsComplete : Prop :=
  (∀ e ∈ ([(.clean, 0), (.inval, 1), (.clinv, 2), (.clinvAll, 3)] : List ((Req → Fin 8 → Bool → Instr) × Nat)),
    ∀ (r : Req) (g : Fin 8) (scope : Bool) (s : State), s.takes r (.cmoCmd g) (8 + e.2 + 4 * b2n scope) →
      let u := s.wrote r (.cmoCmd g) (8 + e.2 + 4 * b2n scope)
      let a := u.fld (.cmoAddr g) 7 45 * 128
      let n := u.fld (.cmoLen g) 0 44
      let o : Cmo := if e.2 = 3 then ⟨3, scope, 0, 2 ^ 52, 0⟩ else ⟨e.2 + 1, scope, a, a + n, 0⟩
      let v := u.setFld (.cmoStatus g) 0 1 1
      u.flag (.cmoStatus g) 0 = false → (e.2 < 3 → n ≠ 0) →
        exec (e.1 r g scope) s = s.ends (after (withRegs cmoGo) { v with cmos := aput v.cmos g o })) ∧
  (∀ (g : Fin 8) (s u : State) (o : Cmo), s.live → cmoGo s = .ok () u → aget u.cmos g = some o → u.cmoNext g o = none →
    exec (.cmoDone g) s = s.ends (({ u with cmos := adel u.cmos g } : State).setFld (.cmoStatus g) 0 1 0)) ∧
  (∀ (g : Fin 8) (fill : CanFill) (s : State), s.live → exec (.canopyFill g fill) s = s.ends (after (do
    forAll fill.errs (strikeCanopy g)
    landFill g (fill.sector * 128)) s))

/-- TLB_INV_RANGE, TLB_INV_WORLD and TLB_INV_ALL, with no invalidation running, take out the entries they meet and show BUSY;
TLB_INV_DONE ends it when no engine instruction whose operands it met is left to perform (R301). -/
def translationInvalidationsComplete : Prop :=
  (∀ (r : Req) (world : Bool) (s : State), s.takes r .tlbInvCmd (8 + 4 * b2n world) →
    let u := s.wrote r .tlbInvCmd (8 + 4 * b2n world)
    let a := u.fld .tlbInvVa 12 45 * 4096
    let n := u.fld .tlbInvLen 12 45 * 4096
    u.flag .tlbInvStatus 0 = false → n ≠ 0 → exec (.tlbInvRange r world) s =
      s.endsBus (({ u with tlbInv := some (0, world, a, a + n - 1) } : State).invalidated.setFld .tlbInvStatus 0 1 1)) ∧
  (∀ (r : Req) (world : Bool) (s : State), s.takes r .tlbInvCmd (9 + 4 * b2n world) →
    let u := s.wrote r .tlbInvCmd (9 + 4 * b2n world)
    let a := u.fld .tlbInvVa 12 45 * 4096
    let n := u.fld .tlbInvLen 12 45 * 4096
    u.flag .tlbInvStatus 0 = false → exec (.tlbInvWorld r world) s =
      s.endsBus (({ u with tlbInv := some (1, world, a, a + n - 1) } : State).invalidated.setFld .tlbInvStatus 0 1 1)) ∧
  (∀ (r : Req) (s : State), s.takes r .tlbInvCmd 10 →
    let u := s.wrote r .tlbInvCmd 10
    let a := u.fld .tlbInvVa 12 45 * 4096
    let n := u.fld .tlbInvLen 12 45 * 4096
    u.flag .tlbInvStatus 0 = false → exec (.tlbInvAll r) s =
      s.endsBus (({ u with tlbInv := some (2, false, a, a + n - 1) } : State).invalidated.setFld .tlbInvStatus 0 1 1)) ∧
  (∀ (s : State), s.live → (∀ e ∈ s.trees, ∀ y ∈ e.2.sb, y.inval = true → y.performed = true) →
    exec .tlbInvDone s = s.ends (({ s with tlbInv := none } : State).setFld .tlbInvStatus 0 1 0))

/-- The host's side of ATS and PRI: an Invalidate Request takes out what it meets, is noted with each translation awaited, and is
completed; a completion that grants the access and met no Invalidate Request installs its translation and wakes its waiter; a page
response asks again or ends the access; the wait for one can end (R303, R305). -/
def hostTranslationsComplete : Prop :=
  (∀ (base size : W64) (s : State), s.live →
    let u := (s.dropTlb fun e => e.atsMeets base.toNat size.toNat).addFld .atsStat 0 32 1
    exec (.atsInvalidateRequest base size) s = s.ends (({ u with atsReqs := u.atsReqs.map fun (e : Nat × AtsReq) =>
      (e.1, { e.2 with gone := (base.toNat, size.toNat) :: e.2.gone }) } : State).sent .invalidateCompletion)) ∧
  (∀ (k : Nat) (hpa size : W64) (rd wr : Bool) (s : State) (q : AtsReq), s.live → aget s.atsReqs k = some q →
    (if q.wr then wr else rd) = true →
    let n := max size.toNat 4096
    let z := atsSize n
    (∀ g ∈ q.gone, ¬ (g.1 < q.addr / n * n + n ∧ q.addr / n * n < g.1 + g.2)) →
    exec (.translationCompletion k hpa size rd wr) s = s.ends (after (do
      installTlb q.grove ⟨q.world, true, q.addr / z * z, z, (hpa.toNat / n * n + q.addr % n) / z * z, b2n rd + 2 * b2n wr, z⟩
      rehold q.who (.ats k) .none) { s with atsReqs := adel s.atsReqs k })) ∧
  (∀ (k : Nat) (code : PrgCode) (s : State) (q : PageReq) (w : Waiter), s.live → s.pcie.ats = true →
    aget s.pageReqs k = some q → q.who = some w →
    let u := ({ s with pageReqs := adel s.pageReqs k } : State)
    let v := u.setFld .priStat 0 9 (u.fld .priStat 0 9 - 1)
    exec (.prgResponse k code) s = s.ends (after (match code with
      | .success => do
        let n ← sendAts ⟨some w, q.addr, q.noWrite, q.world, q.grove, q.wr, true, []⟩
        rehold (some w) (.page k) (.ats n)
      | _ => do
        hostFail (some w) q.addr
        rehold (some w) (.page k) .none) (if code = .failure then v.setFld .priStat 32 1 1 else v))) ∧
  (∀ (k : Nat) (s : State) (q : PageReq) (w : Waiter), s.live → aget s.pageReqs k = some q → q.who = some w →
    exec (.priWaitExpiry k) s = s.ends (after (do
      hostFail (some w) q.addr
      rehold (some w) (.page k) .none) { s with pageReqs := aput s.pageReqs k { q with who := none } }))

/-- The directory commands: LOAD of a range whose records are well formed, readable and name distinct frames writes the entries;
UNLOAD clears them; COMMIT requests a commit, with the fields of EP_CTRL as they are, unless the directory is HALTED; CANCEL
withdraws one that has not begun; RESYNC in OPEN sends every page and the commit record (R45, R319, R336, R340, R341). -/
def directoryCommandsComplete : Prop :=
  (∀ (r : Req) (s u : State) (bytes : List Byte), s.takes r .epCmd 1 →
    let x := s.wrote r .epCmd 1
    let first := x.fld .epRegRange 0 15
    let n := x.fld .epRegRange 32 15
    let base := x.fld .epRegAddr 4 48 * 16
    let recs := (List.range n).map fun k => leAt bytes (16 * k) 16
    x.jobRuns = false → first + n ≤ 24576 → bootFetch false base (16 * n) x = .ok (bytes, false) u →
    recs.any badRecord = false →
    hasDup ((u.entries.filter fun e => e.1 < first || first + n ≤ e.1).flatMap (fun e => [u.epFrame e.1 0, u.epFrame e.1 1]) ++
      recs.flatMap fun r => [(r >>> 21) % 2 ^ 31 * 2 ^ 21, (r >>> 85) % 2 ^ 31 * 2 ^ 21]) = false →
    exec (.load r) s = s.ends (after (withRegs do
      forAll (List.range n) fun k => do
        wr (.epEntry (first + k) 0)
          (BitVec.ofNat 64 (1 + (recs.getD k 0 % 8) <<< 1 + ((recs.getD k 0 >>> 21) % 2 ^ 31) <<< 21))
        wr (.epEntry (first + k) 1) (BitVec.ofNat 64 (((recs.getD k 0 >>> 85) % 2 ^ 31) <<< 21))
        wr (.epEntry (first + k) 2) 0
      epCount
      epResult 0) u)) ∧
  (∀ (r : Req) (s : State), s.takes r .epCmd 2 → (s.wrote r .epCmd 2).jobRuns = false →
    exec (.unload r) s = s.endsBus ((after clearEntries (s.wrote r .epCmd 2)).setFld .epCmdstat 0 8 0)) ∧
  (∀ (r : Req) (s : State), s.takes r .epCmd 4 → (s.wrote r .epCmd 4).epMode ≠ 3 → (s.wrote r .epCmd 4).flag .epStatus 36 = false →
    let u := s.wrote r .epCmd 4
    exec (.commit r) s =
      s.endsBus (({ u with commit := { CommitSt.idle with ctrl := u.reg .epCtrl } } : State).setFld .epStatus 36 1 1)) ∧
  (∀ (r : Req) (s : State), s.takes r .epCmd 16 → (s.wrote r .epCmd 16).commit.step = 0 →
    exec (.cancel r) s = s.endsBus { (s.wrote r .epCmd 16).setFld .epStatus 36 1 0 with commit := .idle }) ∧
  (∀ (r : Req) (s u : State) (bad : List (List Nat)), s.takes r .epCmd 8 → (s.wrote r .epCmd 8).epMode = 1 →
    (s.wrote r .epCmd 8).flag .partState 0 = false →
    let x := s.wrote r .epCmd 8
    mapAll x.entries (fun e => readFrame (x.epFrames e.1).1) (x.setFld .epStatus 37 2 1) = .ok bad u →
    let pages := u.entries.map fun e => (e.1, crc64 0 (u.bytes (u.epFrames e.1).1 (2 ^ 21)), (u.epFrames e.1).1)
    exec (.resync r) s = s.ends (after (withRegs do
      forAll pages fun p => queueJournal 3 p.1 u.epoch 0 p.2.1 0 p.2.2
      queueJournal 4 0 u.epoch pages.length 0 (digestOf (pages.map fun p => (p.1, p.2.1))) 0) u))

/-- A commit whose pages are all sealed and none poisoned, in its window, with no journal and no read unit to wait for, flips; one
that read units keep in step 3 cuts them when DRAIN has passed; a wait for an entry ends with its fault or its manifest; a
journal without an answer is lost (R326, R336, R340). -/
def commitsComplete : Prop :=
  (∀ (s : State), s.live → s.flag .epStatus 36 = true → s.epMode ≠ 3 → (∀ e ∈ s.entries, aread false s.epFlaws e.1 = false) →
    s.commit.step = 0 → (∀ e ∈ s.entries, epState e.2 = 0 ∨ epState e.2 = 2) →
    (∀ i ∈ s.sealed, s.flag (.epEntry i 0) 7 = false) → (bit s.commit.ctrl 0 = true → s.flag .epStatus 35 = true) →
    s.journalling = false →
    let u := ({ s with commit := { s.commit with step := 3 } } : State).setFld .epStatus 32 3 2
    u.drainWaits = false → u.journalling = false →
    ∀ v, flip { u with commit := { u.commit with digest := u.commitDigest } } = .ok () v →
    exec .commitFlip s = s.ends (after landingsGo v)) ∧
  (∀ (s v : State), s.live → s.commit.step = 3 → s.drainWaits = true →
    commitStep4 { s with
      epUnits := s.epUnits.map fun (e : Nat × EpUnit) => (e.1, s.cutUnit e.2)
      commit := { s.commit with cut := true } } = .ok () v →
    exec .commitDrainTimeout s = s.ends (after landingsGo v)) ∧
  (∀ (t : Tid) (s u : State) (va i : Nat) (res : Bool), s.live → (s.thread t.k).hold = .epoch va i res → s.setWaits i = true →
    (do
      noteEpFault 6 t.k i
      incident 0x0A 2 6 (unitWord 0 0) 0 ((← get).reg .epStatus) : M Unit) s = .ok () u →
    exec (.waitTimeout (.thread t)) s = s.ends (after (do
      uncount t.k
      settleStop t.k (enterFault t.k vEpoch 6 (BitVec.ofNat 64 va) (BitVec.ofNat 64 i) res)) (u.unheld t.k))) ∧
  (∀ (f : Fin 64) (s u : State) (m : Manifest) (va i : Nat) (res : Bool), s.live → s.ferry f = some m → m.hold = .epoch va i res → s.setWaits i = true →
    (do
      noteEpFault 6 (0x100 + f) i
      incident 0x0A 2 6 (unitWord 0 0) 0 ((← get).reg .epStatus) : M Unit) s = .ok () u →
    exec (.waitTimeout (.ferry f)) s = s.ends (after (ferryEnd f 2) u)) ∧
  (∀ (s u : State), s.live → s.journalling = true → s.journal.unacked ≠ [] → loseJournal s = .ok () u →
    exec .journalTimeout s = s.ends (after landingsGo u))

/-- The tide unit: a mark samples the phase, by a TIDE_SET value that waits for it outside a job (the model's choice, log entry 159),
else by the multiple of 2^20 ticks nearest to the count; beacons leave on each enabled landing; a loss of beacons sets LOST, whatever
state the link is in; holdover ends in loss of lock (R344, R345, R347, R349). -/
def tideEventsComplete : Prop :=
  (∀ (s : State), s.live → s.tideCfg 0 2 = 1 →
    (∀ v, s.tide.setv = some v → s.jobRuns = false → exec .tideMark s =
      s.ends (after (phaseSample v true) { s with tide := { s.tide with setv := none } })) ∧
    (s.tide.setv = none ∨ s.jobRuns = true → exec .tideMark s =
      s.ends (after (phaseSample (BitVec.ofNat 64 ((s.tideNow + 2 ^ 19) / 2 ^ 20 * 2 ^ 20)) false) s))) ∧
  (∀ (s : State), s.live → s.tideCfg 3 1 = 1 → s.flag .partState 0 = false → s.tideHeld = false →
    exec .beaconSend s =
      s.ends (((List.range 16).filter s.enabledLand).foldl (fun (u : State) l => u.sent (.beacon l u.beacon)) s)) ∧
  (∀ (l : Fin 16) (s u : State), s.live → s.landByte l % 4 ≠ 0 → s.flag (.tideLink l) 0 = false →
    incident 0x0B 2 3 (unitWord 7 l) 0 (s.reg .tideStatus) (s.setFld (.tideLink l) 0 1 1) = .ok () u →
    exec (.beaconLoss l) s = s.ends (after (do
      whenM s.jobRuns (fenceLanding l)
      whenM (s.hasUp && l.val == s.upstream) upstreamLost) u)) ∧
  (∀ (s : State), s.live → s.flag .tideStatus 1 = true → exec .holdoverExpiry s = s.ends (after (setLock false) s))

/-- The tide commands: outside a job TIDE_SET sets the count, or in PINS waits for the mark, and in a job it does not act;
STEP_ORIGIN makes relative times known and arms
their entries, and STEP_ADVANCE moves it on by STEP_PERIOD; a write of word 3 commits and arms an entry; TT_CTRL stores EN, and
EN from 0 to 1 treats entries whose time has passed (R344, R351, R352, R356). -/
def tideCommandsComplete : Prop :=
  (∀ (r : Req) (v : W64) (s : State), s.takes r .tideSet v.toNat →
    let u := s.wrote r .tideSet v.toNat
    (u.jobRuns = false → u.tideCfg 0 2 = 0 → exec (.tideSet r v) s =
      s.endsBus (u.setNow v)) ∧
    (u.jobRuns = false → u.tideCfg 0 2 = 1 →
      exec (.tideSet r v) s = s.endsBus { u with tide := { u.tide with setv := some v } }) ∧
    (u.jobRuns = true ∨ 2 ≤ u.tideCfg 0 2 → exec (.tideSet r v) s = s.endsBus u)) ∧
  (∀ (r : Req) (v : W64) (s : State), s.takes r .stepOrigin v.toNat → exec (.stepOrigin r v) s =
    s.ends (after (withRegs ttArmRel) ((s.wrote r .stepOrigin v.toNat).setFld .tideStatus 22 1 1))) ∧
  (∀ (s : State), s.live → s.fld .stepPeriod 0 32 ≠ 0 →
    let o := s.reg .stepOrigin + BitVec.ofNat 64 (s.fld .stepPeriod 0 32)
    o.toNat ≤ s.tideNow → exec .stepAdvance s = s.ends (after ttArmRel (s.setReg .stepOrigin o))) ∧
  (∀ (r : Req) (e : Fin 512) (v : W64) (s : State), s.takes r (.ttEntry e 3) v.toNat →
    let u := ([0, 1, 2].map fun w => Reg.ttEntry e w).foldl State.unshadow
      (s.setReg (.ttEntry e 3) (s.brings r (.ttEntry e 3) v.toNat))
    exec (.ttEntryCommit r e v) s =
      s.ends (after (withRegs (ttArm e)) { u with tide := { u.tide with pend := u.tide.pend.filter fun p => p.entry != e } })) ∧
  (∀ (r : Req) (en : Bool) (s : State), s.takes r .ttCtrl (b2n en) →
    exec (.ttEn r en) s = s.ends (after (withRegs (whenM (en && !bit (s.reg .ttCtrl) 0) ttEnable)) (s.wrote r .ttCtrl (b2n en))))

/-- Each action of the tide table takes effect when its entry is armed and due: QSTART and COLLECT start the queues that wait for
tide, CWOPEN and CWCLOSE move the commit window, BIST starts the slice selected, REFRESH hints to its channels, DCHECK misses
when its condition is false, EVENT raises its event (R264, R350, R354, R357, R441). -/
def tideActionsComplete : Prop :=
  ∀ (e : Fin 512) (fire base : Nat) (s : State), s.live →
    (s.due e 1 fire base → ∀ q, (s.fired e 1 fire base).ttQueues e = [q] → (s.fired e 1 fire base).qState q = 2 →
      exec (.qstart e) s = s.ends (after (setQState q 1) (s.fired e 1 fire base))) ∧
    (s.due e 2 fire base → exec (.cwopen e) s = s.ends ((s.fired e 2 fire base).setFld .epStatus 35 1 1)) ∧
    (s.due e 3 fire base → (s.fired e 3 fire base).flag .epStatus 36 = false →
      exec (.cwclose e) s = s.ends ((s.fired e 3 fire base).setFld .epStatus 35 1 0)) ∧
    (s.due e 4 fire base →
      let u := s.fired e 4 fire base
      ∀ x, u.bistPick (u.ttField e 2 0 64) = some x →
        exec (.bist e) s = s.ends (after noteCycle { u with bist := ⟨some x, u.bist.count + 1⟩ })) ∧
    (s.due e 5 fire base →
      let u := s.fired e 5 fire base
      let cs := (List.range 48).filter fun c => (u.ttField e 2 0 48).testBit c
      cs ≠ [] → exec (.refresh e) s = s.ends (cs.foldl (fun (t : State) c =>
        { t with fresh := t.fresh + 1, hints := awrite 0 t.hints c (Config.freeW t.fresh).toNat }) u)) ∧
    (s.due e 6 fire base →
      let u := s.fired e 6 fire base
      ∀ rs v, mapAll (u.ttQueues e) tideStart u = .ok rs v → rs.any id = true → exec (.collect e) s = s.ends v) ∧
    (s.due e 7 fire base →
      let u := s.fired e 7 fire base
      exec (.dcheck e) s = s.ends (if u.ttCheck e then u else after (ttMiss e 7 (u.ttTime e)) u)) ∧
    (s.due e 8 fire base →
      let u := s.fired e 8 fire base
      exec (.event e) s = s.ends (after (Sys2Proof.Machine.event (u.ttField e 3 0 10) 0x0031 (u.ttField e 3 16 16)
        (BitVec.ofNat 64 (u.ttField e 2 0 64)) (BitVec.ofNat 64 e)) u))

/-- A deadline that falls due is taken from those pending, and is a miss where its completion has not been reached (R355). -/
def tideDeadlinesComplete : Prop :=
  ∀ (e : Fin 512) (s : State) (p : Pend), s.live →
    (s.tide.pend.find? fun p => p.entry = e.val ∧ p.due ≤ s.tideNow) = some p →
    let u := ({ s with tide := { s.tide with pend := s.tide.pend.erase p } } : State)
    exec (.tideMiss e) s = s.ends (if s.ttDone p then u else after (ttMiss e p.act p.fire) u)

/-- Self-tests: a slice that passes leaves its target as it was and its save area unspecified, counts, and moves the cursor of the
rotating schedule; an abandoned slice counts; what waited for a target is tried again; a late cycle is reported (R442, R443). -/
def selfTestsComplete : Prop :=
  (∀ (s u : State) (x : Slice), s.live → s.bist.slice = some x → x.kind ≠ 5 → s.bistBarred x = false →
    checkAcc ⟨0x170, true⟩ .wr x.save (2 ^ 22) s = .ok none u →
    let v := (u.freeRange x.save (x.save + 2 ^ 22)).bistEnds
    exec (.bistSliceRun .pass) s = s.ends (after (do
      noteCycle
      landingsGo)
      (if x.auto then v.setFld .bistStat 0 14 ((s.fld .bistStat 0 14 + 1) % max v.schedule.length 1) else v))) ∧
  (∀ (s : State) (x : Slice), s.live → s.bist.slice = some x → exec .bistSliceAbandon s =
    s.ends (after landingsGo (({ s with bist := { s.bist with slice := none } } : State).satFld .bistStat 32 14))) ∧
  (∀ (s : State), s.live →
    exec .bistCycleLate s = s.ends (after (incident 0x11 0 4 (unitWord 0 0) 0 (s.reg .bistStat)) s))

/-- Training: a landing that trains, or is DOWN in a job and not fenced, and finds a peer, learns it, counts flits from the start,
and takes the STATE its training ends in; a retrain outside a job makes an enabled landing train that is not fenced; a TRAIN flit tells
a landing in training its peer, ends a retrain, or tells of one (the last is the model's choice, log entry 165) (R359-R362, R433). -/
def landingsTrain : Prop :=
  (∀ (l : Fin 16) (p : PeerInfo) (s : State), s.live → s.landState l = 1 →
    exec (.landingTrain l p) s = s.ends (s.trained l p)) ∧
  (∀ (l : Fin 16) (p : PeerInfo) (s : State), s.live →
    s.landState l = 1 ∨ (s.landState l = 4 ∧ s.jobRuns = true ∧ s.flag .landFence l = false) →
    exec (.landingTrainRetry l (some p)) s = s.ends (s.trained l p)) ∧
  (∀ (r : Req) (l : Fin 16) (s : State), s.takes r (.landCtrl l) 1 →
    let u := s.wrote r (.landCtrl l) 1
    (u.jobRuns = false → u.landByte l % 4 ≠ 0 → u.flag .landFence l = false →
      exec (.retrain r l) s = s.ends (after (withRegs (setLandState l 1))
        ((u.setLink l { u.link l with retrain := false, anyPeer := false }).endHandling (.landing l)))) ∧
    (u.jobRuns = true ∨ u.flag .landFence l = true → exec (.retrain r l) s = s.endsBus u)) ∧
  (∀ (l : Fin 16) (p : TrainInfo) (s : State), s.live →
    (s.landState l = 1 → exec (.train l p) s = s.ends (after (learnPeer l p) s)) ∧
    (∀ lane, s.landUp l = true → s.lostLane l p = some lane → exec (.train l p) s = s.ends (after (loseLane l lane) s)) ∧
    (s.landUp l = true → s.lostLane l p = none → (s.link l).retrain = true →
      exec (.train l p) s = s.ends (after (do
        whenM (!s.flag .partState 0) (send (.beacon l s.beacon))
        whenM (!(s.link l).sent.isEmpty) (resendHeld l)
        recovered 0x0C 300
        Sys2Proof.Machine.flows l) ((s.setLink l { s.link l with retrain := false, replays := 0 }).endHandling (.landing l)))) ∧
    (s.landUp l = true → s.lostLane l p = none → (s.link l).retrain = false →
      exec (.train l p) s = s.ends ((s.setLink l { s.link l with retrain := true }).sent (.train l (s.trainInfo l)))))

/-- Lanes and replays: the loss of a lane in use of an ACTIVE landing, told to the peer, retrains it on three lanes, and a further one
takes it DOWN; a replay counts and sends the flits held, and the eighth in a row retrains, or takes DOWN a landing that has not three
lanes; the end of a fence makes an enabled landing train with any peer (R361, R362, R366, R433). -/
def linkRecoveriesComplete : Prop :=
  (∀ (l : Fin 16) (lane : Fin 4) (s : State), s.live →
    (s.landState l = 2 → (s.link l).retrain = false → s.flag (.landStatus l) (5 + lane) = true →
      let u := (s.setFld (.landStatus l) (5 + lane) 1 0).satFld (.landErr l) 56 4
      let v := u.setLink l { u.link l with retrain := true, bads := [] }
      exec (.laneLoss l lane) s = s.ends (after (do
        setLandState l 3
        reportIn (some (.landing l)) 0x0C 2 1 (unitWord 7 l) 0 (.landStatus l)
        modify fun s => s.handle (.landing l) 0x0C 1 (unitWord 7 l) none) (v.sent (.train l (v.trainInfo l))))) ∧
    (s.landState l = 3 ∨ (s.landState l = 2 ∧ (s.link l).retrain = true) → exec (.laneLoss l lane) s =
      s.ends (after (downLanding l) (s.satFld (.landErr l) 56 4)))) ∧
  (∀ (l : Fin 16) (s : State), s.live → s.flows l → (s.link l).sent ≠ [] →
    let x := s.link l
    let u := after (resendHeld l) (s.setLink l { x with replays := x.replays + 1 })
    (x.replays < 7 → exec (.replay l) s = s.ends u) ∧
    (7 ≤ x.replays → 3 ≤ (u.lanesIn l).length → exec (.replay l) s =
      s.ends ((u.setLink l { u.link l with retrain := true, replays := 0 }).sent (.train l (u.trainInfo l)))) ∧
    (7 ≤ x.replays → (u.lanesIn l).length < 3 → exec (.replay l) s = s.ends (after (downLanding l) u))) ∧
  (∀ (r : Req) (l : Fin 16) (s : State), s.takes r .landUnfence (2 ^ l.val) →
    let u := (s.wrote r .landUnfence (2 ^ l.val)).setFld .landFence l 1 0
    (s.wrote r .landUnfence (2 ^ l.val)).flag .landFence l = true →
    exec (.landUnfence r l) s = s.ends (after (withRegs do
      startTrain l
      modify fun s => s.setLink l { s.link l with anyPeer := true }) u))

/-- Flits on a landing that carries traffic. A DATA flit whose codeword decodes to what was sent gives its ACK; in sequence it moves the
SEQ expected, its content is received, and with nothing to send an IDLE flit answers; out of sequence it is discarded. A NAK replays
what is held. A codeword that does not decode is counted, answered with a NAK, and blamed on the lanes of its errors (R361, R363, R364,
R366). A beacon on a landing that is not the upstream is noted, and ends the landing's LOST when it is accepted; one that comes while the
tide unit is held waits (R48, R348). -/
def flitsComplete : Prop :=
  (∀ (l : Fin 16) (seq ack : BitVec 12) (f : DataFlit) (s : State), s.live → s.flows l →
    f.errs = [] ∨ linkJudge (linkErrs f.errs) = some [] →
    let u := after (takeAck l ack.toNat) (if f.errs.isEmpty then s else s.satFld (.landErr l) 0 24)
    exec (.data l seq ack f) s = s.ends
      (if seq.toNat = (u.link l).expect then after (do
          rxContent l ((f.content ++ List.replicate 156 0).take 156)
          let x := (← get).link l
          whenM (!x.waits) (send (.idle l x.ack))) (u.setLink l { u.link l with expect := (seq.toNat + 1) % 4096 })
       else u)) ∧
  (∀ (l : Fin 16) (ack : BitVec 12) (s : State), s.live → s.flows l →
    exec (.nak l ack) s = s.ends (after (replay l) (after (takeAck l ack.toNat) s))) ∧
  (∀ (l : Fin 16) (ack : BitVec 12) (s : State), s.live → s.flows l →
    exec (.idle l ack) s = s.ends (after (takeAck l ack.toNat) s)) ∧
  (∀ (w : BadWord) (s : State), s.live → s.landUp w.land = true → w.errs ≠ [] → linkJudge (linkErrs w.errs) = none →
    exec (.uncorrectableCodeword w) s =
      s.ends (after (forAll ((linkErrs w.errs).map fun x => s.laneOf w.land (w.first + x.1)).eraseDups (blameLane w.land))
        ((s.satFld (.landErr w.land) 24 16).sent (.nak w.land (s.link w.land).ack)))) ∧
  (∀ (l : Fin 16) (b : BeaconMsg) (s : State), s.live →
    (s.tideHeld = true → exec (.beacon l b) s =
      s.ends { s with tide := { s.tide with waiting := s.tide.waiting ++ [(l.val, b)] } }) ∧
    (s.tideHeld = false → s.landUp l = true →
      (s.tide.known = true → s.fld .tideStatus 32 16 = b.master.toNat ∨ s.tideCfg 2 1 = 1) → l.val ≠ s.upstream →
      let u := (s.setFld (.tideLink l) 1 4 b.hops.toNat).setFld (.tideLink l) 32 16 b.sender.toNat
      let v := u.setLink l { u.link l with heard := some b }
      let w := v.setFld (.tideLink l) 0 1 0
      exec (.beacon l b) s = s.ends (if s.goodBeacon b then w.setLink l { w.link l with beaconAt := b.now } else v)))

/-- Packets for other parts and requests of others: a packet for another part goes on with one hop less, its CRC64 that
of the new header; a WRITE, a READREQ and a
REDUCE whose range is granted and readable are served and answered; a NOTIFY adds to its counter and is answered (R369, R372,
R375, R379). -/
def packetRequestsComplete : Prop :=
  (∀ (l : Fin 16) (p : Packet) (s : State) (o : Nat), s.live → s.flows l → s.flag .landFence l = false →
    p.dpart.toNat ≠ s.partId → p.hops ≠ 0 → s.route p.dpart.toNat = some o →
    exec (.packetForward l p) s = s.ends (after (sendOn .fwd o (hopOn p)) s)) ∧
  (∀ (l : Fin 16) (p : Packet) (s u v w : State) (g : List Seg), s.live → s.serves l p →
    inbound l (landReq l p.world) true p.addr.toNat p.len s = .ok (.ok g) u →
    writeSegs (landReq l p.world) g (pktBytes p) u = .ok true v → sendAck p 0 0 0 v = .ok () w →
    exec (.pktWrite l p) s = s.ends w) ∧
  (∀ (l : Fin 16) (p : Packet) (s u v w x : State) (g : List Seg) (b : PBytes), s.live → s.serves l p →
    inbound l (landReq l p.world) false p.addr.toNat p.len s = .ok (.ok g) u →
    readSegs (landReq l p.world) g u = .ok (some b) v →
    sendReply (v.mkPacket p.spart.toNat 3 p.world p.addr.toNat 0 p.tid.toNat (pmaskOf p.addr.toNat b) p.len (b.map (·.1))) v
      = .ok () w → sendAck p 0 0 0 w = .ok () x → exec (.readreq l p) s = s.ends x) ∧
  (∀ (l : Fin 16) (p : Packet) (s u v w x y : State) (gb gd : List Seg) (b : PBytes),
    let rop := p.aux.toNat / 2 ^ 52 % 16
    let f := p.aux.toNat / 2 ^ 56 % 8
    let n := p.data.length / redA f * redB f
    let r := landReq l p.world
    s.live → s.serves l p → s.testing 8 l = false → rop ≤ 2 → f ≤ 2 →
    inbound l r false (if p.aux.toNat.testBit 59 then p.aux.toNat % 2 ^ 52 else p.addr.toNat) n s = .ok (.ok gb) u →
    inbound l r true p.addr.toNat n u = .ok (.ok gd) v → readSegs r gb v = .ok (some b) w →
    writeSegs r gd (combineAll rop f (pktBytes p) b).1 w = .ok true x →
    sendAck p (if (combineAll rop f (pktBytes p) b).1.any (·.2) then 9 else 0) 0 (combineAll rop f (pktBytes p) b).2 x
      = .ok () y → exec (.pktReduce l p) s = s.ends y) ∧
  (∀ (l : Fin 16) (p : Packet) (s u v : State), s.live → s.serves l p →
    bumpFerry (p.addr.toNat % 64) (p.addr.toNat / 64 % 16) s = .ok () u → sendAck p 0 0 0 u = .ok () v →
    exec (.notify l p) s = s.ends v)

/-- Replies: a READCPL's bytes are written to local memory and its descriptor goes on; an ACK of a WRITE, a REDUCE or a NOTIFY
ends its wait, with its conditions and its poison (R377, R380). -/
def packetRepliesComplete : Prop :=
  (∀ (l : Fin 16) (p : Packet) (s u v w x : State) (a : Await) (r : LRun) (g : List Seg),
    let m := tidLand p.tid.toNat
    let d := r.desc
    let off := p.addr.toNat - rowAddr (ldesc d 0x10 8) (ldesc d 0x2C 4) a.row
    s.live → s.receives l p → s.awaited p.tid.toNat p.spart.toNat false = some a → a.pkt.type.toNat = 2 → a.pkt.addr = p.addr →
    a.pkt.len = p.len → s.lrun m a.queue = some r →
    landSegs (landReq m (s.qWorld a.queue)) true ((rowAddr (ldesc d 8 8) (ldesc d 0x28 4) a.row + off) % 2 ^ 64) p.len s
      = .ok (.ok g) u →
    writeSegs (landReq m (s.qWorld a.queue)) g (pktBytes p) (u.replied m a.tid) = .ok true v →
    changeRun m a.queue (fun r => { r with poisoned := r.poisoned || (pktBytes p).any (·.2) }) v = .ok () w →
    pumpLanding m w = .ok () x → exec (.readcpl l p) s = s.ends x) ∧
  (∀ (l : Fin 16) (p : Packet) (s u : State) (a : Await),
    let m := tidLand p.tid.toNat
    let code := p.addr.toNat % 256
    s.live → s.receives l p → p.tid.toNat < 2 ^ 31 → s.awaited p.tid.toNat p.spart.toNat false = some a → a.pkt.type.toNat ≠ 2 →
    code = 0 ∨ code = 9 → changeRun m a.queue (fun r => { r with
      conds := r.conds ||| p.addr.toNat / 2 ^ 16 % 128
      poisoned := r.poisoned || code = 9 }) (s.replied m a.tid) = .ok () u →
    exec (.ack l p) s = s.ends (after (pumpLanding m) u))

/-- The journal's packets: a record joins those that are not whole, with the parts of its page that came before it, and a part of a page
joins its record; records that are whole are handled in their order; a JACK that accepts the oldest record takes it out, and ends
step 4 of a commit whose record it is (R336, R339, R383). -/
def journalPacketsComplete : Prop :=
  (∀ (l : Fin 16) (p : Packet) (s : State), s.live → s.receives l p →
    let num := p.addr.toNat / 2 ^ 32
    let mine (e : Packet) : Bool := e.addr.toNat / 2 ^ 32 = num
    (p.addr.toNat % 2 ^ 32 = 0 →
      let x := if s.replica.restarts num then
          { s.replica with next := some num, recs := [], early := s.replica.early.filter mine } else s.replica
      exec (.journal l p) s = s.ends (after (do
        forAll (x.early.filter mine) fun e => do
          match (← get).replica.recs.find? fun y => y.num = num with
          | some r => rxPart l r e
          | none => skip
        handleDue p 9) { s with replica := { x with
          recs := x.recs ++ [rxRecord num p.len p.data], early := x.early.filter fun e => e.addr.toNat / 2 ^ 32 ≠ num } })) ∧
    (∀ r, p.addr.toNat % 2 ^ 32 ≠ 0 → (s.replica.recs.find? fun y => y.num = num) = some r →
      exec (.journal l p) s = s.ends (after (do
        rxPart l r p
        handleDue p 9) s))) ∧
  (∀ (l : Fin 16) (p : Packet) (s u : State) (r : JRec) (q : List JRec), s.live → s.receives l p → s.journal.unacked = r :: q →
    r.num = field p.addr 32 32 → s.fld .epStatus 37 2 = 1 → bit p.addr 0 = true →
    (do
      pumpJournal 8
      whenM (s.commit.step = 4 && r.kind = 2) flip : M Unit) { s with journal := { s.journal with unacked := q } } = .ok () u →
    exec (.jack l p) s = s.ends (after landingsGo u))

/-- LAND_WRITE, LAND_READ, REDUCE and REDUCE_COPY take a descriptor of their OP at HEAD of a queue of an enabled landing that runs fewer
than 16, when the queue's turn comes: a well-formed one sends its packets, and a malformed one fails; a descriptor that runs goes on
(R373, R374, R378). -/
def landingDescriptorsStart : Prop :=
  ∀ e ∈ ([(.landWrite, 1), (.landRead, 2), (.reduce, 3), (.reduceCopy, 4)] : List ((Fin 16 → Fin 64 → Instr) × Nat)),
    ∀ (l : Fin 16) (n : Fin 64) (s u : State) (d : List Byte),
      let q := 0x1800 + 64 * l.val + n.val
      (s.live → s.lrun l q = none → s.landByte l % 4 ≠ 0 → (s.link l).runs.length < 16 → s.landTurn l = some q →
        headEntry q s = .ok (some d) u → dOp d = e.2 →
        (landDescOk s d = true → exec (e.1 l n) s = s.ends (after (pumpLanding l) (u.taken l q d))) ∧
        (landDescOk s d = false → exec (e.1 l n) s = s.ends (after (failRun l q 0 1 0) (u.taken l q d)))) ∧
      (∀ r, s.live → s.lrun l q = some r → dOp r.desc = e.2 → exec (e.1 l n) s = s.ends (after (pumpLanding l) s))

/-- LAND_DONE ends a descriptor that has sent all and awaits nothing with STATUS, its counter and its event; LAND_ERROR ends one
that has failed and awaits nothing, with its code; a packet without a reply fails its descriptor with code 6 (R377, R378). -/
def landingDescriptorsEnd : Prop :=
  (∀ (l : Fin 16) (n : Fin 64) (s : State) (r : LRun),
    let q := 0x1800 + 64 * l.val + n.val
    s.live → s.lrun l q = some r → r.err = none → ldesc r.desc 0x24 2 ≤ r.row → (∀ a ∈ (s.link l).await, a.queue ≠ q) →
    (r.notify = true ∨ (ldesc r.desc 3 1).testBit 3 = false) → exec (.landDone l n) s = s.ends (after (withRegs (endGood l r)) s)) ∧
  (∀ (l : Fin 16) (n : Fin 64) (s : State) (r : LRun) (code sub : Nat),
    let q := 0x1800 + 64 * l.val + n.val
    s.live → s.lrun l q = some r → r.err = some (code, sub) → (∀ a ∈ (s.link l).await, a.queue ≠ q) →
    exec (.landError l n) s = s.ends (after (withRegs (endBad l r code sub)) s)) ∧
  (∀ (l : Fin 16) (tid : BitVec 32) (s : State) (a : Await), s.live →
    ((s.link l).await.find? fun a => a.tid = tid.toNat) = some a →
    exec (.landPacketTimeout l tid) s = s.ends (after (failRun l a.queue a.row 6 0) (s.replied l tid.toNat)))

/-- Host resets: Function Level Reset, Hot Reset, Link Disable and PERST_N alike count, show RESET, and take away what the port holds;
with no job, and no scrub that must end first, configuration space takes its reset values at once, but for the sticky fields of AER; a
re-rig completes first; a running job is ended; and host-window requests that waited end (R391). -/
def hostResetsComplete : Prop :=
  ∀ c ∈ [Instr.flr, .hotReset, .linkDisable, .perstN], ∀ (s u : State), s.live →
    let x := ((s.satFld .pciestat 16 16).setFld .pciestat 9 1 1).setFld .pciestat 10 1 0
    let waits := endHostWaits s.hostWaits fun w => s.jobRuns && s.jobWaiter w
    resetPort { x with pcie := { x.pcie with inReset := true } } = .ok () u →
    (s.pstate = 2 → exec c s = s.ends (after waits u)) ∧
    (s.pstate ≠ 2 → u.jobRuns = false → u.flag .scrubStatus 0 = false ∨ u.job.far = true →
      exec c s = s.ends (after waits
        (({ u with pcie := { PcieSt.init with aer := u.pcie.aer, aerLog := u.pcie.aerLog } } : State).setFld .pciestat 9 1 0))) ∧
    (s.pstate ≠ 2 → u.jobRuns = true → exec c s = s.ends (after (do
      resetGo
      waits) u))

/-- The PCIe function: D3hot outside a job and D0, which sends what is pending; the link's state; the vectors' entries and masks; each
field of configuration space, read and set, and Configuration Request Retry Status while the port is not ready; a failed request of
the host window is counted and reported (R303, R305, R385-R387, R389-R394). -/
def portCommandsComplete : Prop :=
  ∀ s : State, s.live →
    (s.jobRuns = false → exec .d3hot s = s.ends (s.setFld .pciestat 10 1 1)) ∧
    exec .d0 s = s.ends (after sendPending (s.setFld .pciestat 10 1 0)) ∧
    exec .pcieLinkLoss s = s.ends (((s.setFld .pciestat 0 3 0).setFld .pciestat 3 5 0).setFld .pciestat 8 1 0) ∧
    (∀ speed width flit, exec (.pcieLinkUp speed width flit) s = s.ends
      (((s.setFld .pciestat 0 3 (speedCode speed)).setFld .pciestat 3 5 (widthCode width)).setFld .pciestat 8 1 (b2n flit))) ∧
    (∀ e : MsixEntry,
      (s.pcie.inReset = false → s.flag .pciestat 10 = false → exec (.msixUnmask e) s = s.ends (after sendPending
        { s with pcie := { s.pcie with
          table := awrite (0, 0) s.pcie.table e.vec (e.addr, e.data)
          unmasked := awrite false s.pcie.unmasked e.vec true } })) ∧
      (s.pcie.inReset = true ∨ s.flag .pciestat 10 = true → exec (.msixUnmask e) s = s.ends s)) ∧
    (∀ line, inHost (line * 128) = true →
      let u : State := { s with dead := awrite false s.dead line true }
      exec (.hostCompletionFailure line .linkDown) s = s.ends (after (hostEnd (line * 128) 2) u) ∧
      exec (.hostCompletionFailure line .timeout) s = s.ends (after (do
        noteAer 14
        hostEnd (line * 128) 1) u) ∧
      exec (.hostCompletionFailure line .unsupported) s = s.ends (after (hostEnd (line * 128) 1) u) ∧
      exec (.hostCompletionFailure line .abort) s = s.ends (after (hostEnd (line * 128) 1) u) ∧
      exec (.hostCompletionFailure line .poisoned) s = s.ends (after (noteAer 12) u) ∧
      exec (.hostCompletionFailure line .ecrc) s = s.ends u) ∧
    (s.portReady = false → ∀ c, exec (.configurationRequest c) s = s.ends (s.sent (.answer pcieIface 2 []))) ∧
    (s.portReady = true →
      (∀ f, exec (.configurationRequest (.read f)) s = s.ends (s.configured [s.cfgField f])) ∧
      (∀ n, exec (.configurationRequest (.maxPayload n)) s =
        s.ends (({ s with pcie := { s.pcie with maxPayload := min n 2 } } : State).configured [])) ∧
      (∀ n, exec (.configurationRequest (.maxReadRequest n)) s =
        s.ends (({ s with pcie := { s.pcie with maxRead := min n 5 } } : State).configured [])) ∧
      (∀ n, exec (.configurationRequest (.timeout n)) s =
        s.ends (({ s with pcie := { s.pcie with timeout := n } } : State).configured [])) ∧
      (∀ b, exec (.configurationRequest (.aerClear b)) s = s.ends (({ s with pcie := { s.pcie with
        aer := s.pcie.aer &&& ~~~b
        aerLog := if s.pcie.aer &&& ~~~b = 0 then [] else s.pcie.aerLog } } : State).configured [])) ∧
      exec (.configurationRequest (.atsEnable true)) s =
        s.ends (({ s with pcie := { s.pcie with ats := true } } : State).configured []) ∧
      exec (.configurationRequest (.atsEnable false)) s = s.ends ((after atsOff s).configured []) ∧
      (∀ on, exec (.configurationRequest (.priEnable on)) s = s.ends
        ((after (whenM (on && !s.pcie.pri) (wrf .priStat 32 1 0)) { s with pcie := { s.pcie with pri := on } }).configured [])) ∧
      (∀ on, exec (.configurationRequest (.busMaster on)) s =
        s.ends ((after sendPending { s with pcie := { s.pcie with busMaster := on } }).configured [])) ∧
      (∀ on, exec (.configurationRequest (.msixEnable on)) s =
        s.ends ((after sendPending { s with pcie := { s.pcie with msix := on } }).configured [])) ∧
      (∀ on, exec (.configurationRequest (.msixFunctionMask on)) s =
        s.ends ((after sendPending { s with pcie := { s.pcie with funcMask := on } }).configured [])) ∧
      (∀ v, exec (.configurationRequest (.msixVectorMask v)) s =
        s.ends (({ s with pcie := { s.pcie with unmasked := awrite false s.pcie.unmasked v false } } : State).configured [])) ∧
      (∀ n, exec (.configurationRequest (.bar2Size n)) s =
        s.ends (({ s with pcie := { s.pcie with bar2 := n } } : State).configured [])))

/-- An access through BAR2 within its size, while the port takes requests, reaches the near bank from HOSTAPT.BASE on, target by
target: a read is answered with the bytes, and a write with nothing (R387, R388). -/
def aperturesComplete : Prop :=
  ∀ (off n : Nat) (wr : Bool) (bs : List Byte) (s u : State) (out : List (List Byte)), s.live → s.pcie.inReset = false →
    s.flag .pciestat 10 = false → off + n ≤ 2 ^ (30 + s.pcie.bar2) →
    let a := s.fld .hostapt 30 22 * 2 ^ 30 + off
    mapAll (s.joined (lineParts a n)) (fun p => bar2Part wr p.1 p.2 ((bs.drop (p.1 - a)).take p.2)) s = .ok out u →
    exec (.bar2Access off wr n bs) s = s.ends (if wr then u else u.answers pcieIface 0 (out.flatten.map BitVec.toNat))

/-- MCTP control and the vendor messages are answered: identity and support, incident records of the ring, registers and memory as
the management master reaches them, and debug tokens (R396, R397, R459). -/
def managementMessagesComplete : Prop :=
  ∀ s : State, s.live →
    (∀ eid : BitVec 8, exec (.setEndpointId eid) s =
      s.ends ((s.setFld .mgmtstat 0 8 eid.toNat).answers mctpIface 0 [eid.toNat])) ∧
    exec .getEndpointId s = s.ends (s.answers mctpIface 0 [s.fld .mgmtstat 0 8]) ∧
    exec .getEndpointUuid s = s.ends (s.answers mctpIface 0 (leNats Config.endpointUuid.toNat 16)) ∧
    exec .getMctpVersionSupport s = s.ends (s.answers mctpIface 0 [1, 0xF1, 0xF3, 0xF1, 0x00]) ∧
    exec .getMessageTypeSupport s = s.ends (s.answers mctpIface 0 [0x00, 0x01, 0x05, 0x7E]) ∧
    exec .getVendorDefinedMsgSupport s = s.ends (s.answers mctpIface 0 [0x1D, 0x7A]) ∧
    (∀ (start : BitVec 32) (n : Nat) (out : List (List Byte)) (u : State),
      mapAll (List.range n) (fun i => readRecord (s.fld .incRing 18 34 * 2 ^ 18 + (start.toNat + i) % 4096 * 64)) s =
        .ok out u →
      exec (.readIncidents start n) s = s.ends (u.answers vendorIface 0 (out.flatten.map BitVec.toNat))) ∧
    (∀ (a : BitVec 52) (n : Nat) (b : List Byte) (u : State), n = 4 ∨ n = 8 → reach mgmtReq a.toNat n s = .ok (.ok b) u →
      exec (.readReg a n) s = s.ends (u.answers vendorIface 0 (b.map BitVec.toNat))) ∧
    (∀ (a : BitVec 52) (n : Nat) (v : W64) (u : State), n = 4 ∨ n = 8 → reachWrite mgmtReq a.toNat n v s = .ok .done u →
      exec (.writeReg a n v) s = s.ends (u.answers vendorIface 0 [])) ∧
    (∀ (t : List Byte) (u : State), takeToken t s = .ok () u →
      (s.tokenOk t = true → exec (.debugToken t) s = s.ends (u.answers vendorIface 0 [leAt t 4 1])) ∧
      (s.tokenOk t = false → exec (.debugToken t) s = s.ends (u.answers vendorIface 1 [s.fld .dbgstat 0 2])))

/-- PLDM: an event receiver and sensor values are kept; a firmware update takes one requester, puts each component into its
inactive slot and verifies it there, and on activation writes the other selector copy (R398, R399, R451). -/
def firmwareUpdatesComplete : Prop :=
  ∀ s : State, s.live →
    (∀ eid : BitVec 8, exec (.setEventReceiver eid) s =
      s.ends (({ s with mgmt := { s.mgmt with receiver := eid.toNat } } : State).answers pldmIface 0 [])) ∧
    (∀ vals,
      let v := vals.getD 0 s.power.vin
      let u : State := { s with
        mgmt := { s.mgmt with sensors := s.readings v (vals.getD 1 0) }
        power := { s.power with vin := v } }
      (s.mgmt.receiver = 0 → exec (.pldmSensorUpdate vals) s = s.ends u) ∧
      exec (.pldmSensorUpdate vals) s = s.ends (after (forAll sensorPdrs fun e => do
        let x ← get
        whenM (x.mgmt.receiver != 0 && x.sensor e.1 != s.sensor e.1) (do
          whenM (bit (← draw) 0) (send (.platformEvent x.mgmt.receiver e.1 (x.sensor e.1))))) u)) ∧
    (∀ ep : BitVec 8, s.mgmt.update = none → exec (.requestUpdate ep) s =
      s.ends ((({ s with mgmt := { s.mgmt with update := some (ep.toNat, []) } } : State).setFld .mgmtstat 19 1 1).answers
        pldmIface 0 [])) ∧
    (∀ ep : BitVec 8, s.mgmt.update ≠ none → exec (.requestUpdate ep) s = s.ends (s.answers pldmIface 0x81 [])) ∧
    (∀ (c : Fin 3) (image : List Byte) (ep : Nat) (done : List Nat), s.mgmt.update = some (ep, done) →
      image.length ≤ compSize c →
      let k := s.inactive c
      let t := (s.eraseFlash (compAddr c k) (compSize c)).setFlash (compAddr c k) image
      t.imgCheck (t.compBytes c k) (compReq c k) = 0 →
      exec (.verifyComplete (BitVec.ofNat 16 (c + 1)) image) s =
        s.ends (({ t with mgmt := { t.mgmt with update := some (ep, c.val :: done.filter (· != c.val)) } } : State).answers
          pldmIface 0 [])) ∧
    (∀ (ep : Nat) (done : List Nat), s.mgmt.update = some (ep, done) →
      let slots := (List.range 3).map fun c => if done.contains c then s.inactive c else s.slotOf c
      let x := match s.selected with
        | some (k, n, _) => (1 - k, (n + 1) % 2 ^ 32)
        | none => (0, 1)
      let used := toLE x.2 4 ++ slots.flatMap fun y => toLE y 1
      let b := used ++ List.replicate (60 - used.length) 0
      let t := s.setFlash (selAddr x.1) (b ++ toLE (crc32c 0 b) 4)
      exec .activateFirmware s =
        s.ends ((({ t with mgmt := { s.mgmt with update := none } } : State).setFld .mgmtstat 19 1 0).answers pldmIface 0 []))

/-- SPDM: a requester that holds state, or finds room for it, is answered; what needs negotiated state is answered once it is
negotiated: digests, certificates, a challenge and measurements signed with the identity key, and the owner's chain kept in
flash; a requester's state expires (R400, R457). -/
def attestationsComplete : Prop :=
  ∀ (s : State) (ep : BitVec 8), s.live →
    ((aget s.mgmt.spdm ep.toNat).isSome = true ∨ s.mgmt.spdm.length < 4 →
      (let u : State := { s with mgmt := { s.mgmt with spdm := aput s.mgmt.spdm ep.toNat false } }
       exec (.getVersion ep) s =
          s.ends ((u.setFld .mgmtstat 20 3 u.mgmt.spdm.length).answers spdmIface 0 [0x12, 0x13])) ∧
      exec (.getCapabilities ep) s = s.ends (s.answers spdmIface 0 (leNats spdmCaps 4))) ∧
    ((aget s.mgmt.spdm ep.toNat).isSome = true → ∀ mldsa shake,
      let u := ({ s with mgmt := { s.mgmt with spdm := aput s.mgmt.spdm ep.toNat (mldsa && shake) } } : State)
      exec (.negotiateAlgorithms ep mldsa shake) s =
        s.ends ((u.setFld .mgmtstat 20 3 u.mgmt.spdm.length).answers spdmIface 0 [b2n mldsa, b2n shake])) ∧
    (aget s.mgmt.spdm ep.toNat = some true →
      exec (.getDigests ep) s = s.ends (s.answers spdmIface 0
        ((digestBytes (shake512 (s.chain 0)) ++ digestBytes (shake512 (s.chain 1))).map BitVec.toNat)) ∧
      (∀ (slot : BitVec 4) (off n : Nat), slot.toNat ≤ 1 → exec (.getCertificate ep slot off n) s =
        s.ends (s.answers spdmIface 0 ((((s.chain slot.toNat).drop off).take n).map BitVec.toNat))) ∧
      (∀ nonce, s.sec.keysGone = false →
        let body := digestBytes (shake512 (s.chain 0)) ++ nonce
        exec (.challenge ep 0 nonce) s = s.ends (s.answers spdmIface 0 ((body ++ Config.mldsaSign identityKeys.2 body).map BitVec.toNat))) ∧
      exec (.getMeasurements ep 0) s = s.ends (s.answers spdmIface 0 [6]) ∧
      (∀ i : BitVec 8, 1 ≤ i.toNat → i.toNat ≤ 6 ∨ i.toNat = 0xFF → s.sec.keysGone = false →
        let body := if i.toNat = 0xFF then measureRecord 6 ((List.range 6).flatMap fun k => s.measureBlock (k + 1))
          else measureRecord 1 (s.measureBlock i.toNat)
        exec (.getMeasurements ep i) s =
          s.ends (s.answers spdmIface 0 ((body ++ Config.mldsaSign identityKeys.2 body).map BitVec.toNat))) ∧
      (∀ chain, chain.length ≤ 0x3_0000 → exec (.setCertificate ep true chain) s =
        s.ends (((s.eraseFlash 0x203_0000 0x3_0000).setFlash 0x203_0000 chain).answers spdmIface 0 []))) ∧
    (let u : State := { s with mgmt := { s.mgmt with spdm := adel s.mgmt.spdm ep.toNat } }
     exec (.spdmStateExpiry ep) s = s.ends (u.setFld .mgmtstat 20 3 u.mgmt.spdm.length))

/-- The common command codes of I3C: events, addresses and lengths are kept, and what is asked for is answered (R395). -/
def i3cCommandsComplete : Prop :=
  ∀ s : State, s.live →
    (∀ e : BitVec 8, exec (.enec e) s =
      s.ends (({ s with mgmt := { s.mgmt with events := s.mgmt.events ||| e.toNat } } : State).answers i3cIface 0 [])) ∧
    (∀ e : BitVec 8, exec (.disec e) s =
      s.ends (({ s with mgmt := { s.mgmt with events := s.mgmt.events &&& (255 - e.toNat) } } : State).answers i3cIface 0 [])) ∧
    exec .rstdaa s = s.ends (((s.setFld .mgmtstat 8 7 0).setFld .mgmtstat 15 1 0).answers i3cIface 0 []) ∧
    (∀ a : BitVec 7, s.flag .mgmtstat 15 = false →
      exec (.entdaa a) s = s.ends (((s.setFld .mgmtstat 8 7 a.toNat).setFld .mgmtstat 15 1 1).answers i3cIface 0 [])) ∧
    (∀ x a : BitVec 7, s.flag .mgmtstat 15 = false → x.toNat = 0x48 + s.fld .mgmtstat 16 3 →
      exec (.setdasa x a) s = s.ends (((s.setFld .mgmtstat 8 7 a.toNat).setFld .mgmtstat 15 1 1).answers i3cIface 0 [])) ∧
    (∀ n : BitVec 16, exec (.setmwl n) s =
      s.ends (({ s with mgmt := { s.mgmt with mwl := n.toNat } } : State).answers i3cIface 0 [])) ∧
    (∀ n : BitVec 16, exec (.setmrl n) s =
      s.ends (({ s with mgmt := { s.mgmt with mrl := n.toNat } } : State).answers i3cIface 0 [])) ∧
    exec .getmwl s = s.ends (s.answers i3cIface 0 (leNats s.mgmt.mwl 2)) ∧
    exec .getmrl s = s.ends (s.answers i3cIface 0 (leNats s.mgmt.mrl 2)) ∧
    exec .getpid s = s.ends (s.answers i3cIface 0 (leNats provisionalId 6)) ∧
    exec .getbcr s = s.ends (s.answers i3cIface 0 [(Config.standardReply i3cIface 0x8E).toNat]) ∧
    exec .getdcr s = s.ends (s.answers i3cIface 0 [(Config.standardReply i3cIface 0x8F).toNat]) ∧
    exec .getstatus s = s.ends (s.answers i3cIface 0 [(Config.standardReply i3cIface 0x90).toNat])

/-- The TAP at the debug level that an instruction needs: BYPASS and IDCODE at any, the boundary scan from level 1, DBG_ACCESS from
level 2 and SCAN at level 3; a frame of DBG_TOKEN before the seventh is kept, and the nonce is shifted out (R402, R458). -/
def tapInstructionsComplete : Prop :=
  ∀ s : State, s.live →
    let at_ (op : Nat) : State := { s with mgmt := { s.mgmt with tap := op } }
    exec .bypass s = s.ends (at_ 0xFF) ∧
    exec .idcode s = s.ends ((at_ 0x01).answers tapIface 0 (leNats 0x1019_2A6B 4)) ∧
    (1 ≤ s.fld .dbgstat 0 2 → exec .samplePreload s = s.ends (after boundaryScan (at_ 0x02)) ∧
      exec .extest s = s.ends (at_ 0x03) ∧ exec .clamp s = s.ends (at_ 0x04) ∧ exec .highz s = s.ends (at_ 0x05)) ∧
    (∀ frame, (s.sec.frames ++ frame).length < 7 * 512 →
      let u := (at_ 0x10).answers tapIface 0 ((List.range 4).flatMap fun k => leNats (s.reg (.dbgNonce k)).toNat 8)
      exec (.dbgToken frame) s = s.ends { u with sec := { s.sec with frames := s.sec.frames ++ frame } }) ∧
    (2 ≤ s.fld .dbgstat 0 2 → ∀ (a : BitVec 52) (n : Nat) (v : W64) (u : State),
      (∀ x, reachWrite ⟨0x180, true⟩ a.toNat n v (at_ 0x20) = .ok x u →
        exec (.dbgAccess a true n v) s = s.ends (u.answers tapIface 0 [])) ∧
      (∀ b, reach ⟨0x180, true⟩ a.toNat n (at_ 0x20) = .ok (.ok b) u →
        exec (.dbgAccess a false n v) s = s.ends (u.answers tapIface 0 (b.map BitVec.toNat)))) ∧
    (3 ≤ s.fld .dbgstat 0 2 → exec .scan s =
      s.ends (({ at_ 0x30 with fresh := s.fresh + 1 } : State).answers tapIface 0 [(Config.freeW s.fresh).toNat]))

/-- Every PMBus command that the module answers, while its rails are up; any other code is not acknowledged and marks CML (R475). -/
def pmbusCommandsComplete : Prop :=
  ∀ s : State, s.power.on = true →
    let reply (n v : Nat) := s.ends (s.answers pmbusIface 0 (leNats v n))
    exec .clearFaults s =
      s.ends ((s.setPower fun p => { p with word := 0, input := 0, temp := 0 }).answers pmbusIface 0 []) ∧
    exec .vinUvWarnLimit s = reply 2 (linear11 58) ∧
    exec .pinOpWarnLimit s = reply 2 (linear11 (s.fld .pwrCtrl 0 11)) ∧
    exec .statusWord s = reply 2 s.statusWord ∧
    exec .statusInput s = reply 1 s.power.input ∧
    exec .statusTemperature s = reply 1 s.power.temp ∧
    exec .readVin s = reply 2 (linear11 s.power.vin) ∧
    (∀ v, s.mgmt.sensors[1]? = some v → exec .readIin s = reply 2 (linear11 v)) ∧
    exec .readTemperature1 s = reply 2 (linear11 ((s.power.temps.take 6).foldl max 0)) ∧
    exec .readPin s = reply 2 (linear11 s.power.average) ∧
    exec .pmbusRevision s = reply 1 0x33 ∧
    (∀ code : BitVec 8, code.toNat ∉ pmbusCodes → exec (.pmbusOtherCommand code) s =
      s.ends ((s.setPower fun p => { p with word := 2 }).sent (.answer pmbusIface 1 [])))

/-- The power brake, the measurement of input power, the undervoltage warning and the leak sensor: the requests for throttling
and what PWR_STATUS shows follow them, and each reports itself (R463, R465, R466, R469, R477). -/
def powerEventsComplete : Prop :=
  ∀ s : State, s.live →
    (s.flag .pwrStatus 8 = false →
      let u := after setDuty ((s.setPower fun p => { p with brake := brakeDuty p.watts (s.fld .pwrCtrl 16 11) }).setFld .pwrStatus 8 1 1)
      let v := u.satFld .pwrStat 0 16
      exec .powerBrakeAssert s = s.ends (after (incident 0x13 0 1 0 0 (v.reg .pwrStatus)) v)) ∧
    exec .powerBrakeRelease s =
      s.ends (after setDuty ((s.setPower fun p => { p with brake := 0 }).setFld .pwrStatus 8 1 0)) ∧
    (∀ watts bound,
      let u := after setDuty ((s.setPower fun p => { p with
        watts := watts
        recent := (watts :: p.recent).take 1000
        bound := min bound 255
        input := if s.fld .pwrCtrl 0 11 < watts then p.input ||| 1 else p.input }).setFld .pwrStatus 32 12
          ({ s.power with recent := (watts :: s.power.recent).take 1000 } : PowerSt).average)
      exec (.pwrMeasure watts bound) s =
        s.ends (if u.fld .pwrStatus 0 8 = 0 then u else u.setFld .pwrStat 16 32 (min (u.fld .pwrStat 16 32 + 10) (2 ^ 32 - 1)))) ∧
    (let u := s.setPower fun p => { p with input := p.input ||| 0x20 }
     exec .uvWarning s = s.ends (after (withdraw none 0x13 4 (unitWord 0 0) 0 .pwrStatus) u)) ∧
    (let u := (s.setPower fun p => { p with leak := true }).setFld .pwrStatus 13 1 1
     exec .leak s = s.ends (after (incident 0x13 3 5 0 0 (u.reg .pwrStatus)) u))

/-- Temperature readings below the trip points: THERM_STATUS shows them; one at its throttle point that does not fall raises the
thermal request by 16 steps, and ten readings with all 3 degrees below lower it by 16; in module reset only the monitor sees them,
which turns the rails off when a die reads 125 degrees (R467, R468, R472). -/
def temperatureReadingsComplete : Prop :=
  ∀ (t : List Nat) (s : State), s.power.on = true →
    let u := s.setPower fun p => { p with temps := t }
    (s.power.held = true → (∀ k < 6, t.getD k 0 < 125) → exec (.thermSample t) s = s.ends u) ∧
    (s.power.held = true → (∃ k < 6, 125 ≤ t.getD k 0) →
      exec (.thermSample t) s = s.ends (u.moduleReset.setPower fun p => { p with on := false, latched := false, trip := false })) ∧
    (s.power.held = false → (∀ k < 7, t.getD k 0 < if k < 6 then 115 else 105) →
      let hot := (List.range 7).filter fun k => s.throttleAt k ≤ t.getD k 0
      let rising := hot.any fun k => s.power.temps.getD k 0 ≤ t.getD k 0
      let n := if (List.range 7).all fun k => t.getD k 0 + 3 ≤ s.throttleAt k then s.power.cool + 1 else 0
      let v := ((List.range 7).foldl (fun x k => x.setFld .thermStatus (8 * k) 8 (min (t.getD k 0) 255)) u).setPower fun p => { p with
        therm := if rising then min (p.therm + 16) 255 else if n = 10 then p.therm - 16 else p.therm
        cool := if n = 10 then 0 else n
        temp := if hot.isEmpty then p.temp else p.temp ||| 0x40 }
      let w := after setDuty v
      exec (.thermSample t) s =
        s.ends (if rising && s.power.therm == 0 then after (incident 0x13 0 2 0 0 (w.reg .pwrStatus)) w else w))

/-- The rails and module reset: a lockout turns every rail off, and an undervoltage one releases a latched rail fault where they are
off; a rail fault latches them off after its record; the input's rise brings them up again unless latched; module reset keeps what the spec names; released, the part cold starts (R446, R462,
R469-R472). -/
def railsAndResetsComplete : Prop :=
  ∀ s : State,
    (s.power.on = true →
      let off (u : State) (latch : Bool) := u.moduleReset.setPower fun p => { p with on := false, latched := latch, trip := false }
      exec .uvLockout s = s.ends ((off s false).setPower fun p => { p with input := p.input ||| 0x10 }) ∧
      exec .ovLockout s = s.ends ((off s s.power.latched).setPower fun p => { p with input := p.input ||| 0x80 }) ∧
      (∀ rail : Fin 8, exec (.railFault rail) s =
        s.ends (off (after (incident 0x13 4 6 0 (BitVec.ofNat 64 rail) (s.reg .pwrStatus)) s) true)) ∧
      exec .moduleReset s = s.ends s.moduleReset) ∧
    (s.power.on = false → exec .uvLockout s = s.ends (s.setPower fun p => { p with latched := false })) ∧
    (∀ vin, 59 ≤ vin → s.power.on = false → s.power.latched = false →
      exec (.powerUp vin) s = s.ends (s.setPower fun p => { p with on := true, held := true, vin := vin })) ∧
    exec .railFaultRelease s = s.ends (s.setPower fun p => { p with latched := false }) ∧
    (∀ (env : ColdEnv) (u v : State) (k : Nat), s.power.on = true → (∀ t ∈ s.power.temps.take 6, t ≤ 95) →
      s.fld .bootStatus 0 4 = 1 → s.flag .bootStatus 4 = false → s.sec.halted = false → env.pufOk = true → env.octalOk = true →
      drawNonce ((s.setPower fun p => { p with held := false }).setFld .mgmtstat 16 3 env.maddr.toNat) = .ok () u →
      let x := (u.setFld .flashstat 0 2 1).setFld .flashstat 2 1 (b2n env.wpLock)
      pickSlots 0 (x.setFld .bootStatus 11 1 (b2n x.selected.isSome)) = .ok (some k) v →
      let b := v.compBytes 0 k
      exec (.coldStart env) s = s.ends (after (bootMemory env) (({ v with sec := { v.sec with
        bootDigest := signedDigest b
        secvers := leAt b 0xC 4 :: v.sec.secvers.drop 1
        fallback := if k = 2 then 1 else 0 } } : State).setFld .bootStatus 5 2 k)))

/-- The clearing of secrets ends in the debug level of its token, or refuses it; ROLL_CMD.COMMIT from the Service world outside a
job raises the rollback counters to the versions in use, and tells why where it does not (R444, R453). -/
def secretsAndRollbackComplete : Prop :=
  (∀ (level : Nat) (s : State), s.live → s.sec.clearing = some level →
    let u : State := { s with sec := { s.sec with clearing := none } }
    (∀ v, clearSecrets level u = .ok () v →
      let w := v.setFld .dbgstat 2 1 1
      exec (.secretsCleared true) s = s.ends ((after (incident 0x12 0 1 0 0 (w.reg .dbgstat)) w).setFld .dbgstat 0 2 level)) ∧
    (let w := u.satFld .dbgstat 16 16
     exec (.secretsCleared false) s = s.ends (after (incident 0x12 0 3 0 0 (w.reg .dbgstat)) w))) ∧
  (∀ (r : Req) (s : State), s.takes r .rollCmd 1 →
    let u := s.wrote r .rollCmd 1
    (r.world = false → exec (.rollCommit r) s = s.endsBus (u.setFld .rollStatus 0 8 1)) ∧
    (r.world = true → u.jobRuns = true → exec (.rollCommit r) s = s.endsBus (u.setFld .rollStatus 0 8 2)) ∧
    (r.world = true → u.jobRuns = false →
      exec (.rollCommit r) s = s.endsBus ((after showCounters { u with sec := { u.sec with
        rpmc := ((List.range 3).map fun k => max (u.sec.rpmc.getD k 0) (u.sec.secvers.getD k 0)) ++ [u.sec.rpmc.getD 3 0] } }).setFld
          .rollStatus 0 8 0)))

/-- ENROL, ADD_KEY, REVOKE_KEY, RELEASE and RECOVER: the request that SEC_MBOX_ADDR names is read, and with the key it carries is
judged; an accepted one, with no other running and flash that can be written, shows BUSY and writes the owner record that its operation
asks for, and SEC_MBOX_STATUS tells the code (R455, R456). -/
def enrolmentsComplete : Prop :=
  ∀ (q : MboxReq) (s v w : State) (b key : List Byte) (p kp : Bool),
    ∀ e ∈ [(1, Instr.enrol q), (2, .addKey q), (3, .revokeKey q), (4, .release q), (5, .recover q)],
    s.takes q.by_ .secMboxCmd 1 →
    let a := (s.wrote q.by_ .secMboxCmd 1).fld .secMboxAddr 3 49 * 8
    bootFetch true a 3384 (s.wrote q.by_ .secMboxCmd 1) = .ok (b, p) v →
    let body := b.take 64
    leAt body 0 4 = e.1 →
    (if e.1 ≤ 2 then bootFetch true (a + leAt body 20 4) 1952 v = .ok (key, kp) w else w = v ∧ key = [] ∧ kp = false) →
    let judged := w.enrolCode body (b.drop 64) (p || kp)
    let code := if w.flag .secMboxStatus 8 then 1 else if judged = 0 ∧ q.flashOk = false then 8 else judged
    let keys := match w.ownerRecord with | some (_, x) => ownerKeys x | none => []
    (code ≠ 0 → exec e.2 s = s.ends (w.setFld .secMboxStatus 0 8 code)) ∧
    (code = 0 → exec e.2 s = s.ends (after (do
      mboxBusy
      writeOwner (if e.1 = 1 then [key] else if e.1 = 2 then keys ++ [key]
        else if e.1 = 3 then keys.eraseIdx (leAt body 4 4 - 1) else [])
      whenM (3 < e.1) eraseCert
      wrf .secMboxStatus 0 8 0) w))

/-- SOFT_J and SOFT_S, writes of INT_SET, make the software interrupt of their world pending; a Job-world write leaves the Service
world's alone (R405, R417). -/
def softInterruptsComplete : Prop :=
  ∀ (r : Req) (t : Tid) (s : State),
    (s.takes r (.intSet t.tree t.th) 1 →
      exec (.softJ r t) s = s.endsBus ((s.wrote r (.intSet t.tree t.th) 1).setFld (.intPend t.tree t.th) 0 1 1)) ∧
    (s.takes r (.intSet t.tree t.th) 0x100 → r.world = true →
      exec (.softS r t) s = s.endsBus ((s.wrote r (.intSet t.tree t.th) 0x100).setFld (.intPend t.tree t.th) 8 1 1)) ∧
    (s.takes r (.intSet t.tree t.th) 0x100 → r.world = false →
      exec (.softS r t) s = s.endsBus (s.wrote r (.intSet t.tree t.th) 0x100))

/-- The incident ring: INC_RING with EN has the records that are held written in order; a move of HEAD makes the records that it
passes final; the end of a record's window rewrites it for the last time, or keeps one that is held, as final (R436, R437). -/
def incidentRingComplete : Prop :=
  (∀ (r : Req) (v : W64) (s : State), s.takes r .incRing v.toNat →
    let u := s.wrote r .incRing v.toNat
    (u.flag .incRing 0 = false → exec (.incRingEn r v) s = s.endsBus u) ∧
    (u.flag .incRing 0 = true →
      let p := placeHeld u u.collector.opened
      exec (.incRingEn r v) s = s.ends (after (withRegs (raise p.2.2)) (p.1.setOpened p.2.1)))) ∧
  (∀ (r : Req) (head : BitVec 32) (s : State), s.takes r .incPtr head.toNat →
    let u := s.wrote r .incPtr head.toNat
    exec (.incHead r head) s = s.endsBus (u.setOpened (u.collector.opened.filter fun o => match o.idx with
      | some i => !headPassed u i
      | none => true))) ∧
  (∀ (k : Nat) (o : OpenRec) (s : State), s.live → s.collector.opened[k]? = some o → o.final = false →
    o.rc.first.toNat + 2 ^ 20 ≤ s.tideNow →
    let p := finalise s o
    exec (.incidentWindowEnd k) s = s.ends (after (raise p.2.2)
      (p.1.setOpened (s.collector.opened.take k ++ p.2.1.toList ++ s.collector.opened.drop (k + 1)))))

/-- A recovery that has not ended in its millisecond takes its domain out: a block of the array, the tree of a bank, a thread or a
tree, the landing, the channel (R440). The watchdog of a thread that makes no progress resets it, reports and counts it, and in the
course of a reset contains its tree (R429, R440). -/
def lateRecoveriesComplete : Prop :=
  ∀ s : State, s.live →
    (∀ (t : Fin 64) (n : Fin 16) kind bl, (s.treeArrays t)[n.val]? = some (kind, bl) → s.flag (.mxArray t n) 22 = true →
      let last := s.fld (.mxTallyLast t) 39 4
      exec (.recoveryTimeout (.array t n)) s = s.ends
        (after (blockOut t n (if s.fld (.mxTallyLast t) 0 4 = n ∧ bl.contains last then last else bl.headD 0)) s)) ∧
    (∀ (t : Fin 64) (b : Fin 32), s.flag (.treeHealth t) 0 = false →
      exec (.recoveryTimeout (.bank t b)) s = s.ends (after (fenceTree (some (.bank t b)) t) s)) ∧
    (∀ k : Tid, s.flag (.treeHealth (k.k / 4)) 0 = false →
      exec (.recoveryTimeout (.thread k)) s = s.ends (after (fenceTree (some (.thread k.k)) (k.k / 4)) s)) ∧
    (∀ t : Fin 64, s.flag (.treeHealth t) 0 = false →
      exec (.recoveryTimeout (.tree t)) s = s.ends (after (fenceTree (some (.tree t)) t) s)) ∧
    (∀ l : Fin 16, (s.link l).retrain = true → exec (.recoveryTimeout (.landing l)) s = s.ends (after (downLanding l) s)) ∧
    (∀ c : Fin 48, s.flag (.nbHealth (c / 6) (c % 6)) 7 = false →
      exec (.recoveryTimeout (.channel c)) s = s.ends (after (failChannel c) s)) ∧
    (∀ t : Tid, s.flag .wdCtrl 16 = true → s.inReset t.k = true →
      exec (.watchdog t) s = s.ends (after (contain (t.k / 4) 0) s)) ∧
    (∀ (t : Tid) (u : State), s.flag .wdCtrl 16 = true → s.inReset t.k = false →
      s.flag (.excStatus (t.k / 4) (t.k % 4)) 1 = false →
      (∀ p, (s.thread t.k).hold ≠ .page p) → (∀ p q r, (s.thread t.k).hold ≠ .epoch p q r) → resetThread t.k s = .ok () u →
      exec (.watchdog t) s = s.ends (after (survive (.thread t.k) 50 0x10 2 1 (unitWord 3 t.k) 0 (.treeHealth (t.k / 4))) u))

/-- Register writes, and the reset commands among them, complete. -/
def Obligations.RegisterWritesAndClearsComplete : Prop :=
  registerWritesComplete ∧ deviceClearsComplete ∧ unitClearsComplete

/-- Configuration control completes. -/
def Obligations.ConfigurationControlCompletes : Prop := configurationCommandsComplete

/-- Jobs start and end, and a re-rig runs. -/
def Obligations.JobsAndRerigsComplete : Prop := jobsStart ∧ jobsEnd ∧ jobEndComplete ∧ rerigsComplete

/-- The dispatchers take their records. -/
def Obligations.DispatchersComplete : Prop := dispatchersComplete

/-- Doorbells and the reports of queues complete. -/
def Obligations.DoorbellsAndQueueReportsComplete : Prop := doorbellsComplete ∧ queueReportsComplete

/-- Ferries run their manifests. -/
def Obligations.FerryCommandsComplete : Prop := descriptorsComplete ∧ manifestsComplete

/-- The memory tiers: the events of the near bank, the heartwoods and the far-bank ports, and cache maintenance. -/
def Obligations.MemoryTierCommandsComplete : Prop := memoryEventsComplete ∧ portEventsComplete ∧ cacheCommandsComplete

/-- Invalidations of translations and the host's side of ATS and PRI complete. -/
def Obligations.TranslationCommandsComplete : Prop := translationInvalidationsComplete ∧ hostTranslationsComplete

/-- The commands and events of the directory complete. -/
def Obligations.DirectoryCommandsComplete : Prop := directoryCommandsComplete ∧ commitsComplete

/-- The commands and events of the tide unit complete. -/
def Obligations.TideUnitCommandsComplete : Prop := tideEventsComplete ∧ tideCommandsComplete

/-- The tide table acts, and its deadlines fall due. -/
def Obligations.TideTableActs : Prop := tideActionsComplete ∧ tideDeadlinesComplete

/-- Self-tests complete. -/
def Obligations.SelfTestsComplete : Prop := selfTestsComplete

/-- Landings train, replay and receive. -/
def Obligations.LandingLinksComplete : Prop := landingsTrain ∧ linkRecoveriesComplete ∧ flitsComplete

/-- Packets are served and answered. -/
def Obligations.PacketsComplete : Prop := packetRequestsComplete ∧ packetRepliesComplete ∧ journalPacketsComplete

/-- Landing descriptors start and end. -/
def Obligations.LandingDescriptorsComplete : Prop := landingDescriptorsStart ∧ landingDescriptorsEnd

/-- Host resets complete. -/
def Obligations.HostResetsComplete : Prop := hostResetsComplete

/-- The commands of the PCIe port complete. -/
def Obligations.PciePortCommandsComplete : Prop := portCommandsComplete ∧ aperturesComplete

/-- Management messages and firmware updates complete. -/
def Obligations.ManagementCommandsComplete : Prop := managementMessagesComplete ∧ firmwareUpdatesComplete

/-- Attestation requests are answered. -/
def Obligations.AttestationRequestsComplete : Prop := attestationsComplete

/-- I3C common command codes and TAP instructions complete. -/
def Obligations.I3cAndTapCommandsComplete : Prop := i3cCommandsComplete ∧ tapInstructionsComplete

/-- PMBus commands are answered. -/
def Obligations.PmbusCommandsComplete : Prop := pmbusCommandsComplete

/-- Power and temperature events take effect. -/
def Obligations.PowerAndTemperatureEventsComplete : Prop := powerEventsComplete ∧ temperatureReadingsComplete

/-- Rails and module reset. -/
def Obligations.RailsAndResetsComplete : Prop := railsAndResetsComplete

/-- Secrets, rollback counters and owner enrolment. -/
def Obligations.SecurityCommandsComplete : Prop := secretsAndRollbackComplete ∧ enrolmentsComplete

/-- Software interrupts, the incident ring, and recoveries that come too late. -/
def Obligations.InterruptAndIncidentCommandsComplete : Prop :=
  softInterruptsComplete ∧ incidentRingComplete ∧ lateRecoveriesComplete
end

