-- ==== Sys2Proof/Laws/Crew.lean ====
section
/-! SUPPORT. What the shared path of every instruction does: how the monad steps, how an instruction that starts ends, and what the
checks before its body answer. -/

namespace Sys2Proof.Machine

theorem catch_ok {α : Type} {m : M α} {f : Stop → M α} {s u : State} {a : α} (h : m s = .ok a u) :
    tryCatch m f s = .ok a u := by
  show EStateM.tryCatch m f s = _
  simp only [EStateM.tryCatch, h]

theorem forAll_wr (k : Nat) (l : List (Nat × W64)) (s : State) :
    forAll l (fun e => wr (thr k e.1) e.2) s = .ok () (s.putRegs k l) := by
  induction l generalizing s with
  | nil => rfl
  | cons e r ih => exact ih (s.setReg (thr k e.1) e.2)

theorem commitPtrs_eq (k : Nat) (p : Ptrs) (s : State) : commitPtrs k p s = .ok () (s.putPtrs k p) := by
  have h : ∀ (l : List Nat) (s : State),
      forAll l (fun n => wr (thr k n) (BitVec.ofNat 64 (p.get n))) s =
        .ok () (s.putRegs k (l.map fun n => (n, BitVec.ofNat 64 (p.get n)))) := by
    intro l
    induction l with
    | nil => intro s; rfl
    | cons e r ih => intro s; exact ih (s.setReg (thr k e) _)
  exact h p.upd s

theorem run_live {m : M Unit} {s u : State} (h : s.live) (hm : m s = .ok () u) : run m s = .next (u.queueOf s) := by
  obtain ⟨h1, h2⟩ := h
  simp [run, runAny, h1, h2, hm, State.queueOf]

theorem bind_ok {α β : Type} {m : M α} {f : α → M β} {s u : State} {a : α} (h : m s = .ok a u) :
    (m >>= f) s = f a u := by
  show EStateM.bind m f s = _
  simp [EStateM.bind, h]

theorem get_ok (s : State) : (get : M State) s = .ok s s := rfl
theorem modify_ok (f : State → State) (s : State) : (modify f : M Unit) s = .ok () (f s) := rfl
theorem wr_ok (r : Reg) (v : W64) (s : State) : wr r v s = .ok () (s.setReg r v) := rfl
theorem pure_ok {α : Type} (a : α) (s : State) : (pure a : M α) s = .ok a s := rfl
theorem bind_eq {α β : Type} (m : M α) (f : α → M β) (s : State) :
    (m >>= f) s = match m s with | .ok a t => f a t | .error e t => .error e t := by
  show EStateM.bind m f s = _
  unfold EStateM.bind
  cases m s <;> rfl

theorem finish_next (k len : Nat) (rep : Bool) (sets : List (Nat × W64)) (s : State) :
    finish k len rep (.next sets) s = .ok () (s.retired k len rep sets) := by
  simp only [finish, bind_eq, get_ok, forAll_wr, State.retired]
  cases rep with
  | true =>
    by_cases hn : s.fld (thr k 0x19) 0 32 ≤ 1 <;> simp only [hn, if_true, if_false, not_true, bind_eq, wr_ok, modify_ok, State.unheld]
  | false => simp only [if_true, if_false, Bool.false_eq_true, not_false_eq_true, bind_eq, wr_ok, modify_ok, State.unheld]

theorem finish_jump (k len pc : Nat) (rep : Bool) (sets : List (Nat × W64)) (s : State) :
    finish k len rep (.jump pc sets) s = .ok () (s.jumped k pc sets) := by
  simp only [finish, bind_eq, forAll_wr, wr_ok, modify_ok, State.jumped, State.unheld]

theorem landMul_ok (k : Nat) (s : State) : ∃ u, landMul k s = .ok () u := by
  simp only [landMul, bind_eq, get_ok]
  cases (s.thread k).muls <;> exact ⟨_, rfl⟩

theorem landDiv_ok (k : Nat) (s : State) : ∃ u, landDiv k s = .ok () u := by
  simp only [landDiv, bind_eq, get_ok]
  cases (s.thread k).div <;> exact ⟨_, rfl⟩

theorem ageDeliveries_ok (k : Nat) (s : State) : ∃ u, ageDeliveries k s = .ok () u := by
  have hf : ∀ (l : List (Nat × BitVec 128)) s, ∃ u, forAll l (fun _ => landMul k) s = .ok () u := by
    intro l
    induction l with
    | nil => intro s; exact ⟨_, rfl⟩
    | cons e r ih =>
      intro s
      obtain ⟨u, hu⟩ := landMul_ok k s
      obtain ⟨v, hv⟩ := ih u
      exact ⟨v, by simp only [forAll, bind_eq, hu, hv]⟩
  simp only [ageDeliveries, bind_eq, modify_ok, get_ok]
  generalize s.setThread k _ = a
  obtain ⟨u, hu⟩ := hf ((a.thread k).muls.filter fun m => decide (4 ≤ m.1)) a
  rw [hu]
  rcases (a.thread k).div with - | ⟨n, q, r⟩
  · exact ⟨_, rfl⟩
  · by_cases h : 26 ≤ n
    · simp only [whenM, h, decide_true, if_true]; exact landDiv_ok k u
    · simp only [whenM, h, decide_false]; exact ⟨_, rfl⟩

theorem forAll_ok {α : Type} {f : α → M Unit} (hf : ∀ a s, ∃ u, f a s = .ok () u) (l : List α) (s : State) :
    ∃ u, forAll l f s = .ok () u := by
  induction l generalizing s with
  | nil => exact ⟨_, rfl⟩
  | cons e r ih =>
    obtain ⟨u, hu⟩ := hf e s
    obtain ⟨v, hv⟩ := ih u
    exact ⟨v, by simp only [forAll, bind_eq, hu, hv]⟩

theorem endQuiesce_ok (b : Blk) (s : State) : ∃ u, endQuiesce b s = .ok () u := by
  unfold endQuiesce
  rw [bind_eq, get_ok]
  dsimp only
  split <;> exact ⟨_, rfl⟩

theorem quiesce_ok (t : Fin 64) (n : Nat) (s : State) : ∃ u, quiesce (.tree t) n s = .ok () u := by
  unfold quiesce
  rw [bind_eq, get_ok]
  dsimp only
  split
  · obtain ⟨u, hu⟩ := forAll_ok (f := applyPending) (fun _ s => ⟨_, rfl⟩) (subRegs (.tree t) n) s
    simp only [bind_eq, hu]
    obtain ⟨v, hv⟩ := endQuiesce_ok (.tree t) (after (wrf (.cfgPending (.tree t)) n 1 0) u)
    refine ⟨v, ?_⟩
    have hw : wrf (.cfgPending (.tree t)) n 1 0 u = .ok () (after (wrf (.cfgPending (.tree t)) n 1 0) u) := rfl
    simp only [hw, hv]
    rfl
  · exact ⟨_, rfl⟩

theorem crewQuiet_ok (k : Nat) (s : State) : ∃ u, crewQuiet k s = .ok () u :=
  quiesce_ok ⟨k / 4 % 64, Nat.mod_lt _ (by decide)⟩ (k % 4) s

theorem beginInstr_ok (k : Nat) (s : State) : ∃ u, beginInstr k s = .ok () u := by
  unfold beginInstr
  obtain ⟨u, hu⟩ := crewQuiet_ok k s
  simp only [bind_eq, hu, modify_ok]
  exact ageDeliveries_ok k _

/-- No exception is taken at the boundary before an instruction that is ready to start. -/
theorem ready_boundary {t : Tid} {s : State} (h : s.Ready t) : s.boundary t.k = none := by
  obtain ⟨-, h1, -, -, h4⟩ := h
  unfold State.boundary
  split
  · rfl
  · rename_i hb
    rcases h4 with h | ⟨h, h'⟩ | ⟨h, h'⟩
    · exact absurd (by simp [State.atBoundary, h]) hb
    · exact absurd (by simp [State.atBoundary, h, h']) hb
    · simp [h, h']

/-- What an instruction that starts does, when its body completes. -/
theorem starts_ok {t : Tid} {s : State} (h : s.Ready t) (len : Nat) (body : Nat → M Ending) {r : Ending} {u : State}
    (hb : body t.k (s.begun t.k) = .ok r u) :
    starts t len body s = finish t.k len (bit (s.flags t.k) 29) r u := by
  have hn := ready_boundary h
  obtain ⟨-, h1, h2, h3, -⟩ := h
  have hw : whenM (decide ((s.thread t.k).hold = .none) || decide ((s.thread t.k).hold = .issue)) (beginInstr t.k) s
      = .ok () (s.begun t.k) := by
    obtain ⟨v, hv⟩ := beginInstr_ok t.k s
    by_cases hc : (s.thread t.k).hold = .none ∨ (s.thread t.k).hold = .issue
    · have : (decide ((s.thread t.k).hold = .none) || decide ((s.thread t.k).hold = .issue)) = true := by simpa using hc
      simp only [whenM, this, if_true, State.begun, hc, after, hv]
    · have : (decide ((s.thread t.k).hold = .none) || decide ((s.thread t.k).hold = .issue)) = false := by simpa using hc
      simp only [whenM, this, State.begun, hc, if_false]
      rfl
  obtain ⟨f, hf⟩ : ∃ f, finish t.k len (bit (s.flags t.k) 29) r u = .ok () f := by
    cases r with
    | next sets => exact ⟨_, finish_next ..⟩
    | jump pc sets => exact ⟨_, finish_jump ..⟩
    | raw => exact ⟨_, rfl⟩
  rw [hf]
  simp only [starts, bind_eq, get_ok, h1, h2, h3, hn]
  simp only [settleStop, Option.isSome_none, if_false, Bool.false_eq_true]
  refine catch_ok ?_
  rw [bind_eq, hw]
  refine catch_ok ?_
  rw [bind_eq, hb]
  exact hf

theorem encoded_ok {k : Nat} {w : IWord} {sl : Slots} {legal rep : Bool} {s : State} (h : s.encodes k w sl legal rep) :
    encoded k w sl legal rep s = .ok () s := by
  obtain ⟨h1, h2, h3⟩ := h
  simp only [encoded, bind_eq, get_ok, h1, h2]
  have h4 : ¬ (¬ True ∨ SlotRes.fine = SlotRes.illegal ∨ (bit (s.flags k) 29 = true ∧ ¬ rep = true)) := by
    rintro (h | h | ⟨h, h'⟩)
    · exact h trivial
    · cases h
    · exact h' (h3 h)
  rw [if_neg h4, if_neg (by decide)]
  rfl

theorem compute_ok {k : Nat} {w : IWord} {zd za zb i2d i2a : Nat} {o : Opnds} {s : State}
    (h : operands w (s.ptrs k) zd za zb i2d i2a 0 = .ok o) : compute k w zd za zb i2d i2a s = .ok o s := by
  simp only [compute, bind_eq, get_ok, h, pure_ok]

/-- An instruction that starts and whose body ends at the next instruction. -/
theorem starts_next {t : Tid} {s v : State} {len : Nat} {sets : List (Nat × W64)} {body : Nat → M Ending}
    (h : s.Ready t) (hb : body t.k (s.begun t.k) = .ok (.next sets) v) :
    run (starts t len body) s = .next ((v.retired t.k len (bit (s.flags t.k) 29) sets).queueOf s) :=
  run_live h.1 ((starts_ok h len body hb).trans (finish_next ..))

/-- An instruction that starts and whose body ends at another address. -/
theorem starts_jump {t : Tid} {s v : State} {len pc : Nat} {sets : List (Nat × W64)} {body : Nat → M Ending}
    (h : s.Ready t) (hb : body t.k (s.begun t.k) = .ok (.jump pc sets) v) :
    run (starts t len body) s = .next ((v.jumped t.k pc sets).queueOf s) :=
  run_live h.1 ((starts_ok h len body hb).trans (finish_jump ..))

/-- An instruction that starts and whose body does all itself. -/
theorem starts_raw {t : Tid} {s v : State} {len : Nat} {body : Nat → M Ending}
    (h : s.Ready t) (hb : body t.k (s.begun t.k) = .ok .raw v) :
    run (starts t len body) s = .next (v.queueOf s) :=
  run_live h.1 (starts_ok h len body hb)

theorem scalar_next {t : Tid} {w : IWord} {s v : State} {sl : Slots} {legal : Bool} {zd za zb : Nat} {o : Opnds}
    {sets : List (Nat × W64)} {body : Nat → Opnds → M Ending} (h : s.issues t w sl legal true zd za zb 0 o)
    (hb : body t.k o (s.begun t.k) = .ok (.next sets) v) :
    run (scalar t w sl legal zd za zb body) s = .next ((v.retired t.k sl.len (bit (s.flags t.k) 29) sets).queueOf s) := by
  refine starts_next h.1 ?_
  simp only [bind_eq, encoded_ok h.2.1, compute_ok h.2.2, hb]

theorem setsFlags_ok (k : Nat) (p : Ptrs) (f : W64) (s : State) :
    setsFlags k p f s = .ok (.next [(0x10, f)]) (s.putPtrs k p) := by
  simp only [setsFlags, bind_eq, commitPtrs_eq, pure_ok]

/-- Two actions done one after the other, where the first does not stop. -/
theorem bind_split {α β : Type} {m : M α} {f : α → M β} {s u : State} {b : β} (h : (m >>= f) s = .ok b u) :
    ∃ a v, m s = .ok a v ∧ f a v = .ok b u := by
  rw [bind_eq] at h
  cases hm : m s with
  | ok a v => rw [hm] at h; exact ⟨a, v, rfl, h⟩
  | error e v => rw [hm] at h; cases h

end Sys2Proof.Machine
end

