-- ==== Sys2Proof/Laws/Memory.lean ====
section
/-! SUPPORT. Sparse maps and memory: what a read gives after a write, and that every operation over memory keeps its
canonical form. -/

namespace Sys2Proof.Machine

theorem rising_cons {α : Type} (a : Nat × α) (l : AList α) :
    rising (a :: l) = true ↔ (∀ e ∈ l, a.1 < e.1) ∧ rising l = true := by
  induction l generalizing a with
  | nil => simp [rising]
  | cons b r ih =>
    simp only [rising, Bool.and_eq_true, decide_eq_true_eq, List.mem_cons, forall_eq_or_imp]
    constructor
    · rintro ⟨h, hr⟩
      exact ⟨⟨h, fun e he => lt_trans h (((ih b).1 hr).1 e he)⟩, hr⟩
    · rintro ⟨⟨h, -⟩, hr⟩
      exact ⟨h, hr⟩

theorem rising_append {α : Type} (l m : AList α) :
    rising (l ++ m) = true ↔ rising l = true ∧ rising m = true ∧ ∀ e ∈ l, ∀ f ∈ m, e.1 < f.1 := by
  induction l with
  | nil => simp [rising]
  | cons a r ih =>
    rw [List.cons_append, rising_cons, rising_cons, ih]
    constructor
    · rintro ⟨h, hr, hm, hrm⟩
      refine ⟨⟨fun e he => h e (by simp [he]), hr⟩, hm, ?_⟩
      intro e he f hf
      rcases List.mem_cons.1 he with rfl | he
      · exact h f (by simp [hf])
      · exact hrm e he f hf
    · rintro ⟨⟨h, hr⟩, hm, hx⟩
      refine ⟨?_, hr, hm, fun e he f hf => hx e (by simp [he]) f hf⟩
      intro e he
      rcases List.mem_append.1 he with he | he
      · exact h e he
      · exact hx a (by simp) e he

theorem rising_filter {α : Type} (p : Nat × α → Bool) (l : AList α) (h : rising l = true) : rising (l.filter p) = true := by
  induction l with
  | nil => simp [rising]
  | cons a r ih =>
    rw [rising_cons] at h
    by_cases hp : p a = true
    · rw [List.filter_cons_of_pos hp, rising_cons]
      exact ⟨fun e he => h.1 e (List.mem_filter.1 he).1, ih h.2⟩
    · rw [List.filter_cons_of_neg hp]
      exact ih h.2

theorem mem_aput {α : Type} (l : AList α) (k : Nat) (v : α) (e : Nat × α) (h : e ∈ aput l k v) : e = (k, v) ∨ e ∈ l := by
  induction l with
  | nil => simpa [aput] using h
  | cons a r ih =>
    obtain ⟨j, w⟩ := a
    simp only [aput] at h
    split at h
    · simpa using h
    · split at h
      · rcases List.mem_cons.1 h with h | h
        · exact .inl h
        · exact .inr (List.mem_cons_of_mem _ h)
      · rcases List.mem_cons.1 h with h | h
        · exact .inr (by simp [h])
        · rcases ih h with h | h
          · exact .inl h
          · exact .inr (List.mem_cons_of_mem _ h)

theorem rising_aput {α : Type} (l : AList α) (k : Nat) (v : α) (h : rising l = true) : rising (aput l k v) = true := by
  induction l with
  | nil => simp [aput, rising]
  | cons a r ih =>
    obtain ⟨j, w⟩ := a
    rw [rising_cons] at h
    simp only [aput]
    split
    · next hk =>
      rw [rising_cons, rising_cons]
      refine ⟨fun e he => ?_, h⟩
      rcases List.mem_cons.1 he with rfl | he
      · exact hk
      · exact lt_trans hk (h.1 e he)
    · split
      · next hk =>
        subst hk
        rw [rising_cons]
        exact h
      · rw [rising_cons]
        refine ⟨fun e he => ?_, ih h.2⟩
        rcases mem_aput r k v e he with rfl | he
        · simp only
          omega
        · exact h.1 e he

theorem aget_aput {α : Type} (l : AList α) (k j : Nat) (v : α) :
    aget (aput l k v) j = if j = k then some v else aget l j := by
  induction l with
  | nil =>
    by_cases hj : k = j
    · simp [aput, aget, hj]
    · simp [aput, aget, hj, Ne.symm hj]
  | cons a r ih =>
    obtain ⟨n, w⟩ := a
    simp only [aput]
    split
    · by_cases hj : k = j
      · simp [aget, hj]
      · simp [aget, hj, Ne.symm hj]
    · split
      · next hk =>
        subst hk
        by_cases hj : k = j
        · simp [aget, hj]
        · simp [aget, hj, Ne.symm hj]
      · simp only [aget]
        rw [ih]
        by_cases hn : n = j
        · rw [if_pos hn, if_pos hn, if_neg (by omega)]
        · rw [if_neg hn, if_neg hn]

theorem aget_adel {α : Type} (l : AList α) (k j : Nat) : aget (adel l k) j = if j = k then none else aget l j := by
  induction l with
  | nil => simp [adel, aget]
  | cons a r ih =>
    obtain ⟨n, w⟩ := a
    rw [adel, List.filter_cons]
    rw [adel] at ih
    by_cases hn : n = k
    · simp only [hn, bne_self_eq_false, Bool.false_eq_true, if_false, aget]
      rw [ih]
      by_cases hj : j = k
      · simp [hj]
      · rw [if_neg hj, if_neg hj, if_neg fun h => hj h.symm]
    · simp only [bne_iff_ne.2 hn, if_true, aget]
      rw [ih]
      by_cases hnj : n = j
      · subst hnj
        simp [hn]
      · simp [hnj]

/-- A read of a sparse map after a write of it. -/
theorem aread_awrite {α : Type} [DecidableEq α] (d : α) (l : AList α) (k j : Nat) (v : α) :
    aread d (awrite d l k v) j = if j = k then v else aread d l j := by
  unfold awrite aread
  split
  · next hv =>
    rw [aget_adel]
    by_cases hj : j = k <;> simp [hj, hv]
  · rw [aget_aput]
    by_cases hj : j = k <;> simp [hj]

theorem wf_iff (blank : Nat → Byte) (m : List Host.Cell) :
    Memory.wf blank m = true ↔ rising m = true ∧ ∀ e ∈ m, e.2 ≠ blank e.1 := by
  simp [Memory.wf]

theorem wf_awrite (blank : Nat → Byte) (m : List Host.Cell) (a : Nat) (b : Byte) (h : Memory.wf blank m = true) :
    Memory.wf blank (awrite (blank a) m a b) = true := by
  rw [wf_iff] at h ⊢
  unfold awrite
  split
  · exact ⟨rising_filter _ _ h.1, fun e he => h.2 e (List.mem_filter.1 he).1⟩
  · next hb =>
    refine ⟨rising_aput _ _ _ h.1, fun e he => ?_⟩
    rcases mem_aput m a b e he with rfl | he
    · exact hb
    · exact h.2 e he

theorem wf_filter (blank : Nat → Byte) (m : List Host.Cell) (p : Host.Cell → Bool) (h : Memory.wf blank m = true) :
    Memory.wf blank (m.filter p) = true := by
  rw [wf_iff] at h ⊢
  exact ⟨rising_filter _ _ h.1, fun e he => h.2 e (List.mem_filter.1 he).1⟩

theorem rising_of_memWf {s : State} (h : s.memWf = true) : rising s.mem = true := ((wf_iff _ _).1 h).1

/-- A byte written. -/
theorem setByte_memWf {s : State} (a : Nat) (b : Byte) (h : s.memWf = true) : (s.setByte a b).memWf = true :=
  wf_awrite s.blank s.mem a b h

/-- A byte written reads as written, and every other byte reads as before. -/
theorem byte_setByte (s : State) (a c : Nat) (b : Byte) : (s.setByte a b).byte c = if c = a then b else s.byte c := by
  change aread (s.blank c) (awrite (s.blank a) s.mem a b) c = _
  by_cases hc : c = a
  · subst hc
    rw [aread_awrite, if_pos rfl, if_pos rfl]
  · rw [if_neg hc]
    unfold awrite State.byte aread
    split
    · rw [aget_adel, if_neg hc]
    · rw [aget_aput, if_neg hc]

theorem setBytes_memWf {s : State} (bs : List Byte) (a : Nat) (h : s.memWf = true) : (s.setBytes a bs).memWf = true := by
  induction bs generalizing s a with
  | nil => exact h
  | cons b r ih => exact ih (a + 1) (setByte_memWf a b h)

/-- Bytes written read as written, and every other byte reads as before. -/
theorem byte_setBytes (s : State) (bs : List Byte) (a c : Nat) :
    (s.setBytes a bs).byte c = if a ≤ c ∧ c < a + bs.length then bs.getD (c - a) 0 else s.byte c := by
  induction bs generalizing s a with
  | nil =>
    rw [if_neg (by simp only [List.length_nil]; omega)]
    rfl
  | cons b r ih =>
    simp only [State.setBytes, List.length_cons]
    rw [ih, byte_setByte]
    by_cases h1 : c = a
    · subst h1
      rw [if_neg (by omega), if_pos rfl, if_pos (by omega)]
      simp
    · rw [if_neg h1]
      by_cases h2 : a + 1 ≤ c ∧ c < a + 1 + r.length
      · rw [if_pos h2, if_pos (by omega)]
        obtain ⟨n, rfl⟩ : ∃ n, c = a + 1 + n := ⟨c - (a + 1), by omega⟩
        have e : a + 1 + n - a = n + 1 := by omega
        rw [e]
        simp
      · rw [if_neg h2, if_neg (by omega)]

@[simp] theorem setLinePoison_mem (s : State) (l : Nat) (p : Bool) : (s.setLinePoison l p).mem = s.mem := rfl

@[simp] theorem setLinePoison_freeMem (s : State) (l : Nat) (p : Bool) : (s.setLinePoison l p).freeMem = s.freeMem := rfl

/-- States that agree in memory and in the unspecified ranges agree in every byte and in the canonical form. -/
theorem memWf_congr {s t : State} (hm : t.mem = s.mem) (hf : t.freeMem = s.freeMem) : t.memWf = s.memWf := by
  have hb : t.blank = s.blank := by
    funext a
    simp [State.blank, hf]
  simp [State.memWf, hm, hb]

theorem byte_congr {s t : State} (hm : t.mem = s.mem) (hf : t.freeMem = s.freeMem) (a : Nat) : t.byte a = s.byte a := by
  simp [State.byte, State.blank, hm, hf]

/-- The marks of lines that a store changes leave memory as it is. -/
theorem poison_fold_mem (l : List Nat) (s : State) (c : State → Nat → State) (hm : ∀ s n, (c s n).mem = s.mem)
    (hf : ∀ s n, (c s n).freeMem = s.freeMem) : (l.foldl c s).mem = s.mem ∧ (l.foldl c s).freeMem = s.freeMem := by
  induction l generalizing s with
  | nil => exact ⟨rfl, rfl⟩
  | cons a r ih =>
    simp only [List.foldl_cons]
    exact ⟨(ih (c s a)).1.trans (hm s a), (ih (c s a)).2.trans (hf s a)⟩

theorem store_marks (s : State) (a n : Nat) :
    let t := (linesOf a n).foldl (fun s l => if a ≤ l * 128 ∧ l * 128 + 128 ≤ a + n then s.setLinePoison l false else s) s
    t.mem = s.mem ∧ t.freeMem = s.freeMem := by
  apply poison_fold_mem
  · intro s l
    split <;> rfl
  · intro s l
    split <;> rfl

/-- Whether memory is in canonical form, given the unspecified ranges. -/
def memOk (m : List Host.Cell) (f : List (Nat × Nat × Nat)) : Bool := Memory.wf ({ State.reset with freeMem := f }).blank m

theorem memWf_eq (s : State) : s.memWf = memOk s.mem s.freeMem := rfl

/-- A store keeps the canonical form. -/
theorem store_memWf {s : State} (a : Nat) (bs : List Byte) (h : s.memWf = true) : (s.store a bs).memWf = true := by
  have m := store_marks s a bs.length
  apply setBytes_memWf
  rw [memWf_congr m.1 m.2]
  exact h

/-- A store writes its bytes, and every other byte reads as before. -/
theorem byte_store (s : State) (a : Nat) (bs : List Byte) (c : Nat) :
    (s.store a bs).byte c = if a ≤ c ∧ c < a + bs.length then bs.getD (c - a) 0 else s.byte c := by
  have m := store_marks s a bs.length
  unfold State.store
  rw [byte_setBytes, byte_congr m.1 m.2]

/-- Unspecified ranges keep the canonical form: no listed byte lies in the new range. -/
theorem freeRange_memWf {s : State} (lo hi : Nat) (h : s.memWf = true) : (s.freeRange lo hi).memWf = true := by
  have h' := (wf_iff _ _).1 h
  refine (wf_iff _ _).2 ⟨rising_filter _ _ h'.1, fun e he => ?_⟩
  obtain ⟨he, hp⟩ := List.mem_filter.1 he
  have hb : (s.freeRange lo hi).blank e.1 = s.blank e.1 := by
    simp only [State.freeRange, State.blank]
    rw [List.find?_cons_of_neg]
    simp only [Bool.or_eq_true, decide_eq_true_eq] at hp
    simp only [decide_eq_true_eq]
    omega
  rw [hb]
  exact h'.2 e he

theorem keepMem_memWf {s : State} (p : Nat → Bool) (f : List (Nat × Nat × Nat)) (h : s.memWf = true) :
    (s.keepMem p f).memWf = true := by
  refine (wf_iff _ _).2 ⟨rising_filter _ _ (rising_of_memWf h), fun e he => ?_⟩
  have := (List.mem_filter.1 he).2
  simp only [Bool.and_eq_true, bne_iff_ne] at this
  exact this.2

theorem moduleReset_memWf {s : State} (h : s.memWf = true) : s.moduleReset.memWf = true := by
  refine (wf_iff _ _).2 ⟨rising_filter _ _ (rising_of_memWf h), fun e he => ?_⟩
  have := (List.mem_filter.1 he).2
  simp only [Bool.and_eq_true, bne_iff_ne] at this
  exact this.2

theorem rising_shiftKeys {α : Type} (l : AList α) (a b c : Nat) (h : rising l = true) :
    rising (shiftKeys l a b c) = true := by
  unfold shiftKeys
  have hf := rising_filter (fun e => decide (a ≤ e.1) && decide (e.1 < b)) l h
  have ha : ∀ e ∈ l.filter (fun e => decide (a ≤ e.1) && decide (e.1 < b)), a ≤ e.1 := by
    intro e he
    have := (List.mem_filter.1 he).2
    simp only [Bool.and_eq_true, decide_eq_true_eq] at this
    exact this.1
  generalize l.filter (fun e => decide (a ≤ e.1) && decide (e.1 < b)) = m at hf ha
  induction m with
  | nil => simp [rising]
  | cons x r ih =>
    rw [rising_cons] at hf
    rw [List.map_cons, rising_cons]
    refine ⟨?_, ih hf.2 fun e he => ha e (by simp [he])⟩
    intro e he
    obtain ⟨y, hy, rfl⟩ := List.mem_map.1 he
    have h1 := hf.1 y hy
    have h2 := ha x (by simp)
    have h3 := ha y (by simp [hy])
    simp only
    omega

/-- Three runs of keys, each rising and one behind the other, are rising. -/
theorem rising_three {α : Type} {l m r : AList α} {c n : Nat} (hl : rising l = true) (hm : rising m = true)
    (hr : rising r = true) (h1 : ∀ e ∈ l, e.1 < c) (h2 : ∀ e ∈ m, c ≤ e.1 ∧ e.1 < c + n) (h3 : ∀ e ∈ r, c + n ≤ e.1) :
    rising (l ++ m ++ r) = true := by
  rw [rising_append, rising_append]
  refine ⟨⟨hl, hm, fun e he f hf => ?_⟩, hr, fun e he f hf => ?_⟩
  · have := h1 e he
    have := h2 f hf
    omega
  · have := h3 f hf
    rcases List.mem_append.1 he with he | he
    · have := h1 e he
      omega
    · have := h2 e he
      omega

theorem copyKeys_wf (m : List Host.Cell) (a c n : Nat) (h : Memory.wf (fun _ => 0) m = true) :
    Memory.wf (fun _ => 0) (copyKeys m a c n) = true := by
  obtain ⟨hr, hb⟩ := (wf_iff _ _).1 h
  have sh : ∀ e ∈ shiftKeys m a (a + n) c, ∃ f ∈ m, a ≤ f.1 ∧ f.1 < a + n ∧ e = (c + (f.1 - a), f.2) := by
    intro e he
    obtain ⟨f, hf, rfl⟩ := List.mem_map.1 he
    obtain ⟨hf, hp⟩ := List.mem_filter.1 hf
    simp only [Bool.and_eq_true, decide_eq_true_eq] at hp
    exact ⟨f, hf, hp.1, hp.2, rfl⟩
  refine (wf_iff _ _).2 ⟨?_, ?_⟩
  · apply rising_three (c := c) (n := n) (rising_filter _ _ hr) (rising_shiftKeys _ _ _ _ hr) (rising_filter _ _ hr)
    · intro e he
      simpa using (List.mem_filter.1 he).2
    · intro e he
      obtain ⟨f, -, h1, h2, rfl⟩ := sh e he
      simp only
      omega
    · intro e he
      simpa using (List.mem_filter.1 he).2
  · intro e he
    simp only [copyKeys, List.mem_append] at he
    rcases he with (he | he) | he
    · exact hb e (List.mem_filter.1 he).1
    · obtain ⟨f, hf, -, -, rfl⟩ := sh e he
      exact hb f hf
    · exact hb e (List.mem_filter.1 he).1

theorem frameCells_mem (s : State) (f : Nat) (g : Nat → Byte) (e : Nat × Byte) (he : e ∈ s.frameCells f g) :
    (f ≤ e.1 ∧ e.1 < f + 2 ^ 21) ∧ e.2 ≠ s.blank e.1 := by
  obtain ⟨k, hk, h⟩ := List.mem_filterMap.1 he
  rw [List.mem_range] at hk
  split at h
  · cases h
  · next hn =>
    cases h
    exact ⟨⟨Nat.le_add_right _ _, Nat.add_lt_add_left hk f⟩, hn⟩

theorem frameCells_rising (s : State) (f n : Nat) (g : Nat → Byte) :
    rising ((List.range n).filterMap fun k => if g k = s.blank (f + k) then none else some (f + k, g k)) = true := by
  induction n with
  | zero => simp [rising]
  | succ n ih =>
    rw [List.range_succ, List.filterMap_append, rising_append]
    refine ⟨ih, ?_, ?_⟩
    · simp only [List.filterMap_cons, List.filterMap_nil]
      split <;> simp [rising]
    · intro e he x hx
      obtain ⟨k, hk, h⟩ := List.mem_filterMap.1 he
      rw [List.mem_range] at hk
      have he1 : e.1 = f + k := by
        split at h
        · cases h
        · cases h
          rfl
      simp only [List.filterMap_cons, List.filterMap_nil] at hx
      split at hx
      · cases hx
      · next y hy =>
        simp only [List.mem_singleton] at hx
        subst hx
        split at hy
        · cases hy
        · cases hy
          simp only
          omega

theorem putFrame_wf {s : State} (f : Nat) (g : Nat → Byte) (h : s.memWf = true) :
    Memory.wf s.blank (s.putFrame f (s.frameCells f g)) = true := by
  obtain ⟨hr, hb⟩ := (wf_iff _ _).1 h
  refine (wf_iff _ _).2 ⟨?_, ?_⟩
  · apply rising_three (c := f) (n := 2 ^ 21) (rising_filter _ _ hr) (frameCells_rising s f (2 ^ 21) g) (rising_filter _ _ hr)
    · intro e he
      simpa using (List.mem_filter.1 he).2
    · intro e he
      exact (frameCells_mem s f g e he).1
    · intro e he
      simpa using (List.mem_filter.1 he).2
  · intro e he
    simp only [State.putFrame, List.mem_append] at he
    rcases he with (he | he) | he
    · exact hb e (List.mem_filter.1 he).1
    · exact (frameCells_mem s f g e he).2
    · exact hb e (List.mem_filter.1 he).1

/-- Poison that moves with a page is no byte. -/
theorem poisonLines_mem (l : List (Nat × LineFlaw)) (f : Nat × LineFlaw → Nat) (s : State) :
    (l.foldl (fun t e => t.setLinePoison (f e) true) s).mem = s.mem ∧
      (l.foldl (fun t e => t.setLinePoison (f e) true) s).blank = s.blank := by
  induction l generalizing s with
  | nil => exact ⟨rfl, rfl⟩
  | cons e r ih => exact ih (s.setLinePoison (f e) true)

theorem copyPage_memWf {s : State} (a c : Nat) (h : s.memWf = true) : (s.copyPage a c).memWf = true := by
  unfold State.memWf State.copyPage
  obtain ⟨h1, h2⟩ := poisonLines_mem (s.flaws.filter fun e => e.2.bad && e.1 / 2 ^ 14 = a / 2 ^ 21)
    (fun e => e.1 - a / 128 + c / 128) { s with
      mem := if s.freeMem.isEmpty then copyKeys s.mem a c (2 ^ 21)
        else s.putFrame c (s.frameCells c fun k => s.byte (a + k))
      poison := copyKeys s.poison (a / 128) (c / 128) (2 ^ 14)
      flaws := s.flaws.filter fun e => e.1 / 2 ^ 14 != c / 2 ^ 21 }
  dsimp only
  rw [h1, h2]
  dsimp only
  have hb : State.blank { s with
      mem := if s.freeMem.isEmpty then copyKeys s.mem a c (2 ^ 21)
        else s.putFrame c (s.frameCells c fun k => s.byte (a + k))
      poison := copyKeys s.poison (a / 128) (c / 128) (2 ^ 14)
      flaws := s.flaws.filter fun e => e.1 / 2 ^ 14 != c / 2 ^ 21 } = s.blank := rfl
  rw [hb]
  split
  · next hf =>
    have h0 : s.blank = fun _ => 0 := by
      funext x
      simp [State.blank, List.isEmpty_iff.1 hf]
    rw [h0]
    apply copyKeys_wf
    rw [← h0]
    exact h
  · exact putFrame_wf c _ h

theorem freePage_memWf {s : State} (f : Nat) (h : s.memWf = true) : (s.freePage f).memWf = true := putFrame_wf f _ h

/-- Memory at reset is in canonical form. -/
theorem reset_memWf : State.reset.memWf = true := rfl

end Sys2Proof.Machine
end

