-- ==== Sys2Proof/Laws/Keeps.lean ====
section
/-! SUPPORT. A meaning keeps memory in canonical form: the rules of the monad, and the lemma of each operation over
memory. -/

namespace Sys2Proof.Machine

/-- A state's memory is in canonical form, as a proposition of its own, which nothing unfolds. -/
structure MemOk (s : State) : Prop where
  wf : s.memWf = true

theorem memOk_of_eq {s t : State} (h : MemOk s) (hm : t.mem = s.mem) (hf : t.freeMem = s.freeMem) : MemOk t := by
  have h1 := h.wf
  refine ⟨?_⟩
  rw [memWf_eq] at *
  rw [hm, hf]
  exact h1

/-- A record update of other fields keeps the form. -/
theorem mk_ok {s : State}
    {x0 x2 x3 x4 x5 x6 x7 x8 x9 x10 x11 x12 x13 x14 x15 x16 x17 x18 x19 x20 x21 x22 x23 x24 x25 x26 x27 x28 x29 x30 x31 x32
      x33 x34 x35 x36 x37 x38 x39 x40 x41 x42 x43 x44 x45 x46 x47 x48 x50 x51 x52 x53 x54 x55 x56 x57 x58 x59}
    (h : MemOk s) : MemOk (State.mk
     x0 s.mem x2 x3 x4 x5 x6 x7 x8 x9 x10 x11 x12 x13 x14 x15 x16 x17 x18 x19 x20 x21 x22 x23 x24 x25 x26 x27 x28 x29 x30 x31
        x32 x33 x34 x35 x36 x37 x38 x39 x40 x41 x42 x43 x44 x45 x46 x47 x48 s.freeMem x50 x51 x52 x53 x54 x55 x56 x57 x58 x59) :=
  memOk_of_eq h rfl rfl

theorem memOk_eq {s t : State} (hm : t.mem = s.mem) (hf : t.freeMem = s.freeMem) : MemOk t ↔ MemOk s :=
  ⟨fun h => memOk_of_eq h hm.symm hf.symm, fun h => memOk_of_eq h hm hf⟩

/-- A record update of other fields does not touch the form. -/
theorem mk_iff {s : State}
    {x0 x2 x3 x4 x5 x6 x7 x8 x9 x10 x11 x12 x13 x14 x15 x16 x17 x18 x19 x20 x21 x22 x23 x24 x25 x26 x27 x28 x29 x30 x31 x32
      x33 x34 x35 x36 x37 x38 x39 x40 x41 x42 x43 x44 x45 x46 x47 x48 x50 x51 x52 x53 x54 x55 x56 x57 x58 x59}
    : MemOk (State.mk
     x0 s.mem x2 x3 x4 x5 x6 x7 x8 x9 x10 x11 x12 x13 x14 x15 x16 x17 x18 x19 x20 x21 x22 x23 x24 x25 x26 x27 x28 x29 x30 x31
        x32 x33 x34 x35 x36 x37 x38 x39 x40 x41 x42 x43 x44 x45 x46 x47 x48 s.freeMem x50 x51 x52 x53 x54 x55 x56 x57 x58 x59) ↔ MemOk s :=
  memOk_eq rfl rfl

/-- The state of a pair. -/
theorem fst_ok {α : Type} {s : State} {a : α} (h : MemOk s) : MemOk (s, a).1 := h

/-- A choice of states. -/
theorem ite_ok {c : Prop} [Decidable c] {s t : State} (h : MemOk s) (h' : MemOk t) : MemOk (if c then s else t) := by
  by_cases hc : c
  · rw [if_pos hc]
    exact h
  · rw [if_neg hc]
    exact h'

/-- A choice of pairs. -/
theorem ite_fst_ok {α : Type} {c : Prop} [Decidable c] {s t : State × α} (h : MemOk s.1) (h' : MemOk t.1) :
    MemOk (if c then s else t).1 := by
  by_cases hc : c
  · rw [if_pos hc]
    exact h
  · rw [if_neg hc]
    exact h'

/-- A state made of what an option holds. -/
theorem elim_ok {α : Type} {o : Option α} {s : State} {f : α → State} (h : MemOk s) (hf : ∀ a, MemOk (f a)) :
    MemOk (o.elim s f) := by
  cases o with
  | none => exact h
  | some a => exact hf a

/-- A fold of updates that keep the form keeps it. -/
theorem foldl_ok {α : Type} {f : State → α → State} (l : List α) (hf : ∀ s a, MemOk s → MemOk (f s a)) {s : State}
    (h : MemOk s) : MemOk (l.foldl f s) := by
  induction l generalizing s with
  | nil => exact h
  | cons a r ih => exact ih (hf s a h)

theorem freeRange_ok {s : State} (lo hi : Nat) (h : MemOk s) : MemOk (s.freeRange lo hi) :=
  ⟨freeRange_memWf lo hi h.wf⟩

theorem setByte_ok {s : State} (a : Nat) (b : Byte) (h : MemOk s) : MemOk (s.setByte a b) :=
  ⟨setByte_memWf a b h.wf⟩

theorem setBytes_ok {s : State} (a : Nat) (bs : List Byte) (h : MemOk s) : MemOk (s.setBytes a bs) :=
  ⟨setBytes_memWf bs a h.wf⟩

theorem store_ok {s : State} (a : Nat) (bs : List Byte) (h : MemOk s) : MemOk (s.store a bs) :=
  ⟨store_memWf a bs h.wf⟩

theorem keepMem_ok {s : State} (p : Nat → Bool) (f : List (Nat × Nat × Nat)) (h : MemOk s) : MemOk (s.keepMem p f) :=
  ⟨keepMem_memWf p f h.wf⟩

theorem moduleReset_ok {s : State} (h : MemOk s) : MemOk s.moduleReset :=
  ⟨moduleReset_memWf h.wf⟩

theorem copyPage_ok {s : State} (a c : Nat) (h : MemOk s) : MemOk (s.copyPage a c) :=
  ⟨copyPage_memWf a c h.wf⟩

theorem freePage_ok {s : State} (f : Nat) (h : MemOk s) : MemOk (s.freePage f) :=
  ⟨freePage_memWf f h.wf⟩

/-- Memory is in canonical form after a meaning, however it ends, when it was before. -/
def Keeps {α : Type} (m : M α) : Prop :=
  ∀ s, MemOk s → match m s with
    | .ok _ t => MemOk t
    | .error _ t => MemOk t

theorem keeps_pure {α : Type} (a : α) : Keeps (pure a : M α) := fun _ h => h

theorem keeps_skip : Keeps skip := fun _ h => h

theorem keeps_get : Keeps (get : M State) := fun _ h => h

theorem keeps_throw {α : Type} (e : Stop) : Keeps (throw e : M α) := fun _ h => h

theorem keeps_bind {α β : Type} {m : M α} {f : α → M β} (hm : Keeps m) (hf : ∀ a, Keeps (f a)) : Keeps (m >>= f) := by
  intro s h
  have h1 := hm s h
  change match EStateM.bind m f s with
    | .ok _ t => MemOk t
    | .error _ t => MemOk t
  unfold EStateM.bind
  cases hc : m s with
  | ok a t =>
    rw [hc] at h1
    exact hf a t h1
  | error e t =>
    rw [hc] at h1
    exact h1

/-- What is read of the state is a state in canonical form. -/
theorem keeps_get_bind {β : Type} {f : State → M β} (hf : ∀ s, MemOk s → Keeps (f s)) :
    Keeps ((get : M State) >>= f) := fun s h => hf s h s h

theorem keeps_map {α β : Type} {m : M α} (g : α → β) (hm : Keeps m) : Keeps (g <$> m) := by
  intro s h
  have h1 := hm s h
  change match EStateM.map g m s with
    | .ok _ t => MemOk t
    | .error _ t => MemOk t
  unfold EStateM.map
  cases hc : m s with
  | ok a t =>
    rw [hc] at h1
    exact h1
  | error e t =>
    rw [hc] at h1
    exact h1

theorem keeps_set {t : State} (h : MemOk t) : Keeps (set t : M PUnit) := fun _ _ => h

theorem keeps_modify {f : State → State} (hf : ∀ s, MemOk s → MemOk (f s)) : Keeps (modify f : M PUnit) :=
  fun s h => hf s h

theorem keeps_tryCatch {α : Type} {m : M α} {f : Stop → M α} (hm : Keeps m) (hf : ∀ e, Keeps (f e)) :
    Keeps (tryCatch m f) := by
  intro s h
  have h1 := hm s h
  change match EStateM.tryCatch m f s with
    | .ok _ t => MemOk t
    | .error _ t => MemOk t
  unfold EStateM.tryCatch
  cases hc : m s with
  | ok a t =>
    rw [hc] at h1
    exact h1
  | error e t =>
    rw [hc] at h1
    exact hf e t h1

theorem keeps_whenM {c : Bool} {m : M Unit} (hm : Keeps m) : Keeps (whenM c m) := by
  unfold whenM
  split
  · exact hm
  · exact keeps_skip

theorem keeps_forAll {α : Type} {f : α → M Unit} (l : List α) (hf : ∀ a, Keeps (f a)) : Keeps (forAll l f) := by
  induction l with
  | nil => exact keeps_skip
  | cons a r ih => exact keeps_bind (hf a) fun _ => ih

theorem keeps_mapAll {α β : Type} {f : α → M β} (l : List α) (hf : ∀ a, Keeps (f a)) : Keeps (mapAll l f) := by
  induction l with
  | nil => exact keeps_pure _
  | cons a r ih => exact keeps_bind (hf a) fun _ => keeps_bind ih fun _ => keeps_pure _

/-- An action that changes no byte and no unspecified range. -/
theorem keeps_same {α : Type} {m : M α}
    (hm : ∀ s, match m s with
      | .ok _ t => t.mem = s.mem ∧ t.freeMem = s.freeMem
      | .error _ t => t.mem = s.mem ∧ t.freeMem = s.freeMem) : Keeps m := by
  intro s h
  have h1 := hm s
  revert h1
  cases m s with
  | ok a t => exact fun h1 => memOk_of_eq h h1.1 h1.2
  | error e t => exact fun h1 => memOk_of_eq h h1.1 h1.2

end Sys2Proof.Machine
end

