-- ==== Sys2Proof/Laws/State.lean ====
section
/-! SUPPORT. The state under its updates: each update leaves every field but its own as it was (one lemma a field, true by
unfolding), and what is read after it; flash after bytes are programmed into it. -/

namespace Sys2Proof.Machine

@[simp] theorem setReg_mem (s : State) (r : Reg) (v : W64) : (s.setReg r v).mem = s.mem := rfl
@[simp] theorem setReg_poison (s : State) (r : Reg) (v : W64) : (s.setReg r v).poison = s.poison := rfl
@[simp] theorem setReg_tiles (s : State) (r : Reg) (v : W64) : (s.setReg r v).tiles = s.tiles := rfl
@[simp] theorem setReg_banks (s : State) (r : Reg) (v : W64) : (s.setReg r v).banks = s.banks := rfl
@[simp] theorem setReg_vregs (s : State) (r : Reg) (v : W64) : (s.setReg r v).vregs = s.vregs := rfl
@[simp] theorem setReg_mregs (s : State) (r : Reg) (v : W64) : (s.setReg r v).mregs = s.mregs := rfl
@[simp] theorem setReg_flash (s : State) (r : Reg) (v : W64) : (s.setReg r v).flash = s.flash := rfl
@[simp] theorem setReg_sects (s : State) (r : Reg) (v : W64) : (s.setReg r v).sects = s.sects := rfl
@[simp] theorem setReg_arrays (s : State) (r : Reg) (v : W64) : (s.setReg r v).arrays = s.arrays := rfl
@[simp] theorem setReg_factoryLeaf (s : State) (r : Reg) (v : W64) : (s.setReg r v).factoryLeaf = s.factoryLeaf := rfl
@[simp] theorem setReg_inEffect (s : State) (r : Reg) (v : W64) : (s.setReg r v).inEffect = s.inEffect := rfl
@[simp] theorem setReg_wordShadow (s : State) (r : Reg) (v : W64) : (s.setReg r v).wordShadow = s.wordShadow := rfl
@[simp] theorem setReg_threads (s : State) (r : Reg) (v : W64) : (s.setReg r v).threads = s.threads := rfl
@[simp] theorem setReg_trees (s : State) (r : Reg) (v : W64) : (s.setReg r v).trees = s.trees := rfl
@[simp] theorem setReg_collector (s : State) (r : Reg) (v : W64) : (s.setReg r v).collector = s.collector := rfl
@[simp] theorem setReg_handled (s : State) (r : Reg) (v : W64) : (s.setReg r v).handled = s.handled := rfl
@[simp] theorem setReg_pcie (s : State) (r : Reg) (v : W64) : (s.setReg r v).pcie = s.pcie := rfl
@[simp] theorem setReg_heldEvents (s : State) (r : Reg) (v : W64) : (s.setReg r v).heldEvents = s.heldEvents := rfl
@[simp] theorem setReg_barriers (s : State) (r : Reg) (v : W64) : (s.setReg r v).barriers = s.barriers := rfl
@[simp] theorem setReg_turns (s : State) (r : Reg) (v : W64) : (s.setReg r v).turns = s.turns := rfl
@[simp] theorem setReg_canopies (s : State) (r : Reg) (v : W64) : (s.setReg r v).canopies = s.canopies := rfl
@[simp] theorem setReg_flaws (s : State) (r : Reg) (v : W64) : (s.setReg r v).flaws = s.flaws := rfl
@[simp] theorem setReg_badTags (s : State) (r : Reg) (v : W64) : (s.setReg r v).badTags = s.badTags := rfl
@[simp] theorem setReg_openRows (s : State) (r : Reg) (v : W64) : (s.setReg r v).openRows = s.openRows := rfl
@[simp] theorem setReg_pins (s : State) (r : Reg) (v : W64) : (s.setReg r v).pins = s.pins := rfl
@[simp] theorem setReg_nbScrubbed (s : State) (r : Reg) (v : W64) : (s.setReg r v).nbScrubbed = s.nbScrubbed := rfl
@[simp] theorem setReg_hwScrubbed (s : State) (r : Reg) (v : W64) : (s.setReg r v).hwScrubbed = s.hwScrubbed := rfl
@[simp] theorem setReg_hints (s : State) (r : Reg) (v : W64) : (s.setReg r v).hints = s.hints := rfl
@[simp] theorem setReg_cmos (s : State) (r : Reg) (v : W64) : (s.setReg r v).cmos = s.cmos := rfl
@[simp] theorem setReg_posted (s : State) (r : Reg) (v : W64) : (s.setReg r v).posted = s.posted := rfl
@[simp] theorem setReg_ferries (s : State) (r : Reg) (v : W64) : (s.setReg r v).ferries = s.ferries := rfl
@[simp] theorem setReg_dead (s : State) (r : Reg) (v : W64) : (s.setReg r v).dead = s.dead := rfl
@[simp] theorem setReg_tlbs (s : State) (r : Reg) (v : W64) : (s.setReg r v).tlbs = s.tlbs := rfl
@[simp] theorem setReg_walks (s : State) (r : Reg) (v : W64) : (s.setReg r v).walks = s.walks := rfl
@[simp] theorem setReg_atsReqs (s : State) (r : Reg) (v : W64) : (s.setReg r v).atsReqs = s.atsReqs := rfl
@[simp] theorem setReg_pageReqs (s : State) (r : Reg) (v : W64) : (s.setReg r v).pageReqs = s.pageReqs := rfl
@[simp] theorem setReg_pageNext (s : State) (r : Reg) (v : W64) : (s.setReg r v).pageNext = s.pageNext := rfl
@[simp] theorem setReg_onces (s : State) (r : Reg) (v : W64) : (s.setReg r v).onces = s.onces := rfl
@[simp] theorem setReg_hostFails (s : State) (r : Reg) (v : W64) : (s.setReg r v).hostFails = s.hostFails := rfl
@[simp] theorem setReg_tlbInv (s : State) (r : Reg) (v : W64) : (s.setReg r v).tlbInv = s.tlbInv := rfl
@[simp] theorem setReg_epUnits (s : State) (r : Reg) (v : W64) : (s.setReg r v).epUnits = s.epUnits := rfl
@[simp] theorem setReg_undone (s : State) (r : Reg) (v : W64) : (s.setReg r v).undone = s.undone := rfl
@[simp] theorem setReg_epFlaws (s : State) (r : Reg) (v : W64) : (s.setReg r v).epFlaws = s.epFlaws := rfl
@[simp] theorem setReg_commit (s : State) (r : Reg) (v : W64) : (s.setReg r v).commit = s.commit := rfl
@[simp] theorem setReg_journal (s : State) (r : Reg) (v : W64) : (s.setReg r v).journal = s.journal := rfl
@[simp] theorem setReg_replica (s : State) (r : Reg) (v : W64) : (s.setReg r v).replica = s.replica := rfl
@[simp] theorem setReg_links (s : State) (r : Reg) (v : W64) : (s.setReg r v).links = s.links := rfl
@[simp] theorem setReg_tide (s : State) (r : Reg) (v : W64) : (s.setReg r v).tide = s.tide := rfl
@[simp] theorem setReg_freeMem (s : State) (r : Reg) (v : W64) : (s.setReg r v).freeMem = s.freeMem := rfl
@[simp] theorem setReg_rerig (s : State) (r : Reg) (v : W64) : (s.setReg r v).rerig = s.rerig := rfl
@[simp] theorem setReg_bist (s : State) (r : Reg) (v : W64) : (s.setReg r v).bist = s.bist := rfl
@[simp] theorem setReg_job (s : State) (r : Reg) (v : W64) : (s.setReg r v).job = s.job := rfl
@[simp] theorem setReg_sec (s : State) (r : Reg) (v : W64) : (s.setReg r v).sec = s.sec := rfl
@[simp] theorem setReg_mgmt (s : State) (r : Reg) (v : W64) : (s.setReg r v).mgmt = s.mgmt := rfl
@[simp] theorem setReg_power (s : State) (r : Reg) (v : W64) : (s.setReg r v).power = s.power := rfl
@[simp] theorem setReg_out (s : State) (r : Reg) (v : W64) : (s.setReg r v).out = s.out := rfl
@[simp] theorem setReg_fresh (s : State) (r : Reg) (v : W64) : (s.setReg r v).fresh = s.fresh := rfl
@[simp] theorem setReg_now (s : State) (r : Reg) (v : W64) : (s.setReg r v).now = s.now := rfl
@[simp] theorem setReg_pending (s : State) (r : Reg) (v : W64) : (s.setReg r v).pending = s.pending := rfl

@[simp] theorem setFld_mem (s : State) (r : Reg) (lo n v : Nat) : (s.setFld r lo n v).mem = s.mem := rfl
@[simp] theorem setFld_poison (s : State) (r : Reg) (lo n v : Nat) : (s.setFld r lo n v).poison = s.poison := rfl
@[simp] theorem setFld_tiles (s : State) (r : Reg) (lo n v : Nat) : (s.setFld r lo n v).tiles = s.tiles := rfl
@[simp] theorem setFld_banks (s : State) (r : Reg) (lo n v : Nat) : (s.setFld r lo n v).banks = s.banks := rfl
@[simp] theorem setFld_vregs (s : State) (r : Reg) (lo n v : Nat) : (s.setFld r lo n v).vregs = s.vregs := rfl
@[simp] theorem setFld_mregs (s : State) (r : Reg) (lo n v : Nat) : (s.setFld r lo n v).mregs = s.mregs := rfl
@[simp] theorem setFld_flash (s : State) (r : Reg) (lo n v : Nat) : (s.setFld r lo n v).flash = s.flash := rfl
@[simp] theorem setFld_sects (s : State) (r : Reg) (lo n v : Nat) : (s.setFld r lo n v).sects = s.sects := rfl
@[simp] theorem setFld_arrays (s : State) (r : Reg) (lo n v : Nat) : (s.setFld r lo n v).arrays = s.arrays := rfl
@[simp] theorem setFld_factoryLeaf (s : State) (r : Reg) (lo n v : Nat) : (s.setFld r lo n v).factoryLeaf = s.factoryLeaf := rfl
@[simp] theorem setFld_inEffect (s : State) (r : Reg) (lo n v : Nat) : (s.setFld r lo n v).inEffect = s.inEffect := rfl
@[simp] theorem setFld_wordShadow (s : State) (r : Reg) (lo n v : Nat) : (s.setFld r lo n v).wordShadow = s.wordShadow := rfl
@[simp] theorem setFld_threads (s : State) (r : Reg) (lo n v : Nat) : (s.setFld r lo n v).threads = s.threads := rfl
@[simp] theorem setFld_trees (s : State) (r : Reg) (lo n v : Nat) : (s.setFld r lo n v).trees = s.trees := rfl
@[simp] theorem setFld_collector (s : State) (r : Reg) (lo n v : Nat) : (s.setFld r lo n v).collector = s.collector := rfl
@[simp] theorem setFld_handled (s : State) (r : Reg) (lo n v : Nat) : (s.setFld r lo n v).handled = s.handled := rfl
@[simp] theorem setFld_pcie (s : State) (r : Reg) (lo n v : Nat) : (s.setFld r lo n v).pcie = s.pcie := rfl
@[simp] theorem setFld_heldEvents (s : State) (r : Reg) (lo n v : Nat) : (s.setFld r lo n v).heldEvents = s.heldEvents := rfl
@[simp] theorem setFld_barriers (s : State) (r : Reg) (lo n v : Nat) : (s.setFld r lo n v).barriers = s.barriers := rfl
@[simp] theorem setFld_turns (s : State) (r : Reg) (lo n v : Nat) : (s.setFld r lo n v).turns = s.turns := rfl
@[simp] theorem setFld_canopies (s : State) (r : Reg) (lo n v : Nat) : (s.setFld r lo n v).canopies = s.canopies := rfl
@[simp] theorem setFld_flaws (s : State) (r : Reg) (lo n v : Nat) : (s.setFld r lo n v).flaws = s.flaws := rfl
@[simp] theorem setFld_badTags (s : State) (r : Reg) (lo n v : Nat) : (s.setFld r lo n v).badTags = s.badTags := rfl
@[simp] theorem setFld_openRows (s : State) (r : Reg) (lo n v : Nat) : (s.setFld r lo n v).openRows = s.openRows := rfl
@[simp] theorem setFld_pins (s : State) (r : Reg) (lo n v : Nat) : (s.setFld r lo n v).pins = s.pins := rfl
@[simp] theorem setFld_nbScrubbed (s : State) (r : Reg) (lo n v : Nat) : (s.setFld r lo n v).nbScrubbed = s.nbScrubbed := rfl
@[simp] theorem setFld_hwScrubbed (s : State) (r : Reg) (lo n v : Nat) : (s.setFld r lo n v).hwScrubbed = s.hwScrubbed := rfl
@[simp] theorem setFld_hints (s : State) (r : Reg) (lo n v : Nat) : (s.setFld r lo n v).hints = s.hints := rfl
@[simp] theorem setFld_cmos (s : State) (r : Reg) (lo n v : Nat) : (s.setFld r lo n v).cmos = s.cmos := rfl
@[simp] theorem setFld_posted (s : State) (r : Reg) (lo n v : Nat) : (s.setFld r lo n v).posted = s.posted := rfl
@[simp] theorem setFld_ferries (s : State) (r : Reg) (lo n v : Nat) : (s.setFld r lo n v).ferries = s.ferries := rfl
@[simp] theorem setFld_dead (s : State) (r : Reg) (lo n v : Nat) : (s.setFld r lo n v).dead = s.dead := rfl
@[simp] theorem setFld_tlbs (s : State) (r : Reg) (lo n v : Nat) : (s.setFld r lo n v).tlbs = s.tlbs := rfl
@[simp] theorem setFld_walks (s : State) (r : Reg) (lo n v : Nat) : (s.setFld r lo n v).walks = s.walks := rfl
@[simp] theorem setFld_atsReqs (s : State) (r : Reg) (lo n v : Nat) : (s.setFld r lo n v).atsReqs = s.atsReqs := rfl
@[simp] theorem setFld_pageReqs (s : State) (r : Reg) (lo n v : Nat) : (s.setFld r lo n v).pageReqs = s.pageReqs := rfl
@[simp] theorem setFld_pageNext (s : State) (r : Reg) (lo n v : Nat) : (s.setFld r lo n v).pageNext = s.pageNext := rfl
@[simp] theorem setFld_onces (s : State) (r : Reg) (lo n v : Nat) : (s.setFld r lo n v).onces = s.onces := rfl
@[simp] theorem setFld_hostFails (s : State) (r : Reg) (lo n v : Nat) : (s.setFld r lo n v).hostFails = s.hostFails := rfl
@[simp] theorem setFld_tlbInv (s : State) (r : Reg) (lo n v : Nat) : (s.setFld r lo n v).tlbInv = s.tlbInv := rfl
@[simp] theorem setFld_epUnits (s : State) (r : Reg) (lo n v : Nat) : (s.setFld r lo n v).epUnits = s.epUnits := rfl
@[simp] theorem setFld_undone (s : State) (r : Reg) (lo n v : Nat) : (s.setFld r lo n v).undone = s.undone := rfl
@[simp] theorem setFld_epFlaws (s : State) (r : Reg) (lo n v : Nat) : (s.setFld r lo n v).epFlaws = s.epFlaws := rfl
@[simp] theorem setFld_commit (s : State) (r : Reg) (lo n v : Nat) : (s.setFld r lo n v).commit = s.commit := rfl
@[simp] theorem setFld_journal (s : State) (r : Reg) (lo n v : Nat) : (s.setFld r lo n v).journal = s.journal := rfl
@[simp] theorem setFld_replica (s : State) (r : Reg) (lo n v : Nat) : (s.setFld r lo n v).replica = s.replica := rfl
@[simp] theorem setFld_links (s : State) (r : Reg) (lo n v : Nat) : (s.setFld r lo n v).links = s.links := rfl
@[simp] theorem setFld_tide (s : State) (r : Reg) (lo n v : Nat) : (s.setFld r lo n v).tide = s.tide := rfl
@[simp] theorem setFld_freeMem (s : State) (r : Reg) (lo n v : Nat) : (s.setFld r lo n v).freeMem = s.freeMem := rfl
@[simp] theorem setFld_rerig (s : State) (r : Reg) (lo n v : Nat) : (s.setFld r lo n v).rerig = s.rerig := rfl
@[simp] theorem setFld_bist (s : State) (r : Reg) (lo n v : Nat) : (s.setFld r lo n v).bist = s.bist := rfl
@[simp] theorem setFld_job (s : State) (r : Reg) (lo n v : Nat) : (s.setFld r lo n v).job = s.job := rfl
@[simp] theorem setFld_sec (s : State) (r : Reg) (lo n v : Nat) : (s.setFld r lo n v).sec = s.sec := rfl
@[simp] theorem setFld_mgmt (s : State) (r : Reg) (lo n v : Nat) : (s.setFld r lo n v).mgmt = s.mgmt := rfl
@[simp] theorem setFld_power (s : State) (r : Reg) (lo n v : Nat) : (s.setFld r lo n v).power = s.power := rfl
@[simp] theorem setFld_out (s : State) (r : Reg) (lo n v : Nat) : (s.setFld r lo n v).out = s.out := rfl
@[simp] theorem setFld_fresh (s : State) (r : Reg) (lo n v : Nat) : (s.setFld r lo n v).fresh = s.fresh := rfl
@[simp] theorem setFld_now (s : State) (r : Reg) (lo n v : Nat) : (s.setFld r lo n v).now = s.now := rfl
@[simp] theorem setFld_pending (s : State) (r : Reg) (lo n v : Nat) : (s.setFld r lo n v).pending = s.pending := rfl

@[simp] theorem satFld_mem (s : State) (r : Reg) (lo n : Nat) : (s.satFld r lo n).mem = s.mem := rfl
@[simp] theorem satFld_poison (s : State) (r : Reg) (lo n : Nat) : (s.satFld r lo n).poison = s.poison := rfl
@[simp] theorem satFld_tiles (s : State) (r : Reg) (lo n : Nat) : (s.satFld r lo n).tiles = s.tiles := rfl
@[simp] theorem satFld_banks (s : State) (r : Reg) (lo n : Nat) : (s.satFld r lo n).banks = s.banks := rfl
@[simp] theorem satFld_vregs (s : State) (r : Reg) (lo n : Nat) : (s.satFld r lo n).vregs = s.vregs := rfl
@[simp] theorem satFld_mregs (s : State) (r : Reg) (lo n : Nat) : (s.satFld r lo n).mregs = s.mregs := rfl
@[simp] theorem satFld_flash (s : State) (r : Reg) (lo n : Nat) : (s.satFld r lo n).flash = s.flash := rfl
@[simp] theorem satFld_sects (s : State) (r : Reg) (lo n : Nat) : (s.satFld r lo n).sects = s.sects := rfl
@[simp] theorem satFld_arrays (s : State) (r : Reg) (lo n : Nat) : (s.satFld r lo n).arrays = s.arrays := rfl
@[simp] theorem satFld_factoryLeaf (s : State) (r : Reg) (lo n : Nat) : (s.satFld r lo n).factoryLeaf = s.factoryLeaf := rfl
@[simp] theorem satFld_inEffect (s : State) (r : Reg) (lo n : Nat) : (s.satFld r lo n).inEffect = s.inEffect := rfl
@[simp] theorem satFld_wordShadow (s : State) (r : Reg) (lo n : Nat) : (s.satFld r lo n).wordShadow = s.wordShadow := rfl
@[simp] theorem satFld_threads (s : State) (r : Reg) (lo n : Nat) : (s.satFld r lo n).threads = s.threads := rfl
@[simp] theorem satFld_trees (s : State) (r : Reg) (lo n : Nat) : (s.satFld r lo n).trees = s.trees := rfl
@[simp] theorem satFld_collector (s : State) (r : Reg) (lo n : Nat) : (s.satFld r lo n).collector = s.collector := rfl
@[simp] theorem satFld_handled (s : State) (r : Reg) (lo n : Nat) : (s.satFld r lo n).handled = s.handled := rfl
@[simp] theorem satFld_pcie (s : State) (r : Reg) (lo n : Nat) : (s.satFld r lo n).pcie = s.pcie := rfl
@[simp] theorem satFld_heldEvents (s : State) (r : Reg) (lo n : Nat) : (s.satFld r lo n).heldEvents = s.heldEvents := rfl
@[simp] theorem satFld_barriers (s : State) (r : Reg) (lo n : Nat) : (s.satFld r lo n).barriers = s.barriers := rfl
@[simp] theorem satFld_turns (s : State) (r : Reg) (lo n : Nat) : (s.satFld r lo n).turns = s.turns := rfl
@[simp] theorem satFld_canopies (s : State) (r : Reg) (lo n : Nat) : (s.satFld r lo n).canopies = s.canopies := rfl
@[simp] theorem satFld_flaws (s : State) (r : Reg) (lo n : Nat) : (s.satFld r lo n).flaws = s.flaws := rfl
@[simp] theorem satFld_badTags (s : State) (r : Reg) (lo n : Nat) : (s.satFld r lo n).badTags = s.badTags := rfl
@[simp] theorem satFld_openRows (s : State) (r : Reg) (lo n : Nat) : (s.satFld r lo n).openRows = s.openRows := rfl
@[simp] theorem satFld_pins (s : State) (r : Reg) (lo n : Nat) : (s.satFld r lo n).pins = s.pins := rfl
@[simp] theorem satFld_nbScrubbed (s : State) (r : Reg) (lo n : Nat) : (s.satFld r lo n).nbScrubbed = s.nbScrubbed := rfl
@[simp] theorem satFld_hwScrubbed (s : State) (r : Reg) (lo n : Nat) : (s.satFld r lo n).hwScrubbed = s.hwScrubbed := rfl
@[simp] theorem satFld_hints (s : State) (r : Reg) (lo n : Nat) : (s.satFld r lo n).hints = s.hints := rfl
@[simp] theorem satFld_cmos (s : State) (r : Reg) (lo n : Nat) : (s.satFld r lo n).cmos = s.cmos := rfl
@[simp] theorem satFld_posted (s : State) (r : Reg) (lo n : Nat) : (s.satFld r lo n).posted = s.posted := rfl
@[simp] theorem satFld_ferries (s : State) (r : Reg) (lo n : Nat) : (s.satFld r lo n).ferries = s.ferries := rfl
@[simp] theorem satFld_dead (s : State) (r : Reg) (lo n : Nat) : (s.satFld r lo n).dead = s.dead := rfl
@[simp] theorem satFld_tlbs (s : State) (r : Reg) (lo n : Nat) : (s.satFld r lo n).tlbs = s.tlbs := rfl
@[simp] theorem satFld_walks (s : State) (r : Reg) (lo n : Nat) : (s.satFld r lo n).walks = s.walks := rfl
@[simp] theorem satFld_atsReqs (s : State) (r : Reg) (lo n : Nat) : (s.satFld r lo n).atsReqs = s.atsReqs := rfl
@[simp] theorem satFld_pageReqs (s : State) (r : Reg) (lo n : Nat) : (s.satFld r lo n).pageReqs = s.pageReqs := rfl
@[simp] theorem satFld_pageNext (s : State) (r : Reg) (lo n : Nat) : (s.satFld r lo n).pageNext = s.pageNext := rfl
@[simp] theorem satFld_onces (s : State) (r : Reg) (lo n : Nat) : (s.satFld r lo n).onces = s.onces := rfl
@[simp] theorem satFld_hostFails (s : State) (r : Reg) (lo n : Nat) : (s.satFld r lo n).hostFails = s.hostFails := rfl
@[simp] theorem satFld_tlbInv (s : State) (r : Reg) (lo n : Nat) : (s.satFld r lo n).tlbInv = s.tlbInv := rfl
@[simp] theorem satFld_epUnits (s : State) (r : Reg) (lo n : Nat) : (s.satFld r lo n).epUnits = s.epUnits := rfl
@[simp] theorem satFld_undone (s : State) (r : Reg) (lo n : Nat) : (s.satFld r lo n).undone = s.undone := rfl
@[simp] theorem satFld_epFlaws (s : State) (r : Reg) (lo n : Nat) : (s.satFld r lo n).epFlaws = s.epFlaws := rfl
@[simp] theorem satFld_commit (s : State) (r : Reg) (lo n : Nat) : (s.satFld r lo n).commit = s.commit := rfl
@[simp] theorem satFld_journal (s : State) (r : Reg) (lo n : Nat) : (s.satFld r lo n).journal = s.journal := rfl
@[simp] theorem satFld_replica (s : State) (r : Reg) (lo n : Nat) : (s.satFld r lo n).replica = s.replica := rfl
@[simp] theorem satFld_links (s : State) (r : Reg) (lo n : Nat) : (s.satFld r lo n).links = s.links := rfl
@[simp] theorem satFld_tide (s : State) (r : Reg) (lo n : Nat) : (s.satFld r lo n).tide = s.tide := rfl
@[simp] theorem satFld_freeMem (s : State) (r : Reg) (lo n : Nat) : (s.satFld r lo n).freeMem = s.freeMem := rfl
@[simp] theorem satFld_rerig (s : State) (r : Reg) (lo n : Nat) : (s.satFld r lo n).rerig = s.rerig := rfl
@[simp] theorem satFld_bist (s : State) (r : Reg) (lo n : Nat) : (s.satFld r lo n).bist = s.bist := rfl
@[simp] theorem satFld_job (s : State) (r : Reg) (lo n : Nat) : (s.satFld r lo n).job = s.job := rfl
@[simp] theorem satFld_sec (s : State) (r : Reg) (lo n : Nat) : (s.satFld r lo n).sec = s.sec := rfl
@[simp] theorem satFld_mgmt (s : State) (r : Reg) (lo n : Nat) : (s.satFld r lo n).mgmt = s.mgmt := rfl
@[simp] theorem satFld_power (s : State) (r : Reg) (lo n : Nat) : (s.satFld r lo n).power = s.power := rfl
@[simp] theorem satFld_out (s : State) (r : Reg) (lo n : Nat) : (s.satFld r lo n).out = s.out := rfl
@[simp] theorem satFld_fresh (s : State) (r : Reg) (lo n : Nat) : (s.satFld r lo n).fresh = s.fresh := rfl
@[simp] theorem satFld_now (s : State) (r : Reg) (lo n : Nat) : (s.satFld r lo n).now = s.now := rfl
@[simp] theorem satFld_pending (s : State) (r : Reg) (lo n : Nat) : (s.satFld r lo n).pending = s.pending := rfl

@[simp] theorem addFld_mem (s : State) (r : Reg) (lo n k : Nat) : (s.addFld r lo n k).mem = s.mem := rfl
@[simp] theorem addFld_poison (s : State) (r : Reg) (lo n k : Nat) : (s.addFld r lo n k).poison = s.poison := rfl
@[simp] theorem addFld_tiles (s : State) (r : Reg) (lo n k : Nat) : (s.addFld r lo n k).tiles = s.tiles := rfl
@[simp] theorem addFld_banks (s : State) (r : Reg) (lo n k : Nat) : (s.addFld r lo n k).banks = s.banks := rfl
@[simp] theorem addFld_vregs (s : State) (r : Reg) (lo n k : Nat) : (s.addFld r lo n k).vregs = s.vregs := rfl
@[simp] theorem addFld_mregs (s : State) (r : Reg) (lo n k : Nat) : (s.addFld r lo n k).mregs = s.mregs := rfl
@[simp] theorem addFld_flash (s : State) (r : Reg) (lo n k : Nat) : (s.addFld r lo n k).flash = s.flash := rfl
@[simp] theorem addFld_sects (s : State) (r : Reg) (lo n k : Nat) : (s.addFld r lo n k).sects = s.sects := rfl
@[simp] theorem addFld_arrays (s : State) (r : Reg) (lo n k : Nat) : (s.addFld r lo n k).arrays = s.arrays := rfl
@[simp] theorem addFld_factoryLeaf (s : State) (r : Reg) (lo n k : Nat) : (s.addFld r lo n k).factoryLeaf = s.factoryLeaf := rfl
@[simp] theorem addFld_inEffect (s : State) (r : Reg) (lo n k : Nat) : (s.addFld r lo n k).inEffect = s.inEffect := rfl
@[simp] theorem addFld_wordShadow (s : State) (r : Reg) (lo n k : Nat) : (s.addFld r lo n k).wordShadow = s.wordShadow := rfl
@[simp] theorem addFld_threads (s : State) (r : Reg) (lo n k : Nat) : (s.addFld r lo n k).threads = s.threads := rfl
@[simp] theorem addFld_trees (s : State) (r : Reg) (lo n k : Nat) : (s.addFld r lo n k).trees = s.trees := rfl
@[simp] theorem addFld_collector (s : State) (r : Reg) (lo n k : Nat) : (s.addFld r lo n k).collector = s.collector := rfl
@[simp] theorem addFld_handled (s : State) (r : Reg) (lo n k : Nat) : (s.addFld r lo n k).handled = s.handled := rfl
@[simp] theorem addFld_pcie (s : State) (r : Reg) (lo n k : Nat) : (s.addFld r lo n k).pcie = s.pcie := rfl
@[simp] theorem addFld_heldEvents (s : State) (r : Reg) (lo n k : Nat) : (s.addFld r lo n k).heldEvents = s.heldEvents := rfl
@[simp] theorem addFld_barriers (s : State) (r : Reg) (lo n k : Nat) : (s.addFld r lo n k).barriers = s.barriers := rfl
@[simp] theorem addFld_turns (s : State) (r : Reg) (lo n k : Nat) : (s.addFld r lo n k).turns = s.turns := rfl
@[simp] theorem addFld_canopies (s : State) (r : Reg) (lo n k : Nat) : (s.addFld r lo n k).canopies = s.canopies := rfl
@[simp] theorem addFld_flaws (s : State) (r : Reg) (lo n k : Nat) : (s.addFld r lo n k).flaws = s.flaws := rfl
@[simp] theorem addFld_badTags (s : State) (r : Reg) (lo n k : Nat) : (s.addFld r lo n k).badTags = s.badTags := rfl
@[simp] theorem addFld_openRows (s : State) (r : Reg) (lo n k : Nat) : (s.addFld r lo n k).openRows = s.openRows := rfl
@[simp] theorem addFld_pins (s : State) (r : Reg) (lo n k : Nat) : (s.addFld r lo n k).pins = s.pins := rfl
@[simp] theorem addFld_nbScrubbed (s : State) (r : Reg) (lo n k : Nat) : (s.addFld r lo n k).nbScrubbed = s.nbScrubbed := rfl
@[simp] theorem addFld_hwScrubbed (s : State) (r : Reg) (lo n k : Nat) : (s.addFld r lo n k).hwScrubbed = s.hwScrubbed := rfl
@[simp] theorem addFld_hints (s : State) (r : Reg) (lo n k : Nat) : (s.addFld r lo n k).hints = s.hints := rfl
@[simp] theorem addFld_cmos (s : State) (r : Reg) (lo n k : Nat) : (s.addFld r lo n k).cmos = s.cmos := rfl
@[simp] theorem addFld_posted (s : State) (r : Reg) (lo n k : Nat) : (s.addFld r lo n k).posted = s.posted := rfl
@[simp] theorem addFld_ferries (s : State) (r : Reg) (lo n k : Nat) : (s.addFld r lo n k).ferries = s.ferries := rfl
@[simp] theorem addFld_dead (s : State) (r : Reg) (lo n k : Nat) : (s.addFld r lo n k).dead = s.dead := rfl
@[simp] theorem addFld_tlbs (s : State) (r : Reg) (lo n k : Nat) : (s.addFld r lo n k).tlbs = s.tlbs := rfl
@[simp] theorem addFld_walks (s : State) (r : Reg) (lo n k : Nat) : (s.addFld r lo n k).walks = s.walks := rfl
@[simp] theorem addFld_atsReqs (s : State) (r : Reg) (lo n k : Nat) : (s.addFld r lo n k).atsReqs = s.atsReqs := rfl
@[simp] theorem addFld_pageReqs (s : State) (r : Reg) (lo n k : Nat) : (s.addFld r lo n k).pageReqs = s.pageReqs := rfl
@[simp] theorem addFld_pageNext (s : State) (r : Reg) (lo n k : Nat) : (s.addFld r lo n k).pageNext = s.pageNext := rfl
@[simp] theorem addFld_onces (s : State) (r : Reg) (lo n k : Nat) : (s.addFld r lo n k).onces = s.onces := rfl
@[simp] theorem addFld_hostFails (s : State) (r : Reg) (lo n k : Nat) : (s.addFld r lo n k).hostFails = s.hostFails := rfl
@[simp] theorem addFld_tlbInv (s : State) (r : Reg) (lo n k : Nat) : (s.addFld r lo n k).tlbInv = s.tlbInv := rfl
@[simp] theorem addFld_epUnits (s : State) (r : Reg) (lo n k : Nat) : (s.addFld r lo n k).epUnits = s.epUnits := rfl
@[simp] theorem addFld_undone (s : State) (r : Reg) (lo n k : Nat) : (s.addFld r lo n k).undone = s.undone := rfl
@[simp] theorem addFld_epFlaws (s : State) (r : Reg) (lo n k : Nat) : (s.addFld r lo n k).epFlaws = s.epFlaws := rfl
@[simp] theorem addFld_commit (s : State) (r : Reg) (lo n k : Nat) : (s.addFld r lo n k).commit = s.commit := rfl
@[simp] theorem addFld_journal (s : State) (r : Reg) (lo n k : Nat) : (s.addFld r lo n k).journal = s.journal := rfl
@[simp] theorem addFld_replica (s : State) (r : Reg) (lo n k : Nat) : (s.addFld r lo n k).replica = s.replica := rfl
@[simp] theorem addFld_links (s : State) (r : Reg) (lo n k : Nat) : (s.addFld r lo n k).links = s.links := rfl
@[simp] theorem addFld_tide (s : State) (r : Reg) (lo n k : Nat) : (s.addFld r lo n k).tide = s.tide := rfl
@[simp] theorem addFld_freeMem (s : State) (r : Reg) (lo n k : Nat) : (s.addFld r lo n k).freeMem = s.freeMem := rfl
@[simp] theorem addFld_rerig (s : State) (r : Reg) (lo n k : Nat) : (s.addFld r lo n k).rerig = s.rerig := rfl
@[simp] theorem addFld_bist (s : State) (r : Reg) (lo n k : Nat) : (s.addFld r lo n k).bist = s.bist := rfl
@[simp] theorem addFld_job (s : State) (r : Reg) (lo n k : Nat) : (s.addFld r lo n k).job = s.job := rfl
@[simp] theorem addFld_sec (s : State) (r : Reg) (lo n k : Nat) : (s.addFld r lo n k).sec = s.sec := rfl
@[simp] theorem addFld_mgmt (s : State) (r : Reg) (lo n k : Nat) : (s.addFld r lo n k).mgmt = s.mgmt := rfl
@[simp] theorem addFld_power (s : State) (r : Reg) (lo n k : Nat) : (s.addFld r lo n k).power = s.power := rfl
@[simp] theorem addFld_out (s : State) (r : Reg) (lo n k : Nat) : (s.addFld r lo n k).out = s.out := rfl
@[simp] theorem addFld_fresh (s : State) (r : Reg) (lo n k : Nat) : (s.addFld r lo n k).fresh = s.fresh := rfl
@[simp] theorem addFld_now (s : State) (r : Reg) (lo n k : Nat) : (s.addFld r lo n k).now = s.now := rfl
@[simp] theorem addFld_pending (s : State) (r : Reg) (lo n k : Nat) : (s.addFld r lo n k).pending = s.pending := rfl

@[simp] theorem setByte_regs (s : State) (a : Nat) (b : Byte) : (s.setByte a b).regs = s.regs := rfl
@[simp] theorem setByte_poison (s : State) (a : Nat) (b : Byte) : (s.setByte a b).poison = s.poison := rfl
@[simp] theorem setByte_tiles (s : State) (a : Nat) (b : Byte) : (s.setByte a b).tiles = s.tiles := rfl
@[simp] theorem setByte_banks (s : State) (a : Nat) (b : Byte) : (s.setByte a b).banks = s.banks := rfl
@[simp] theorem setByte_vregs (s : State) (a : Nat) (b : Byte) : (s.setByte a b).vregs = s.vregs := rfl
@[simp] theorem setByte_mregs (s : State) (a : Nat) (b : Byte) : (s.setByte a b).mregs = s.mregs := rfl
@[simp] theorem setByte_flash (s : State) (a : Nat) (b : Byte) : (s.setByte a b).flash = s.flash := rfl
@[simp] theorem setByte_sects (s : State) (a : Nat) (b : Byte) : (s.setByte a b).sects = s.sects := rfl
@[simp] theorem setByte_arrays (s : State) (a : Nat) (b : Byte) : (s.setByte a b).arrays = s.arrays := rfl
@[simp] theorem setByte_factoryLeaf (s : State) (a : Nat) (b : Byte) : (s.setByte a b).factoryLeaf = s.factoryLeaf := rfl
@[simp] theorem setByte_inEffect (s : State) (a : Nat) (b : Byte) : (s.setByte a b).inEffect = s.inEffect := rfl
@[simp] theorem setByte_wordShadow (s : State) (a : Nat) (b : Byte) : (s.setByte a b).wordShadow = s.wordShadow := rfl
@[simp] theorem setByte_threads (s : State) (a : Nat) (b : Byte) : (s.setByte a b).threads = s.threads := rfl
@[simp] theorem setByte_trees (s : State) (a : Nat) (b : Byte) : (s.setByte a b).trees = s.trees := rfl
@[simp] theorem setByte_collector (s : State) (a : Nat) (b : Byte) : (s.setByte a b).collector = s.collector := rfl
@[simp] theorem setByte_handled (s : State) (a : Nat) (b : Byte) : (s.setByte a b).handled = s.handled := rfl
@[simp] theorem setByte_pcie (s : State) (a : Nat) (b : Byte) : (s.setByte a b).pcie = s.pcie := rfl
@[simp] theorem setByte_heldEvents (s : State) (a : Nat) (b : Byte) : (s.setByte a b).heldEvents = s.heldEvents := rfl
@[simp] theorem setByte_barriers (s : State) (a : Nat) (b : Byte) : (s.setByte a b).barriers = s.barriers := rfl
@[simp] theorem setByte_turns (s : State) (a : Nat) (b : Byte) : (s.setByte a b).turns = s.turns := rfl
@[simp] theorem setByte_canopies (s : State) (a : Nat) (b : Byte) : (s.setByte a b).canopies = s.canopies := rfl
@[simp] theorem setByte_flaws (s : State) (a : Nat) (b : Byte) : (s.setByte a b).flaws = s.flaws := rfl
@[simp] theorem setByte_badTags (s : State) (a : Nat) (b : Byte) : (s.setByte a b).badTags = s.badTags := rfl
@[simp] theorem setByte_openRows (s : State) (a : Nat) (b : Byte) : (s.setByte a b).openRows = s.openRows := rfl
@[simp] theorem setByte_pins (s : State) (a : Nat) (b : Byte) : (s.setByte a b).pins = s.pins := rfl
@[simp] theorem setByte_nbScrubbed (s : State) (a : Nat) (b : Byte) : (s.setByte a b).nbScrubbed = s.nbScrubbed := rfl
@[simp] theorem setByte_hwScrubbed (s : State) (a : Nat) (b : Byte) : (s.setByte a b).hwScrubbed = s.hwScrubbed := rfl
@[simp] theorem setByte_hints (s : State) (a : Nat) (b : Byte) : (s.setByte a b).hints = s.hints := rfl
@[simp] theorem setByte_cmos (s : State) (a : Nat) (b : Byte) : (s.setByte a b).cmos = s.cmos := rfl
@[simp] theorem setByte_posted (s : State) (a : Nat) (b : Byte) : (s.setByte a b).posted = s.posted := rfl
@[simp] theorem setByte_ferries (s : State) (a : Nat) (b : Byte) : (s.setByte a b).ferries = s.ferries := rfl
@[simp] theorem setByte_dead (s : State) (a : Nat) (b : Byte) : (s.setByte a b).dead = s.dead := rfl
@[simp] theorem setByte_tlbs (s : State) (a : Nat) (b : Byte) : (s.setByte a b).tlbs = s.tlbs := rfl
@[simp] theorem setByte_walks (s : State) (a : Nat) (b : Byte) : (s.setByte a b).walks = s.walks := rfl
@[simp] theorem setByte_atsReqs (s : State) (a : Nat) (b : Byte) : (s.setByte a b).atsReqs = s.atsReqs := rfl
@[simp] theorem setByte_pageReqs (s : State) (a : Nat) (b : Byte) : (s.setByte a b).pageReqs = s.pageReqs := rfl
@[simp] theorem setByte_pageNext (s : State) (a : Nat) (b : Byte) : (s.setByte a b).pageNext = s.pageNext := rfl
@[simp] theorem setByte_onces (s : State) (a : Nat) (b : Byte) : (s.setByte a b).onces = s.onces := rfl
@[simp] theorem setByte_hostFails (s : State) (a : Nat) (b : Byte) : (s.setByte a b).hostFails = s.hostFails := rfl
@[simp] theorem setByte_tlbInv (s : State) (a : Nat) (b : Byte) : (s.setByte a b).tlbInv = s.tlbInv := rfl
@[simp] theorem setByte_epUnits (s : State) (a : Nat) (b : Byte) : (s.setByte a b).epUnits = s.epUnits := rfl
@[simp] theorem setByte_undone (s : State) (a : Nat) (b : Byte) : (s.setByte a b).undone = s.undone := rfl
@[simp] theorem setByte_epFlaws (s : State) (a : Nat) (b : Byte) : (s.setByte a b).epFlaws = s.epFlaws := rfl
@[simp] theorem setByte_commit (s : State) (a : Nat) (b : Byte) : (s.setByte a b).commit = s.commit := rfl
@[simp] theorem setByte_journal (s : State) (a : Nat) (b : Byte) : (s.setByte a b).journal = s.journal := rfl
@[simp] theorem setByte_replica (s : State) (a : Nat) (b : Byte) : (s.setByte a b).replica = s.replica := rfl
@[simp] theorem setByte_links (s : State) (a : Nat) (b : Byte) : (s.setByte a b).links = s.links := rfl
@[simp] theorem setByte_tide (s : State) (a : Nat) (b : Byte) : (s.setByte a b).tide = s.tide := rfl
@[simp] theorem setByte_freeMem (s : State) (a : Nat) (b : Byte) : (s.setByte a b).freeMem = s.freeMem := rfl
@[simp] theorem setByte_rerig (s : State) (a : Nat) (b : Byte) : (s.setByte a b).rerig = s.rerig := rfl
@[simp] theorem setByte_bist (s : State) (a : Nat) (b : Byte) : (s.setByte a b).bist = s.bist := rfl
@[simp] theorem setByte_job (s : State) (a : Nat) (b : Byte) : (s.setByte a b).job = s.job := rfl
@[simp] theorem setByte_sec (s : State) (a : Nat) (b : Byte) : (s.setByte a b).sec = s.sec := rfl
@[simp] theorem setByte_mgmt (s : State) (a : Nat) (b : Byte) : (s.setByte a b).mgmt = s.mgmt := rfl
@[simp] theorem setByte_power (s : State) (a : Nat) (b : Byte) : (s.setByte a b).power = s.power := rfl
@[simp] theorem setByte_out (s : State) (a : Nat) (b : Byte) : (s.setByte a b).out = s.out := rfl
@[simp] theorem setByte_fresh (s : State) (a : Nat) (b : Byte) : (s.setByte a b).fresh = s.fresh := rfl
@[simp] theorem setByte_now (s : State) (a : Nat) (b : Byte) : (s.setByte a b).now = s.now := rfl
@[simp] theorem setByte_pending (s : State) (a : Nat) (b : Byte) : (s.setByte a b).pending = s.pending := rfl

@[simp] theorem setLinePoison_regs (s : State) (l : Nat) (p : Bool) : (s.setLinePoison l p).regs = s.regs := rfl
@[simp] theorem setLinePoison_tiles (s : State) (l : Nat) (p : Bool) : (s.setLinePoison l p).tiles = s.tiles := rfl
@[simp] theorem setLinePoison_banks (s : State) (l : Nat) (p : Bool) : (s.setLinePoison l p).banks = s.banks := rfl
@[simp] theorem setLinePoison_vregs (s : State) (l : Nat) (p : Bool) : (s.setLinePoison l p).vregs = s.vregs := rfl
@[simp] theorem setLinePoison_mregs (s : State) (l : Nat) (p : Bool) : (s.setLinePoison l p).mregs = s.mregs := rfl
@[simp] theorem setLinePoison_flash (s : State) (l : Nat) (p : Bool) : (s.setLinePoison l p).flash = s.flash := rfl
@[simp] theorem setLinePoison_sects (s : State) (l : Nat) (p : Bool) : (s.setLinePoison l p).sects = s.sects := rfl
@[simp] theorem setLinePoison_arrays (s : State) (l : Nat) (p : Bool) : (s.setLinePoison l p).arrays = s.arrays := rfl
@[simp] theorem setLinePoison_factoryLeaf (s : State) (l : Nat) (p : Bool) : (s.setLinePoison l p).factoryLeaf = s.factoryLeaf := rfl
@[simp] theorem setLinePoison_inEffect (s : State) (l : Nat) (p : Bool) : (s.setLinePoison l p).inEffect = s.inEffect := rfl
@[simp] theorem setLinePoison_wordShadow (s : State) (l : Nat) (p : Bool) : (s.setLinePoison l p).wordShadow = s.wordShadow := rfl
@[simp] theorem setLinePoison_threads (s : State) (l : Nat) (p : Bool) : (s.setLinePoison l p).threads = s.threads := rfl
@[simp] theorem setLinePoison_trees (s : State) (l : Nat) (p : Bool) : (s.setLinePoison l p).trees = s.trees := rfl
@[simp] theorem setLinePoison_collector (s : State) (l : Nat) (p : Bool) : (s.setLinePoison l p).collector = s.collector := rfl
@[simp] theorem setLinePoison_handled (s : State) (l : Nat) (p : Bool) : (s.setLinePoison l p).handled = s.handled := rfl
@[simp] theorem setLinePoison_pcie (s : State) (l : Nat) (p : Bool) : (s.setLinePoison l p).pcie = s.pcie := rfl
@[simp] theorem setLinePoison_heldEvents (s : State) (l : Nat) (p : Bool) : (s.setLinePoison l p).heldEvents = s.heldEvents := rfl
@[simp] theorem setLinePoison_barriers (s : State) (l : Nat) (p : Bool) : (s.setLinePoison l p).barriers = s.barriers := rfl
@[simp] theorem setLinePoison_turns (s : State) (l : Nat) (p : Bool) : (s.setLinePoison l p).turns = s.turns := rfl
@[simp] theorem setLinePoison_canopies (s : State) (l : Nat) (p : Bool) : (s.setLinePoison l p).canopies = s.canopies := rfl
@[simp] theorem setLinePoison_badTags (s : State) (l : Nat) (p : Bool) : (s.setLinePoison l p).badTags = s.badTags := rfl
@[simp] theorem setLinePoison_openRows (s : State) (l : Nat) (p : Bool) : (s.setLinePoison l p).openRows = s.openRows := rfl
@[simp] theorem setLinePoison_pins (s : State) (l : Nat) (p : Bool) : (s.setLinePoison l p).pins = s.pins := rfl
@[simp] theorem setLinePoison_nbScrubbed (s : State) (l : Nat) (p : Bool) : (s.setLinePoison l p).nbScrubbed = s.nbScrubbed := rfl
@[simp] theorem setLinePoison_hwScrubbed (s : State) (l : Nat) (p : Bool) : (s.setLinePoison l p).hwScrubbed = s.hwScrubbed := rfl
@[simp] theorem setLinePoison_hints (s : State) (l : Nat) (p : Bool) : (s.setLinePoison l p).hints = s.hints := rfl
@[simp] theorem setLinePoison_cmos (s : State) (l : Nat) (p : Bool) : (s.setLinePoison l p).cmos = s.cmos := rfl
@[simp] theorem setLinePoison_posted (s : State) (l : Nat) (p : Bool) : (s.setLinePoison l p).posted = s.posted := rfl
@[simp] theorem setLinePoison_ferries (s : State) (l : Nat) (p : Bool) : (s.setLinePoison l p).ferries = s.ferries := rfl
@[simp] theorem setLinePoison_dead (s : State) (l : Nat) (p : Bool) : (s.setLinePoison l p).dead = s.dead := rfl
@[simp] theorem setLinePoison_tlbs (s : State) (l : Nat) (p : Bool) : (s.setLinePoison l p).tlbs = s.tlbs := rfl
@[simp] theorem setLinePoison_walks (s : State) (l : Nat) (p : Bool) : (s.setLinePoison l p).walks = s.walks := rfl
@[simp] theorem setLinePoison_atsReqs (s : State) (l : Nat) (p : Bool) : (s.setLinePoison l p).atsReqs = s.atsReqs := rfl
@[simp] theorem setLinePoison_pageReqs (s : State) (l : Nat) (p : Bool) : (s.setLinePoison l p).pageReqs = s.pageReqs := rfl
@[simp] theorem setLinePoison_pageNext (s : State) (l : Nat) (p : Bool) : (s.setLinePoison l p).pageNext = s.pageNext := rfl
@[simp] theorem setLinePoison_onces (s : State) (l : Nat) (p : Bool) : (s.setLinePoison l p).onces = s.onces := rfl
@[simp] theorem setLinePoison_hostFails (s : State) (l : Nat) (p : Bool) : (s.setLinePoison l p).hostFails = s.hostFails := rfl
@[simp] theorem setLinePoison_tlbInv (s : State) (l : Nat) (p : Bool) : (s.setLinePoison l p).tlbInv = s.tlbInv := rfl
@[simp] theorem setLinePoison_epUnits (s : State) (l : Nat) (p : Bool) : (s.setLinePoison l p).epUnits = s.epUnits := rfl
@[simp] theorem setLinePoison_undone (s : State) (l : Nat) (p : Bool) : (s.setLinePoison l p).undone = s.undone := rfl
@[simp] theorem setLinePoison_epFlaws (s : State) (l : Nat) (p : Bool) : (s.setLinePoison l p).epFlaws = s.epFlaws := rfl
@[simp] theorem setLinePoison_commit (s : State) (l : Nat) (p : Bool) : (s.setLinePoison l p).commit = s.commit := rfl
@[simp] theorem setLinePoison_journal (s : State) (l : Nat) (p : Bool) : (s.setLinePoison l p).journal = s.journal := rfl
@[simp] theorem setLinePoison_replica (s : State) (l : Nat) (p : Bool) : (s.setLinePoison l p).replica = s.replica := rfl
@[simp] theorem setLinePoison_links (s : State) (l : Nat) (p : Bool) : (s.setLinePoison l p).links = s.links := rfl
@[simp] theorem setLinePoison_tide (s : State) (l : Nat) (p : Bool) : (s.setLinePoison l p).tide = s.tide := rfl
@[simp] theorem setLinePoison_rerig (s : State) (l : Nat) (p : Bool) : (s.setLinePoison l p).rerig = s.rerig := rfl
@[simp] theorem setLinePoison_bist (s : State) (l : Nat) (p : Bool) : (s.setLinePoison l p).bist = s.bist := rfl
@[simp] theorem setLinePoison_job (s : State) (l : Nat) (p : Bool) : (s.setLinePoison l p).job = s.job := rfl
@[simp] theorem setLinePoison_sec (s : State) (l : Nat) (p : Bool) : (s.setLinePoison l p).sec = s.sec := rfl
@[simp] theorem setLinePoison_mgmt (s : State) (l : Nat) (p : Bool) : (s.setLinePoison l p).mgmt = s.mgmt := rfl
@[simp] theorem setLinePoison_power (s : State) (l : Nat) (p : Bool) : (s.setLinePoison l p).power = s.power := rfl
@[simp] theorem setLinePoison_out (s : State) (l : Nat) (p : Bool) : (s.setLinePoison l p).out = s.out := rfl
@[simp] theorem setLinePoison_fresh (s : State) (l : Nat) (p : Bool) : (s.setLinePoison l p).fresh = s.fresh := rfl
@[simp] theorem setLinePoison_now (s : State) (l : Nat) (p : Bool) : (s.setLinePoison l p).now = s.now := rfl
@[simp] theorem setLinePoison_pending (s : State) (l : Nat) (p : Bool) : (s.setLinePoison l p).pending = s.pending := rfl

@[simp] theorem setThread_regs (s : State) (k : Nat) (x : ThreadSt) : (s.setThread k x).regs = s.regs := rfl
@[simp] theorem setThread_mem (s : State) (k : Nat) (x : ThreadSt) : (s.setThread k x).mem = s.mem := rfl
@[simp] theorem setThread_poison (s : State) (k : Nat) (x : ThreadSt) : (s.setThread k x).poison = s.poison := rfl
@[simp] theorem setThread_tiles (s : State) (k : Nat) (x : ThreadSt) : (s.setThread k x).tiles = s.tiles := rfl
@[simp] theorem setThread_banks (s : State) (k : Nat) (x : ThreadSt) : (s.setThread k x).banks = s.banks := rfl
@[simp] theorem setThread_vregs (s : State) (k : Nat) (x : ThreadSt) : (s.setThread k x).vregs = s.vregs := rfl
@[simp] theorem setThread_mregs (s : State) (k : Nat) (x : ThreadSt) : (s.setThread k x).mregs = s.mregs := rfl
@[simp] theorem setThread_flash (s : State) (k : Nat) (x : ThreadSt) : (s.setThread k x).flash = s.flash := rfl
@[simp] theorem setThread_sects (s : State) (k : Nat) (x : ThreadSt) : (s.setThread k x).sects = s.sects := rfl
@[simp] theorem setThread_arrays (s : State) (k : Nat) (x : ThreadSt) : (s.setThread k x).arrays = s.arrays := rfl
@[simp] theorem setThread_factoryLeaf (s : State) (k : Nat) (x : ThreadSt) : (s.setThread k x).factoryLeaf = s.factoryLeaf := rfl
@[simp] theorem setThread_inEffect (s : State) (k : Nat) (x : ThreadSt) : (s.setThread k x).inEffect = s.inEffect := rfl
@[simp] theorem setThread_wordShadow (s : State) (k : Nat) (x : ThreadSt) : (s.setThread k x).wordShadow = s.wordShadow := rfl
@[simp] theorem setThread_trees (s : State) (k : Nat) (x : ThreadSt) : (s.setThread k x).trees = s.trees := rfl
@[simp] theorem setThread_collector (s : State) (k : Nat) (x : ThreadSt) : (s.setThread k x).collector = s.collector := rfl
@[simp] theorem setThread_handled (s : State) (k : Nat) (x : ThreadSt) : (s.setThread k x).handled = s.handled := rfl
@[simp] theorem setThread_pcie (s : State) (k : Nat) (x : ThreadSt) : (s.setThread k x).pcie = s.pcie := rfl
@[simp] theorem setThread_heldEvents (s : State) (k : Nat) (x : ThreadSt) : (s.setThread k x).heldEvents = s.heldEvents := rfl
@[simp] theorem setThread_barriers (s : State) (k : Nat) (x : ThreadSt) : (s.setThread k x).barriers = s.barriers := rfl
@[simp] theorem setThread_turns (s : State) (k : Nat) (x : ThreadSt) : (s.setThread k x).turns = s.turns := rfl
@[simp] theorem setThread_canopies (s : State) (k : Nat) (x : ThreadSt) : (s.setThread k x).canopies = s.canopies := rfl
@[simp] theorem setThread_flaws (s : State) (k : Nat) (x : ThreadSt) : (s.setThread k x).flaws = s.flaws := rfl
@[simp] theorem setThread_badTags (s : State) (k : Nat) (x : ThreadSt) : (s.setThread k x).badTags = s.badTags := rfl
@[simp] theorem setThread_openRows (s : State) (k : Nat) (x : ThreadSt) : (s.setThread k x).openRows = s.openRows := rfl
@[simp] theorem setThread_pins (s : State) (k : Nat) (x : ThreadSt) : (s.setThread k x).pins = s.pins := rfl
@[simp] theorem setThread_nbScrubbed (s : State) (k : Nat) (x : ThreadSt) : (s.setThread k x).nbScrubbed = s.nbScrubbed := rfl
@[simp] theorem setThread_hwScrubbed (s : State) (k : Nat) (x : ThreadSt) : (s.setThread k x).hwScrubbed = s.hwScrubbed := rfl
@[simp] theorem setThread_hints (s : State) (k : Nat) (x : ThreadSt) : (s.setThread k x).hints = s.hints := rfl
@[simp] theorem setThread_cmos (s : State) (k : Nat) (x : ThreadSt) : (s.setThread k x).cmos = s.cmos := rfl
@[simp] theorem setThread_posted (s : State) (k : Nat) (x : ThreadSt) : (s.setThread k x).posted = s.posted := rfl
@[simp] theorem setThread_ferries (s : State) (k : Nat) (x : ThreadSt) : (s.setThread k x).ferries = s.ferries := rfl
@[simp] theorem setThread_dead (s : State) (k : Nat) (x : ThreadSt) : (s.setThread k x).dead = s.dead := rfl
@[simp] theorem setThread_tlbs (s : State) (k : Nat) (x : ThreadSt) : (s.setThread k x).tlbs = s.tlbs := rfl
@[simp] theorem setThread_walks (s : State) (k : Nat) (x : ThreadSt) : (s.setThread k x).walks = s.walks := rfl
@[simp] theorem setThread_atsReqs (s : State) (k : Nat) (x : ThreadSt) : (s.setThread k x).atsReqs = s.atsReqs := rfl
@[simp] theorem setThread_pageReqs (s : State) (k : Nat) (x : ThreadSt) : (s.setThread k x).pageReqs = s.pageReqs := rfl
@[simp] theorem setThread_pageNext (s : State) (k : Nat) (x : ThreadSt) : (s.setThread k x).pageNext = s.pageNext := rfl
@[simp] theorem setThread_onces (s : State) (k : Nat) (x : ThreadSt) : (s.setThread k x).onces = s.onces := rfl
@[simp] theorem setThread_hostFails (s : State) (k : Nat) (x : ThreadSt) : (s.setThread k x).hostFails = s.hostFails := rfl
@[simp] theorem setThread_tlbInv (s : State) (k : Nat) (x : ThreadSt) : (s.setThread k x).tlbInv = s.tlbInv := rfl
@[simp] theorem setThread_epUnits (s : State) (k : Nat) (x : ThreadSt) : (s.setThread k x).epUnits = s.epUnits := rfl
@[simp] theorem setThread_undone (s : State) (k : Nat) (x : ThreadSt) : (s.setThread k x).undone = s.undone := rfl
@[simp] theorem setThread_epFlaws (s : State) (k : Nat) (x : ThreadSt) : (s.setThread k x).epFlaws = s.epFlaws := rfl
@[simp] theorem setThread_commit (s : State) (k : Nat) (x : ThreadSt) : (s.setThread k x).commit = s.commit := rfl
@[simp] theorem setThread_journal (s : State) (k : Nat) (x : ThreadSt) : (s.setThread k x).journal = s.journal := rfl
@[simp] theorem setThread_replica (s : State) (k : Nat) (x : ThreadSt) : (s.setThread k x).replica = s.replica := rfl
@[simp] theorem setThread_links (s : State) (k : Nat) (x : ThreadSt) : (s.setThread k x).links = s.links := rfl
@[simp] theorem setThread_tide (s : State) (k : Nat) (x : ThreadSt) : (s.setThread k x).tide = s.tide := rfl
@[simp] theorem setThread_freeMem (s : State) (k : Nat) (x : ThreadSt) : (s.setThread k x).freeMem = s.freeMem := rfl
@[simp] theorem setThread_rerig (s : State) (k : Nat) (x : ThreadSt) : (s.setThread k x).rerig = s.rerig := rfl
@[simp] theorem setThread_bist (s : State) (k : Nat) (x : ThreadSt) : (s.setThread k x).bist = s.bist := rfl
@[simp] theorem setThread_job (s : State) (k : Nat) (x : ThreadSt) : (s.setThread k x).job = s.job := rfl
@[simp] theorem setThread_sec (s : State) (k : Nat) (x : ThreadSt) : (s.setThread k x).sec = s.sec := rfl
@[simp] theorem setThread_mgmt (s : State) (k : Nat) (x : ThreadSt) : (s.setThread k x).mgmt = s.mgmt := rfl
@[simp] theorem setThread_power (s : State) (k : Nat) (x : ThreadSt) : (s.setThread k x).power = s.power := rfl
@[simp] theorem setThread_out (s : State) (k : Nat) (x : ThreadSt) : (s.setThread k x).out = s.out := rfl
@[simp] theorem setThread_fresh (s : State) (k : Nat) (x : ThreadSt) : (s.setThread k x).fresh = s.fresh := rfl
@[simp] theorem setThread_now (s : State) (k : Nat) (x : ThreadSt) : (s.setThread k x).now = s.now := rfl
@[simp] theorem setThread_pending (s : State) (k : Nat) (x : ThreadSt) : (s.setThread k x).pending = s.pending := rfl

@[simp] theorem setTree_regs (s : State) (k : Nat) (x : TreeSt) : (s.setTree k x).regs = s.regs := rfl
@[simp] theorem setTree_mem (s : State) (k : Nat) (x : TreeSt) : (s.setTree k x).mem = s.mem := rfl
@[simp] theorem setTree_poison (s : State) (k : Nat) (x : TreeSt) : (s.setTree k x).poison = s.poison := rfl
@[simp] theorem setTree_tiles (s : State) (k : Nat) (x : TreeSt) : (s.setTree k x).tiles = s.tiles := rfl
@[simp] theorem setTree_banks (s : State) (k : Nat) (x : TreeSt) : (s.setTree k x).banks = s.banks := rfl
@[simp] theorem setTree_vregs (s : State) (k : Nat) (x : TreeSt) : (s.setTree k x).vregs = s.vregs := rfl
@[simp] theorem setTree_mregs (s : State) (k : Nat) (x : TreeSt) : (s.setTree k x).mregs = s.mregs := rfl
@[simp] theorem setTree_flash (s : State) (k : Nat) (x : TreeSt) : (s.setTree k x).flash = s.flash := rfl
@[simp] theorem setTree_sects (s : State) (k : Nat) (x : TreeSt) : (s.setTree k x).sects = s.sects := rfl
@[simp] theorem setTree_arrays (s : State) (k : Nat) (x : TreeSt) : (s.setTree k x).arrays = s.arrays := rfl
@[simp] theorem setTree_factoryLeaf (s : State) (k : Nat) (x : TreeSt) : (s.setTree k x).factoryLeaf = s.factoryLeaf := rfl
@[simp] theorem setTree_inEffect (s : State) (k : Nat) (x : TreeSt) : (s.setTree k x).inEffect = s.inEffect := rfl
@[simp] theorem setTree_wordShadow (s : State) (k : Nat) (x : TreeSt) : (s.setTree k x).wordShadow = s.wordShadow := rfl
@[simp] theorem setTree_threads (s : State) (k : Nat) (x : TreeSt) : (s.setTree k x).threads = s.threads := rfl
@[simp] theorem setTree_collector (s : State) (k : Nat) (x : TreeSt) : (s.setTree k x).collector = s.collector := rfl
@[simp] theorem setTree_handled (s : State) (k : Nat) (x : TreeSt) : (s.setTree k x).handled = s.handled := rfl
@[simp] theorem setTree_pcie (s : State) (k : Nat) (x : TreeSt) : (s.setTree k x).pcie = s.pcie := rfl
@[simp] theorem setTree_heldEvents (s : State) (k : Nat) (x : TreeSt) : (s.setTree k x).heldEvents = s.heldEvents := rfl
@[simp] theorem setTree_barriers (s : State) (k : Nat) (x : TreeSt) : (s.setTree k x).barriers = s.barriers := rfl
@[simp] theorem setTree_turns (s : State) (k : Nat) (x : TreeSt) : (s.setTree k x).turns = s.turns := rfl
@[simp] theorem setTree_canopies (s : State) (k : Nat) (x : TreeSt) : (s.setTree k x).canopies = s.canopies := rfl
@[simp] theorem setTree_flaws (s : State) (k : Nat) (x : TreeSt) : (s.setTree k x).flaws = s.flaws := rfl
@[simp] theorem setTree_badTags (s : State) (k : Nat) (x : TreeSt) : (s.setTree k x).badTags = s.badTags := rfl
@[simp] theorem setTree_openRows (s : State) (k : Nat) (x : TreeSt) : (s.setTree k x).openRows = s.openRows := rfl
@[simp] theorem setTree_pins (s : State) (k : Nat) (x : TreeSt) : (s.setTree k x).pins = s.pins := rfl
@[simp] theorem setTree_nbScrubbed (s : State) (k : Nat) (x : TreeSt) : (s.setTree k x).nbScrubbed = s.nbScrubbed := rfl
@[simp] theorem setTree_hwScrubbed (s : State) (k : Nat) (x : TreeSt) : (s.setTree k x).hwScrubbed = s.hwScrubbed := rfl
@[simp] theorem setTree_hints (s : State) (k : Nat) (x : TreeSt) : (s.setTree k x).hints = s.hints := rfl
@[simp] theorem setTree_cmos (s : State) (k : Nat) (x : TreeSt) : (s.setTree k x).cmos = s.cmos := rfl
@[simp] theorem setTree_posted (s : State) (k : Nat) (x : TreeSt) : (s.setTree k x).posted = s.posted := rfl
@[simp] theorem setTree_ferries (s : State) (k : Nat) (x : TreeSt) : (s.setTree k x).ferries = s.ferries := rfl
@[simp] theorem setTree_dead (s : State) (k : Nat) (x : TreeSt) : (s.setTree k x).dead = s.dead := rfl
@[simp] theorem setTree_tlbs (s : State) (k : Nat) (x : TreeSt) : (s.setTree k x).tlbs = s.tlbs := rfl
@[simp] theorem setTree_walks (s : State) (k : Nat) (x : TreeSt) : (s.setTree k x).walks = s.walks := rfl
@[simp] theorem setTree_atsReqs (s : State) (k : Nat) (x : TreeSt) : (s.setTree k x).atsReqs = s.atsReqs := rfl
@[simp] theorem setTree_pageReqs (s : State) (k : Nat) (x : TreeSt) : (s.setTree k x).pageReqs = s.pageReqs := rfl
@[simp] theorem setTree_pageNext (s : State) (k : Nat) (x : TreeSt) : (s.setTree k x).pageNext = s.pageNext := rfl
@[simp] theorem setTree_onces (s : State) (k : Nat) (x : TreeSt) : (s.setTree k x).onces = s.onces := rfl
@[simp] theorem setTree_hostFails (s : State) (k : Nat) (x : TreeSt) : (s.setTree k x).hostFails = s.hostFails := rfl
@[simp] theorem setTree_tlbInv (s : State) (k : Nat) (x : TreeSt) : (s.setTree k x).tlbInv = s.tlbInv := rfl
@[simp] theorem setTree_epUnits (s : State) (k : Nat) (x : TreeSt) : (s.setTree k x).epUnits = s.epUnits := rfl
@[simp] theorem setTree_undone (s : State) (k : Nat) (x : TreeSt) : (s.setTree k x).undone = s.undone := rfl
@[simp] theorem setTree_epFlaws (s : State) (k : Nat) (x : TreeSt) : (s.setTree k x).epFlaws = s.epFlaws := rfl
@[simp] theorem setTree_commit (s : State) (k : Nat) (x : TreeSt) : (s.setTree k x).commit = s.commit := rfl
@[simp] theorem setTree_journal (s : State) (k : Nat) (x : TreeSt) : (s.setTree k x).journal = s.journal := rfl
@[simp] theorem setTree_replica (s : State) (k : Nat) (x : TreeSt) : (s.setTree k x).replica = s.replica := rfl
@[simp] theorem setTree_links (s : State) (k : Nat) (x : TreeSt) : (s.setTree k x).links = s.links := rfl
@[simp] theorem setTree_tide (s : State) (k : Nat) (x : TreeSt) : (s.setTree k x).tide = s.tide := rfl
@[simp] theorem setTree_freeMem (s : State) (k : Nat) (x : TreeSt) : (s.setTree k x).freeMem = s.freeMem := rfl
@[simp] theorem setTree_rerig (s : State) (k : Nat) (x : TreeSt) : (s.setTree k x).rerig = s.rerig := rfl
@[simp] theorem setTree_bist (s : State) (k : Nat) (x : TreeSt) : (s.setTree k x).bist = s.bist := rfl
@[simp] theorem setTree_job (s : State) (k : Nat) (x : TreeSt) : (s.setTree k x).job = s.job := rfl
@[simp] theorem setTree_sec (s : State) (k : Nat) (x : TreeSt) : (s.setTree k x).sec = s.sec := rfl
@[simp] theorem setTree_mgmt (s : State) (k : Nat) (x : TreeSt) : (s.setTree k x).mgmt = s.mgmt := rfl
@[simp] theorem setTree_power (s : State) (k : Nat) (x : TreeSt) : (s.setTree k x).power = s.power := rfl
@[simp] theorem setTree_out (s : State) (k : Nat) (x : TreeSt) : (s.setTree k x).out = s.out := rfl
@[simp] theorem setTree_fresh (s : State) (k : Nat) (x : TreeSt) : (s.setTree k x).fresh = s.fresh := rfl
@[simp] theorem setTree_now (s : State) (k : Nat) (x : TreeSt) : (s.setTree k x).now = s.now := rfl
@[simp] theorem setTree_pending (s : State) (k : Nat) (x : TreeSt) : (s.setTree k x).pending = s.pending := rfl

@[simp] theorem setCanopy_regs (s : State) (k : Nat) (x : CanopySt) : (s.setCanopy k x).regs = s.regs := rfl
@[simp] theorem setCanopy_mem (s : State) (k : Nat) (x : CanopySt) : (s.setCanopy k x).mem = s.mem := rfl
@[simp] theorem setCanopy_poison (s : State) (k : Nat) (x : CanopySt) : (s.setCanopy k x).poison = s.poison := rfl
@[simp] theorem setCanopy_tiles (s : State) (k : Nat) (x : CanopySt) : (s.setCanopy k x).tiles = s.tiles := rfl
@[simp] theorem setCanopy_banks (s : State) (k : Nat) (x : CanopySt) : (s.setCanopy k x).banks = s.banks := rfl
@[simp] theorem setCanopy_vregs (s : State) (k : Nat) (x : CanopySt) : (s.setCanopy k x).vregs = s.vregs := rfl
@[simp] theorem setCanopy_mregs (s : State) (k : Nat) (x : CanopySt) : (s.setCanopy k x).mregs = s.mregs := rfl
@[simp] theorem setCanopy_flash (s : State) (k : Nat) (x : CanopySt) : (s.setCanopy k x).flash = s.flash := rfl
@[simp] theorem setCanopy_sects (s : State) (k : Nat) (x : CanopySt) : (s.setCanopy k x).sects = s.sects := rfl
@[simp] theorem setCanopy_arrays (s : State) (k : Nat) (x : CanopySt) : (s.setCanopy k x).arrays = s.arrays := rfl
@[simp] theorem setCanopy_factoryLeaf (s : State) (k : Nat) (x : CanopySt) : (s.setCanopy k x).factoryLeaf = s.factoryLeaf := rfl
@[simp] theorem setCanopy_inEffect (s : State) (k : Nat) (x : CanopySt) : (s.setCanopy k x).inEffect = s.inEffect := rfl
@[simp] theorem setCanopy_wordShadow (s : State) (k : Nat) (x : CanopySt) : (s.setCanopy k x).wordShadow = s.wordShadow := rfl
@[simp] theorem setCanopy_threads (s : State) (k : Nat) (x : CanopySt) : (s.setCanopy k x).threads = s.threads := rfl
@[simp] theorem setCanopy_trees (s : State) (k : Nat) (x : CanopySt) : (s.setCanopy k x).trees = s.trees := rfl
@[simp] theorem setCanopy_collector (s : State) (k : Nat) (x : CanopySt) : (s.setCanopy k x).collector = s.collector := rfl
@[simp] theorem setCanopy_handled (s : State) (k : Nat) (x : CanopySt) : (s.setCanopy k x).handled = s.handled := rfl
@[simp] theorem setCanopy_pcie (s : State) (k : Nat) (x : CanopySt) : (s.setCanopy k x).pcie = s.pcie := rfl
@[simp] theorem setCanopy_heldEvents (s : State) (k : Nat) (x : CanopySt) : (s.setCanopy k x).heldEvents = s.heldEvents := rfl
@[simp] theorem setCanopy_barriers (s : State) (k : Nat) (x : CanopySt) : (s.setCanopy k x).barriers = s.barriers := rfl
@[simp] theorem setCanopy_turns (s : State) (k : Nat) (x : CanopySt) : (s.setCanopy k x).turns = s.turns := rfl
@[simp] theorem setCanopy_flaws (s : State) (k : Nat) (x : CanopySt) : (s.setCanopy k x).flaws = s.flaws := rfl
@[simp] theorem setCanopy_badTags (s : State) (k : Nat) (x : CanopySt) : (s.setCanopy k x).badTags = s.badTags := rfl
@[simp] theorem setCanopy_openRows (s : State) (k : Nat) (x : CanopySt) : (s.setCanopy k x).openRows = s.openRows := rfl
@[simp] theorem setCanopy_pins (s : State) (k : Nat) (x : CanopySt) : (s.setCanopy k x).pins = s.pins := rfl
@[simp] theorem setCanopy_nbScrubbed (s : State) (k : Nat) (x : CanopySt) : (s.setCanopy k x).nbScrubbed = s.nbScrubbed := rfl
@[simp] theorem setCanopy_hwScrubbed (s : State) (k : Nat) (x : CanopySt) : (s.setCanopy k x).hwScrubbed = s.hwScrubbed := rfl
@[simp] theorem setCanopy_hints (s : State) (k : Nat) (x : CanopySt) : (s.setCanopy k x).hints = s.hints := rfl
@[simp] theorem setCanopy_cmos (s : State) (k : Nat) (x : CanopySt) : (s.setCanopy k x).cmos = s.cmos := rfl
@[simp] theorem setCanopy_posted (s : State) (k : Nat) (x : CanopySt) : (s.setCanopy k x).posted = s.posted := rfl
@[simp] theorem setCanopy_ferries (s : State) (k : Nat) (x : CanopySt) : (s.setCanopy k x).ferries = s.ferries := rfl
@[simp] theorem setCanopy_dead (s : State) (k : Nat) (x : CanopySt) : (s.setCanopy k x).dead = s.dead := rfl
@[simp] theorem setCanopy_tlbs (s : State) (k : Nat) (x : CanopySt) : (s.setCanopy k x).tlbs = s.tlbs := rfl
@[simp] theorem setCanopy_walks (s : State) (k : Nat) (x : CanopySt) : (s.setCanopy k x).walks = s.walks := rfl
@[simp] theorem setCanopy_atsReqs (s : State) (k : Nat) (x : CanopySt) : (s.setCanopy k x).atsReqs = s.atsReqs := rfl
@[simp] theorem setCanopy_pageReqs (s : State) (k : Nat) (x : CanopySt) : (s.setCanopy k x).pageReqs = s.pageReqs := rfl
@[simp] theorem setCanopy_pageNext (s : State) (k : Nat) (x : CanopySt) : (s.setCanopy k x).pageNext = s.pageNext := rfl
@[simp] theorem setCanopy_onces (s : State) (k : Nat) (x : CanopySt) : (s.setCanopy k x).onces = s.onces := rfl
@[simp] theorem setCanopy_hostFails (s : State) (k : Nat) (x : CanopySt) : (s.setCanopy k x).hostFails = s.hostFails := rfl
@[simp] theorem setCanopy_tlbInv (s : State) (k : Nat) (x : CanopySt) : (s.setCanopy k x).tlbInv = s.tlbInv := rfl
@[simp] theorem setCanopy_epUnits (s : State) (k : Nat) (x : CanopySt) : (s.setCanopy k x).epUnits = s.epUnits := rfl
@[simp] theorem setCanopy_undone (s : State) (k : Nat) (x : CanopySt) : (s.setCanopy k x).undone = s.undone := rfl
@[simp] theorem setCanopy_epFlaws (s : State) (k : Nat) (x : CanopySt) : (s.setCanopy k x).epFlaws = s.epFlaws := rfl
@[simp] theorem setCanopy_commit (s : State) (k : Nat) (x : CanopySt) : (s.setCanopy k x).commit = s.commit := rfl
@[simp] theorem setCanopy_journal (s : State) (k : Nat) (x : CanopySt) : (s.setCanopy k x).journal = s.journal := rfl
@[simp] theorem setCanopy_replica (s : State) (k : Nat) (x : CanopySt) : (s.setCanopy k x).replica = s.replica := rfl
@[simp] theorem setCanopy_links (s : State) (k : Nat) (x : CanopySt) : (s.setCanopy k x).links = s.links := rfl
@[simp] theorem setCanopy_tide (s : State) (k : Nat) (x : CanopySt) : (s.setCanopy k x).tide = s.tide := rfl
@[simp] theorem setCanopy_freeMem (s : State) (k : Nat) (x : CanopySt) : (s.setCanopy k x).freeMem = s.freeMem := rfl
@[simp] theorem setCanopy_rerig (s : State) (k : Nat) (x : CanopySt) : (s.setCanopy k x).rerig = s.rerig := rfl
@[simp] theorem setCanopy_bist (s : State) (k : Nat) (x : CanopySt) : (s.setCanopy k x).bist = s.bist := rfl
@[simp] theorem setCanopy_job (s : State) (k : Nat) (x : CanopySt) : (s.setCanopy k x).job = s.job := rfl
@[simp] theorem setCanopy_sec (s : State) (k : Nat) (x : CanopySt) : (s.setCanopy k x).sec = s.sec := rfl
@[simp] theorem setCanopy_mgmt (s : State) (k : Nat) (x : CanopySt) : (s.setCanopy k x).mgmt = s.mgmt := rfl
@[simp] theorem setCanopy_power (s : State) (k : Nat) (x : CanopySt) : (s.setCanopy k x).power = s.power := rfl
@[simp] theorem setCanopy_out (s : State) (k : Nat) (x : CanopySt) : (s.setCanopy k x).out = s.out := rfl
@[simp] theorem setCanopy_fresh (s : State) (k : Nat) (x : CanopySt) : (s.setCanopy k x).fresh = s.fresh := rfl
@[simp] theorem setCanopy_now (s : State) (k : Nat) (x : CanopySt) : (s.setCanopy k x).now = s.now := rfl
@[simp] theorem setCanopy_pending (s : State) (k : Nat) (x : CanopySt) : (s.setCanopy k x).pending = s.pending := rfl

@[simp] theorem setFlaw_regs (s : State) (l : Nat) (x : LineFlaw) : (s.setFlaw l x).regs = s.regs := rfl
@[simp] theorem setFlaw_mem (s : State) (l : Nat) (x : LineFlaw) : (s.setFlaw l x).mem = s.mem := rfl
@[simp] theorem setFlaw_poison (s : State) (l : Nat) (x : LineFlaw) : (s.setFlaw l x).poison = s.poison := rfl
@[simp] theorem setFlaw_tiles (s : State) (l : Nat) (x : LineFlaw) : (s.setFlaw l x).tiles = s.tiles := rfl
@[simp] theorem setFlaw_banks (s : State) (l : Nat) (x : LineFlaw) : (s.setFlaw l x).banks = s.banks := rfl
@[simp] theorem setFlaw_vregs (s : State) (l : Nat) (x : LineFlaw) : (s.setFlaw l x).vregs = s.vregs := rfl
@[simp] theorem setFlaw_mregs (s : State) (l : Nat) (x : LineFlaw) : (s.setFlaw l x).mregs = s.mregs := rfl
@[simp] theorem setFlaw_flash (s : State) (l : Nat) (x : LineFlaw) : (s.setFlaw l x).flash = s.flash := rfl
@[simp] theorem setFlaw_sects (s : State) (l : Nat) (x : LineFlaw) : (s.setFlaw l x).sects = s.sects := rfl
@[simp] theorem setFlaw_arrays (s : State) (l : Nat) (x : LineFlaw) : (s.setFlaw l x).arrays = s.arrays := rfl
@[simp] theorem setFlaw_factoryLeaf (s : State) (l : Nat) (x : LineFlaw) : (s.setFlaw l x).factoryLeaf = s.factoryLeaf := rfl
@[simp] theorem setFlaw_inEffect (s : State) (l : Nat) (x : LineFlaw) : (s.setFlaw l x).inEffect = s.inEffect := rfl
@[simp] theorem setFlaw_wordShadow (s : State) (l : Nat) (x : LineFlaw) : (s.setFlaw l x).wordShadow = s.wordShadow := rfl
@[simp] theorem setFlaw_threads (s : State) (l : Nat) (x : LineFlaw) : (s.setFlaw l x).threads = s.threads := rfl
@[simp] theorem setFlaw_trees (s : State) (l : Nat) (x : LineFlaw) : (s.setFlaw l x).trees = s.trees := rfl
@[simp] theorem setFlaw_collector (s : State) (l : Nat) (x : LineFlaw) : (s.setFlaw l x).collector = s.collector := rfl
@[simp] theorem setFlaw_handled (s : State) (l : Nat) (x : LineFlaw) : (s.setFlaw l x).handled = s.handled := rfl
@[simp] theorem setFlaw_pcie (s : State) (l : Nat) (x : LineFlaw) : (s.setFlaw l x).pcie = s.pcie := rfl
@[simp] theorem setFlaw_heldEvents (s : State) (l : Nat) (x : LineFlaw) : (s.setFlaw l x).heldEvents = s.heldEvents := rfl
@[simp] theorem setFlaw_barriers (s : State) (l : Nat) (x : LineFlaw) : (s.setFlaw l x).barriers = s.barriers := rfl
@[simp] theorem setFlaw_turns (s : State) (l : Nat) (x : LineFlaw) : (s.setFlaw l x).turns = s.turns := rfl
@[simp] theorem setFlaw_canopies (s : State) (l : Nat) (x : LineFlaw) : (s.setFlaw l x).canopies = s.canopies := rfl
@[simp] theorem setFlaw_badTags (s : State) (l : Nat) (x : LineFlaw) : (s.setFlaw l x).badTags = s.badTags := rfl
@[simp] theorem setFlaw_openRows (s : State) (l : Nat) (x : LineFlaw) : (s.setFlaw l x).openRows = s.openRows := rfl
@[simp] theorem setFlaw_pins (s : State) (l : Nat) (x : LineFlaw) : (s.setFlaw l x).pins = s.pins := rfl
@[simp] theorem setFlaw_nbScrubbed (s : State) (l : Nat) (x : LineFlaw) : (s.setFlaw l x).nbScrubbed = s.nbScrubbed := rfl
@[simp] theorem setFlaw_hwScrubbed (s : State) (l : Nat) (x : LineFlaw) : (s.setFlaw l x).hwScrubbed = s.hwScrubbed := rfl
@[simp] theorem setFlaw_hints (s : State) (l : Nat) (x : LineFlaw) : (s.setFlaw l x).hints = s.hints := rfl
@[simp] theorem setFlaw_cmos (s : State) (l : Nat) (x : LineFlaw) : (s.setFlaw l x).cmos = s.cmos := rfl
@[simp] theorem setFlaw_posted (s : State) (l : Nat) (x : LineFlaw) : (s.setFlaw l x).posted = s.posted := rfl
@[simp] theorem setFlaw_ferries (s : State) (l : Nat) (x : LineFlaw) : (s.setFlaw l x).ferries = s.ferries := rfl
@[simp] theorem setFlaw_dead (s : State) (l : Nat) (x : LineFlaw) : (s.setFlaw l x).dead = s.dead := rfl
@[simp] theorem setFlaw_tlbs (s : State) (l : Nat) (x : LineFlaw) : (s.setFlaw l x).tlbs = s.tlbs := rfl
@[simp] theorem setFlaw_walks (s : State) (l : Nat) (x : LineFlaw) : (s.setFlaw l x).walks = s.walks := rfl
@[simp] theorem setFlaw_atsReqs (s : State) (l : Nat) (x : LineFlaw) : (s.setFlaw l x).atsReqs = s.atsReqs := rfl
@[simp] theorem setFlaw_pageReqs (s : State) (l : Nat) (x : LineFlaw) : (s.setFlaw l x).pageReqs = s.pageReqs := rfl
@[simp] theorem setFlaw_pageNext (s : State) (l : Nat) (x : LineFlaw) : (s.setFlaw l x).pageNext = s.pageNext := rfl
@[simp] theorem setFlaw_onces (s : State) (l : Nat) (x : LineFlaw) : (s.setFlaw l x).onces = s.onces := rfl
@[simp] theorem setFlaw_hostFails (s : State) (l : Nat) (x : LineFlaw) : (s.setFlaw l x).hostFails = s.hostFails := rfl
@[simp] theorem setFlaw_tlbInv (s : State) (l : Nat) (x : LineFlaw) : (s.setFlaw l x).tlbInv = s.tlbInv := rfl
@[simp] theorem setFlaw_epUnits (s : State) (l : Nat) (x : LineFlaw) : (s.setFlaw l x).epUnits = s.epUnits := rfl
@[simp] theorem setFlaw_undone (s : State) (l : Nat) (x : LineFlaw) : (s.setFlaw l x).undone = s.undone := rfl
@[simp] theorem setFlaw_epFlaws (s : State) (l : Nat) (x : LineFlaw) : (s.setFlaw l x).epFlaws = s.epFlaws := rfl
@[simp] theorem setFlaw_commit (s : State) (l : Nat) (x : LineFlaw) : (s.setFlaw l x).commit = s.commit := rfl
@[simp] theorem setFlaw_journal (s : State) (l : Nat) (x : LineFlaw) : (s.setFlaw l x).journal = s.journal := rfl
@[simp] theorem setFlaw_replica (s : State) (l : Nat) (x : LineFlaw) : (s.setFlaw l x).replica = s.replica := rfl
@[simp] theorem setFlaw_links (s : State) (l : Nat) (x : LineFlaw) : (s.setFlaw l x).links = s.links := rfl
@[simp] theorem setFlaw_tide (s : State) (l : Nat) (x : LineFlaw) : (s.setFlaw l x).tide = s.tide := rfl
@[simp] theorem setFlaw_freeMem (s : State) (l : Nat) (x : LineFlaw) : (s.setFlaw l x).freeMem = s.freeMem := rfl
@[simp] theorem setFlaw_rerig (s : State) (l : Nat) (x : LineFlaw) : (s.setFlaw l x).rerig = s.rerig := rfl
@[simp] theorem setFlaw_bist (s : State) (l : Nat) (x : LineFlaw) : (s.setFlaw l x).bist = s.bist := rfl
@[simp] theorem setFlaw_job (s : State) (l : Nat) (x : LineFlaw) : (s.setFlaw l x).job = s.job := rfl
@[simp] theorem setFlaw_sec (s : State) (l : Nat) (x : LineFlaw) : (s.setFlaw l x).sec = s.sec := rfl
@[simp] theorem setFlaw_mgmt (s : State) (l : Nat) (x : LineFlaw) : (s.setFlaw l x).mgmt = s.mgmt := rfl
@[simp] theorem setFlaw_power (s : State) (l : Nat) (x : LineFlaw) : (s.setFlaw l x).power = s.power := rfl
@[simp] theorem setFlaw_out (s : State) (l : Nat) (x : LineFlaw) : (s.setFlaw l x).out = s.out := rfl
@[simp] theorem setFlaw_fresh (s : State) (l : Nat) (x : LineFlaw) : (s.setFlaw l x).fresh = s.fresh := rfl
@[simp] theorem setFlaw_now (s : State) (l : Nat) (x : LineFlaw) : (s.setFlaw l x).now = s.now := rfl
@[simp] theorem setFlaw_pending (s : State) (l : Nat) (x : LineFlaw) : (s.setFlaw l x).pending = s.pending := rfl

@[simp] theorem setFerry_regs (s : State) (f : Nat) (x : Option Manifest) : (s.setFerry f x).regs = s.regs := rfl
@[simp] theorem setFerry_mem (s : State) (f : Nat) (x : Option Manifest) : (s.setFerry f x).mem = s.mem := rfl
@[simp] theorem setFerry_poison (s : State) (f : Nat) (x : Option Manifest) : (s.setFerry f x).poison = s.poison := rfl
@[simp] theorem setFerry_tiles (s : State) (f : Nat) (x : Option Manifest) : (s.setFerry f x).tiles = s.tiles := rfl
@[simp] theorem setFerry_banks (s : State) (f : Nat) (x : Option Manifest) : (s.setFerry f x).banks = s.banks := rfl
@[simp] theorem setFerry_vregs (s : State) (f : Nat) (x : Option Manifest) : (s.setFerry f x).vregs = s.vregs := rfl
@[simp] theorem setFerry_mregs (s : State) (f : Nat) (x : Option Manifest) : (s.setFerry f x).mregs = s.mregs := rfl
@[simp] theorem setFerry_flash (s : State) (f : Nat) (x : Option Manifest) : (s.setFerry f x).flash = s.flash := rfl
@[simp] theorem setFerry_sects (s : State) (f : Nat) (x : Option Manifest) : (s.setFerry f x).sects = s.sects := rfl
@[simp] theorem setFerry_arrays (s : State) (f : Nat) (x : Option Manifest) : (s.setFerry f x).arrays = s.arrays := rfl
@[simp] theorem setFerry_factoryLeaf (s : State) (f : Nat) (x : Option Manifest) : (s.setFerry f x).factoryLeaf = s.factoryLeaf := rfl
@[simp] theorem setFerry_inEffect (s : State) (f : Nat) (x : Option Manifest) : (s.setFerry f x).inEffect = s.inEffect := rfl
@[simp] theorem setFerry_wordShadow (s : State) (f : Nat) (x : Option Manifest) : (s.setFerry f x).wordShadow = s.wordShadow := rfl
@[simp] theorem setFerry_threads (s : State) (f : Nat) (x : Option Manifest) : (s.setFerry f x).threads = s.threads := rfl
@[simp] theorem setFerry_trees (s : State) (f : Nat) (x : Option Manifest) : (s.setFerry f x).trees = s.trees := rfl
@[simp] theorem setFerry_collector (s : State) (f : Nat) (x : Option Manifest) : (s.setFerry f x).collector = s.collector := rfl
@[simp] theorem setFerry_handled (s : State) (f : Nat) (x : Option Manifest) : (s.setFerry f x).handled = s.handled := rfl
@[simp] theorem setFerry_pcie (s : State) (f : Nat) (x : Option Manifest) : (s.setFerry f x).pcie = s.pcie := rfl
@[simp] theorem setFerry_heldEvents (s : State) (f : Nat) (x : Option Manifest) : (s.setFerry f x).heldEvents = s.heldEvents := rfl
@[simp] theorem setFerry_barriers (s : State) (f : Nat) (x : Option Manifest) : (s.setFerry f x).barriers = s.barriers := rfl
@[simp] theorem setFerry_turns (s : State) (f : Nat) (x : Option Manifest) : (s.setFerry f x).turns = s.turns := rfl
@[simp] theorem setFerry_canopies (s : State) (f : Nat) (x : Option Manifest) : (s.setFerry f x).canopies = s.canopies := rfl
@[simp] theorem setFerry_flaws (s : State) (f : Nat) (x : Option Manifest) : (s.setFerry f x).flaws = s.flaws := rfl
@[simp] theorem setFerry_badTags (s : State) (f : Nat) (x : Option Manifest) : (s.setFerry f x).badTags = s.badTags := rfl
@[simp] theorem setFerry_openRows (s : State) (f : Nat) (x : Option Manifest) : (s.setFerry f x).openRows = s.openRows := rfl
@[simp] theorem setFerry_pins (s : State) (f : Nat) (x : Option Manifest) : (s.setFerry f x).pins = s.pins := rfl
@[simp] theorem setFerry_nbScrubbed (s : State) (f : Nat) (x : Option Manifest) : (s.setFerry f x).nbScrubbed = s.nbScrubbed := rfl
@[simp] theorem setFerry_hwScrubbed (s : State) (f : Nat) (x : Option Manifest) : (s.setFerry f x).hwScrubbed = s.hwScrubbed := rfl
@[simp] theorem setFerry_hints (s : State) (f : Nat) (x : Option Manifest) : (s.setFerry f x).hints = s.hints := rfl
@[simp] theorem setFerry_cmos (s : State) (f : Nat) (x : Option Manifest) : (s.setFerry f x).cmos = s.cmos := rfl
@[simp] theorem setFerry_posted (s : State) (f : Nat) (x : Option Manifest) : (s.setFerry f x).posted = s.posted := rfl
@[simp] theorem setFerry_dead (s : State) (f : Nat) (x : Option Manifest) : (s.setFerry f x).dead = s.dead := rfl
@[simp] theorem setFerry_tlbs (s : State) (f : Nat) (x : Option Manifest) : (s.setFerry f x).tlbs = s.tlbs := rfl
@[simp] theorem setFerry_walks (s : State) (f : Nat) (x : Option Manifest) : (s.setFerry f x).walks = s.walks := rfl
@[simp] theorem setFerry_atsReqs (s : State) (f : Nat) (x : Option Manifest) : (s.setFerry f x).atsReqs = s.atsReqs := rfl
@[simp] theorem setFerry_pageReqs (s : State) (f : Nat) (x : Option Manifest) : (s.setFerry f x).pageReqs = s.pageReqs := rfl
@[simp] theorem setFerry_pageNext (s : State) (f : Nat) (x : Option Manifest) : (s.setFerry f x).pageNext = s.pageNext := rfl
@[simp] theorem setFerry_onces (s : State) (f : Nat) (x : Option Manifest) : (s.setFerry f x).onces = s.onces := rfl
@[simp] theorem setFerry_hostFails (s : State) (f : Nat) (x : Option Manifest) : (s.setFerry f x).hostFails = s.hostFails := rfl
@[simp] theorem setFerry_tlbInv (s : State) (f : Nat) (x : Option Manifest) : (s.setFerry f x).tlbInv = s.tlbInv := rfl
@[simp] theorem setFerry_epUnits (s : State) (f : Nat) (x : Option Manifest) : (s.setFerry f x).epUnits = s.epUnits := rfl
@[simp] theorem setFerry_undone (s : State) (f : Nat) (x : Option Manifest) : (s.setFerry f x).undone = s.undone := rfl
@[simp] theorem setFerry_epFlaws (s : State) (f : Nat) (x : Option Manifest) : (s.setFerry f x).epFlaws = s.epFlaws := rfl
@[simp] theorem setFerry_commit (s : State) (f : Nat) (x : Option Manifest) : (s.setFerry f x).commit = s.commit := rfl
@[simp] theorem setFerry_journal (s : State) (f : Nat) (x : Option Manifest) : (s.setFerry f x).journal = s.journal := rfl
@[simp] theorem setFerry_replica (s : State) (f : Nat) (x : Option Manifest) : (s.setFerry f x).replica = s.replica := rfl
@[simp] theorem setFerry_links (s : State) (f : Nat) (x : Option Manifest) : (s.setFerry f x).links = s.links := rfl
@[simp] theorem setFerry_tide (s : State) (f : Nat) (x : Option Manifest) : (s.setFerry f x).tide = s.tide := rfl
@[simp] theorem setFerry_freeMem (s : State) (f : Nat) (x : Option Manifest) : (s.setFerry f x).freeMem = s.freeMem := rfl
@[simp] theorem setFerry_rerig (s : State) (f : Nat) (x : Option Manifest) : (s.setFerry f x).rerig = s.rerig := rfl
@[simp] theorem setFerry_bist (s : State) (f : Nat) (x : Option Manifest) : (s.setFerry f x).bist = s.bist := rfl
@[simp] theorem setFerry_job (s : State) (f : Nat) (x : Option Manifest) : (s.setFerry f x).job = s.job := rfl
@[simp] theorem setFerry_sec (s : State) (f : Nat) (x : Option Manifest) : (s.setFerry f x).sec = s.sec := rfl
@[simp] theorem setFerry_mgmt (s : State) (f : Nat) (x : Option Manifest) : (s.setFerry f x).mgmt = s.mgmt := rfl
@[simp] theorem setFerry_power (s : State) (f : Nat) (x : Option Manifest) : (s.setFerry f x).power = s.power := rfl
@[simp] theorem setFerry_out (s : State) (f : Nat) (x : Option Manifest) : (s.setFerry f x).out = s.out := rfl
@[simp] theorem setFerry_fresh (s : State) (f : Nat) (x : Option Manifest) : (s.setFerry f x).fresh = s.fresh := rfl
@[simp] theorem setFerry_now (s : State) (f : Nat) (x : Option Manifest) : (s.setFerry f x).now = s.now := rfl
@[simp] theorem setFerry_pending (s : State) (f : Nat) (x : Option Manifest) : (s.setFerry f x).pending = s.pending := rfl

@[simp] theorem setLink_mem (s : State) (l : Nat) (x : LinkSt) : (s.setLink l x).mem = s.mem := rfl
@[simp] theorem setLink_poison (s : State) (l : Nat) (x : LinkSt) : (s.setLink l x).poison = s.poison := rfl
@[simp] theorem setLink_tiles (s : State) (l : Nat) (x : LinkSt) : (s.setLink l x).tiles = s.tiles := rfl
@[simp] theorem setLink_banks (s : State) (l : Nat) (x : LinkSt) : (s.setLink l x).banks = s.banks := rfl
@[simp] theorem setLink_vregs (s : State) (l : Nat) (x : LinkSt) : (s.setLink l x).vregs = s.vregs := rfl
@[simp] theorem setLink_mregs (s : State) (l : Nat) (x : LinkSt) : (s.setLink l x).mregs = s.mregs := rfl
@[simp] theorem setLink_flash (s : State) (l : Nat) (x : LinkSt) : (s.setLink l x).flash = s.flash := rfl
@[simp] theorem setLink_sects (s : State) (l : Nat) (x : LinkSt) : (s.setLink l x).sects = s.sects := rfl
@[simp] theorem setLink_arrays (s : State) (l : Nat) (x : LinkSt) : (s.setLink l x).arrays = s.arrays := rfl
@[simp] theorem setLink_factoryLeaf (s : State) (l : Nat) (x : LinkSt) : (s.setLink l x).factoryLeaf = s.factoryLeaf := rfl
@[simp] theorem setLink_inEffect (s : State) (l : Nat) (x : LinkSt) : (s.setLink l x).inEffect = s.inEffect := rfl
@[simp] theorem setLink_wordShadow (s : State) (l : Nat) (x : LinkSt) : (s.setLink l x).wordShadow = s.wordShadow := rfl
@[simp] theorem setLink_threads (s : State) (l : Nat) (x : LinkSt) : (s.setLink l x).threads = s.threads := rfl
@[simp] theorem setLink_trees (s : State) (l : Nat) (x : LinkSt) : (s.setLink l x).trees = s.trees := rfl
@[simp] theorem setLink_collector (s : State) (l : Nat) (x : LinkSt) : (s.setLink l x).collector = s.collector := rfl
@[simp] theorem setLink_handled (s : State) (l : Nat) (x : LinkSt) : (s.setLink l x).handled = s.handled := rfl
@[simp] theorem setLink_pcie (s : State) (l : Nat) (x : LinkSt) : (s.setLink l x).pcie = s.pcie := rfl
@[simp] theorem setLink_heldEvents (s : State) (l : Nat) (x : LinkSt) : (s.setLink l x).heldEvents = s.heldEvents := rfl
@[simp] theorem setLink_barriers (s : State) (l : Nat) (x : LinkSt) : (s.setLink l x).barriers = s.barriers := rfl
@[simp] theorem setLink_turns (s : State) (l : Nat) (x : LinkSt) : (s.setLink l x).turns = s.turns := rfl
@[simp] theorem setLink_canopies (s : State) (l : Nat) (x : LinkSt) : (s.setLink l x).canopies = s.canopies := rfl
@[simp] theorem setLink_flaws (s : State) (l : Nat) (x : LinkSt) : (s.setLink l x).flaws = s.flaws := rfl
@[simp] theorem setLink_badTags (s : State) (l : Nat) (x : LinkSt) : (s.setLink l x).badTags = s.badTags := rfl
@[simp] theorem setLink_openRows (s : State) (l : Nat) (x : LinkSt) : (s.setLink l x).openRows = s.openRows := rfl
@[simp] theorem setLink_pins (s : State) (l : Nat) (x : LinkSt) : (s.setLink l x).pins = s.pins := rfl
@[simp] theorem setLink_nbScrubbed (s : State) (l : Nat) (x : LinkSt) : (s.setLink l x).nbScrubbed = s.nbScrubbed := rfl
@[simp] theorem setLink_hwScrubbed (s : State) (l : Nat) (x : LinkSt) : (s.setLink l x).hwScrubbed = s.hwScrubbed := rfl
@[simp] theorem setLink_hints (s : State) (l : Nat) (x : LinkSt) : (s.setLink l x).hints = s.hints := rfl
@[simp] theorem setLink_cmos (s : State) (l : Nat) (x : LinkSt) : (s.setLink l x).cmos = s.cmos := rfl
@[simp] theorem setLink_posted (s : State) (l : Nat) (x : LinkSt) : (s.setLink l x).posted = s.posted := rfl
@[simp] theorem setLink_ferries (s : State) (l : Nat) (x : LinkSt) : (s.setLink l x).ferries = s.ferries := rfl
@[simp] theorem setLink_dead (s : State) (l : Nat) (x : LinkSt) : (s.setLink l x).dead = s.dead := rfl
@[simp] theorem setLink_tlbs (s : State) (l : Nat) (x : LinkSt) : (s.setLink l x).tlbs = s.tlbs := rfl
@[simp] theorem setLink_walks (s : State) (l : Nat) (x : LinkSt) : (s.setLink l x).walks = s.walks := rfl
@[simp] theorem setLink_atsReqs (s : State) (l : Nat) (x : LinkSt) : (s.setLink l x).atsReqs = s.atsReqs := rfl
@[simp] theorem setLink_pageReqs (s : State) (l : Nat) (x : LinkSt) : (s.setLink l x).pageReqs = s.pageReqs := rfl
@[simp] theorem setLink_pageNext (s : State) (l : Nat) (x : LinkSt) : (s.setLink l x).pageNext = s.pageNext := rfl
@[simp] theorem setLink_onces (s : State) (l : Nat) (x : LinkSt) : (s.setLink l x).onces = s.onces := rfl
@[simp] theorem setLink_hostFails (s : State) (l : Nat) (x : LinkSt) : (s.setLink l x).hostFails = s.hostFails := rfl
@[simp] theorem setLink_tlbInv (s : State) (l : Nat) (x : LinkSt) : (s.setLink l x).tlbInv = s.tlbInv := rfl
@[simp] theorem setLink_epUnits (s : State) (l : Nat) (x : LinkSt) : (s.setLink l x).epUnits = s.epUnits := rfl
@[simp] theorem setLink_undone (s : State) (l : Nat) (x : LinkSt) : (s.setLink l x).undone = s.undone := rfl
@[simp] theorem setLink_epFlaws (s : State) (l : Nat) (x : LinkSt) : (s.setLink l x).epFlaws = s.epFlaws := rfl
@[simp] theorem setLink_commit (s : State) (l : Nat) (x : LinkSt) : (s.setLink l x).commit = s.commit := rfl
@[simp] theorem setLink_journal (s : State) (l : Nat) (x : LinkSt) : (s.setLink l x).journal = s.journal := rfl
@[simp] theorem setLink_replica (s : State) (l : Nat) (x : LinkSt) : (s.setLink l x).replica = s.replica := rfl
@[simp] theorem setLink_tide (s : State) (l : Nat) (x : LinkSt) : (s.setLink l x).tide = s.tide := rfl
@[simp] theorem setLink_freeMem (s : State) (l : Nat) (x : LinkSt) : (s.setLink l x).freeMem = s.freeMem := rfl
@[simp] theorem setLink_rerig (s : State) (l : Nat) (x : LinkSt) : (s.setLink l x).rerig = s.rerig := rfl
@[simp] theorem setLink_bist (s : State) (l : Nat) (x : LinkSt) : (s.setLink l x).bist = s.bist := rfl
@[simp] theorem setLink_job (s : State) (l : Nat) (x : LinkSt) : (s.setLink l x).job = s.job := rfl
@[simp] theorem setLink_sec (s : State) (l : Nat) (x : LinkSt) : (s.setLink l x).sec = s.sec := rfl
@[simp] theorem setLink_mgmt (s : State) (l : Nat) (x : LinkSt) : (s.setLink l x).mgmt = s.mgmt := rfl
@[simp] theorem setLink_power (s : State) (l : Nat) (x : LinkSt) : (s.setLink l x).power = s.power := rfl
@[simp] theorem setLink_out (s : State) (l : Nat) (x : LinkSt) : (s.setLink l x).out = s.out := rfl
@[simp] theorem setLink_fresh (s : State) (l : Nat) (x : LinkSt) : (s.setLink l x).fresh = s.fresh := rfl
@[simp] theorem setLink_now (s : State) (l : Nat) (x : LinkSt) : (s.setLink l x).now = s.now := rfl
@[simp] theorem setLink_pending (s : State) (l : Nat) (x : LinkSt) : (s.setLink l x).pending = s.pending := rfl

@[simp] theorem setSect_regs (s : State) (k : Nat) (b : List Byte) : (s.setSect k b).regs = s.regs := rfl
@[simp] theorem setSect_mem (s : State) (k : Nat) (b : List Byte) : (s.setSect k b).mem = s.mem := rfl
@[simp] theorem setSect_poison (s : State) (k : Nat) (b : List Byte) : (s.setSect k b).poison = s.poison := rfl
@[simp] theorem setSect_tiles (s : State) (k : Nat) (b : List Byte) : (s.setSect k b).tiles = s.tiles := rfl
@[simp] theorem setSect_banks (s : State) (k : Nat) (b : List Byte) : (s.setSect k b).banks = s.banks := rfl
@[simp] theorem setSect_vregs (s : State) (k : Nat) (b : List Byte) : (s.setSect k b).vregs = s.vregs := rfl
@[simp] theorem setSect_mregs (s : State) (k : Nat) (b : List Byte) : (s.setSect k b).mregs = s.mregs := rfl
@[simp] theorem setSect_flash (s : State) (k : Nat) (b : List Byte) : (s.setSect k b).flash = s.flash := rfl
@[simp] theorem setSect_arrays (s : State) (k : Nat) (b : List Byte) : (s.setSect k b).arrays = s.arrays := rfl
@[simp] theorem setSect_factoryLeaf (s : State) (k : Nat) (b : List Byte) : (s.setSect k b).factoryLeaf = s.factoryLeaf := rfl
@[simp] theorem setSect_inEffect (s : State) (k : Nat) (b : List Byte) : (s.setSect k b).inEffect = s.inEffect := rfl
@[simp] theorem setSect_wordShadow (s : State) (k : Nat) (b : List Byte) : (s.setSect k b).wordShadow = s.wordShadow := rfl
@[simp] theorem setSect_threads (s : State) (k : Nat) (b : List Byte) : (s.setSect k b).threads = s.threads := rfl
@[simp] theorem setSect_trees (s : State) (k : Nat) (b : List Byte) : (s.setSect k b).trees = s.trees := rfl
@[simp] theorem setSect_collector (s : State) (k : Nat) (b : List Byte) : (s.setSect k b).collector = s.collector := rfl
@[simp] theorem setSect_handled (s : State) (k : Nat) (b : List Byte) : (s.setSect k b).handled = s.handled := rfl
@[simp] theorem setSect_pcie (s : State) (k : Nat) (b : List Byte) : (s.setSect k b).pcie = s.pcie := rfl
@[simp] theorem setSect_heldEvents (s : State) (k : Nat) (b : List Byte) : (s.setSect k b).heldEvents = s.heldEvents := rfl
@[simp] theorem setSect_barriers (s : State) (k : Nat) (b : List Byte) : (s.setSect k b).barriers = s.barriers := rfl
@[simp] theorem setSect_turns (s : State) (k : Nat) (b : List Byte) : (s.setSect k b).turns = s.turns := rfl
@[simp] theorem setSect_canopies (s : State) (k : Nat) (b : List Byte) : (s.setSect k b).canopies = s.canopies := rfl
@[simp] theorem setSect_flaws (s : State) (k : Nat) (b : List Byte) : (s.setSect k b).flaws = s.flaws := rfl
@[simp] theorem setSect_badTags (s : State) (k : Nat) (b : List Byte) : (s.setSect k b).badTags = s.badTags := rfl
@[simp] theorem setSect_openRows (s : State) (k : Nat) (b : List Byte) : (s.setSect k b).openRows = s.openRows := rfl
@[simp] theorem setSect_pins (s : State) (k : Nat) (b : List Byte) : (s.setSect k b).pins = s.pins := rfl
@[simp] theorem setSect_nbScrubbed (s : State) (k : Nat) (b : List Byte) : (s.setSect k b).nbScrubbed = s.nbScrubbed := rfl
@[simp] theorem setSect_hwScrubbed (s : State) (k : Nat) (b : List Byte) : (s.setSect k b).hwScrubbed = s.hwScrubbed := rfl
@[simp] theorem setSect_hints (s : State) (k : Nat) (b : List Byte) : (s.setSect k b).hints = s.hints := rfl
@[simp] theorem setSect_cmos (s : State) (k : Nat) (b : List Byte) : (s.setSect k b).cmos = s.cmos := rfl
@[simp] theorem setSect_posted (s : State) (k : Nat) (b : List Byte) : (s.setSect k b).posted = s.posted := rfl
@[simp] theorem setSect_ferries (s : State) (k : Nat) (b : List Byte) : (s.setSect k b).ferries = s.ferries := rfl
@[simp] theorem setSect_dead (s : State) (k : Nat) (b : List Byte) : (s.setSect k b).dead = s.dead := rfl
@[simp] theorem setSect_tlbs (s : State) (k : Nat) (b : List Byte) : (s.setSect k b).tlbs = s.tlbs := rfl
@[simp] theorem setSect_walks (s : State) (k : Nat) (b : List Byte) : (s.setSect k b).walks = s.walks := rfl
@[simp] theorem setSect_atsReqs (s : State) (k : Nat) (b : List Byte) : (s.setSect k b).atsReqs = s.atsReqs := rfl
@[simp] theorem setSect_pageReqs (s : State) (k : Nat) (b : List Byte) : (s.setSect k b).pageReqs = s.pageReqs := rfl
@[simp] theorem setSect_pageNext (s : State) (k : Nat) (b : List Byte) : (s.setSect k b).pageNext = s.pageNext := rfl
@[simp] theorem setSect_onces (s : State) (k : Nat) (b : List Byte) : (s.setSect k b).onces = s.onces := rfl
@[simp] theorem setSect_hostFails (s : State) (k : Nat) (b : List Byte) : (s.setSect k b).hostFails = s.hostFails := rfl
@[simp] theorem setSect_tlbInv (s : State) (k : Nat) (b : List Byte) : (s.setSect k b).tlbInv = s.tlbInv := rfl
@[simp] theorem setSect_epUnits (s : State) (k : Nat) (b : List Byte) : (s.setSect k b).epUnits = s.epUnits := rfl
@[simp] theorem setSect_undone (s : State) (k : Nat) (b : List Byte) : (s.setSect k b).undone = s.undone := rfl
@[simp] theorem setSect_epFlaws (s : State) (k : Nat) (b : List Byte) : (s.setSect k b).epFlaws = s.epFlaws := rfl
@[simp] theorem setSect_commit (s : State) (k : Nat) (b : List Byte) : (s.setSect k b).commit = s.commit := rfl
@[simp] theorem setSect_journal (s : State) (k : Nat) (b : List Byte) : (s.setSect k b).journal = s.journal := rfl
@[simp] theorem setSect_replica (s : State) (k : Nat) (b : List Byte) : (s.setSect k b).replica = s.replica := rfl
@[simp] theorem setSect_links (s : State) (k : Nat) (b : List Byte) : (s.setSect k b).links = s.links := rfl
@[simp] theorem setSect_tide (s : State) (k : Nat) (b : List Byte) : (s.setSect k b).tide = s.tide := rfl
@[simp] theorem setSect_freeMem (s : State) (k : Nat) (b : List Byte) : (s.setSect k b).freeMem = s.freeMem := rfl
@[simp] theorem setSect_rerig (s : State) (k : Nat) (b : List Byte) : (s.setSect k b).rerig = s.rerig := rfl
@[simp] theorem setSect_bist (s : State) (k : Nat) (b : List Byte) : (s.setSect k b).bist = s.bist := rfl
@[simp] theorem setSect_job (s : State) (k : Nat) (b : List Byte) : (s.setSect k b).job = s.job := rfl
@[simp] theorem setSect_sec (s : State) (k : Nat) (b : List Byte) : (s.setSect k b).sec = s.sec := rfl
@[simp] theorem setSect_mgmt (s : State) (k : Nat) (b : List Byte) : (s.setSect k b).mgmt = s.mgmt := rfl
@[simp] theorem setSect_power (s : State) (k : Nat) (b : List Byte) : (s.setSect k b).power = s.power := rfl
@[simp] theorem setSect_out (s : State) (k : Nat) (b : List Byte) : (s.setSect k b).out = s.out := rfl
@[simp] theorem setSect_fresh (s : State) (k : Nat) (b : List Byte) : (s.setSect k b).fresh = s.fresh := rfl
@[simp] theorem setSect_now (s : State) (k : Nat) (b : List Byte) : (s.setSect k b).now = s.now := rfl
@[simp] theorem setSect_pending (s : State) (k : Nat) (b : List Byte) : (s.setSect k b).pending = s.pending := rfl

@[simp] theorem setPower_regs (s : State) (f : PowerSt → PowerSt) : (s.setPower f).regs = s.regs := rfl
@[simp] theorem setPower_mem (s : State) (f : PowerSt → PowerSt) : (s.setPower f).mem = s.mem := rfl
@[simp] theorem setPower_poison (s : State) (f : PowerSt → PowerSt) : (s.setPower f).poison = s.poison := rfl
@[simp] theorem setPower_tiles (s : State) (f : PowerSt → PowerSt) : (s.setPower f).tiles = s.tiles := rfl
@[simp] theorem setPower_banks (s : State) (f : PowerSt → PowerSt) : (s.setPower f).banks = s.banks := rfl
@[simp] theorem setPower_vregs (s : State) (f : PowerSt → PowerSt) : (s.setPower f).vregs = s.vregs := rfl
@[simp] theorem setPower_mregs (s : State) (f : PowerSt → PowerSt) : (s.setPower f).mregs = s.mregs := rfl
@[simp] theorem setPower_flash (s : State) (f : PowerSt → PowerSt) : (s.setPower f).flash = s.flash := rfl
@[simp] theorem setPower_sects (s : State) (f : PowerSt → PowerSt) : (s.setPower f).sects = s.sects := rfl
@[simp] theorem setPower_arrays (s : State) (f : PowerSt → PowerSt) : (s.setPower f).arrays = s.arrays := rfl
@[simp] theorem setPower_factoryLeaf (s : State) (f : PowerSt → PowerSt) : (s.setPower f).factoryLeaf = s.factoryLeaf := rfl
@[simp] theorem setPower_inEffect (s : State) (f : PowerSt → PowerSt) : (s.setPower f).inEffect = s.inEffect := rfl
@[simp] theorem setPower_wordShadow (s : State) (f : PowerSt → PowerSt) : (s.setPower f).wordShadow = s.wordShadow := rfl
@[simp] theorem setPower_threads (s : State) (f : PowerSt → PowerSt) : (s.setPower f).threads = s.threads := rfl
@[simp] theorem setPower_trees (s : State) (f : PowerSt → PowerSt) : (s.setPower f).trees = s.trees := rfl
@[simp] theorem setPower_collector (s : State) (f : PowerSt → PowerSt) : (s.setPower f).collector = s.collector := rfl
@[simp] theorem setPower_handled (s : State) (f : PowerSt → PowerSt) : (s.setPower f).handled = s.handled := rfl
@[simp] theorem setPower_pcie (s : State) (f : PowerSt → PowerSt) : (s.setPower f).pcie = s.pcie := rfl
@[simp] theorem setPower_heldEvents (s : State) (f : PowerSt → PowerSt) : (s.setPower f).heldEvents = s.heldEvents := rfl
@[simp] theorem setPower_barriers (s : State) (f : PowerSt → PowerSt) : (s.setPower f).barriers = s.barriers := rfl
@[simp] theorem setPower_turns (s : State) (f : PowerSt → PowerSt) : (s.setPower f).turns = s.turns := rfl
@[simp] theorem setPower_canopies (s : State) (f : PowerSt → PowerSt) : (s.setPower f).canopies = s.canopies := rfl
@[simp] theorem setPower_flaws (s : State) (f : PowerSt → PowerSt) : (s.setPower f).flaws = s.flaws := rfl
@[simp] theorem setPower_badTags (s : State) (f : PowerSt → PowerSt) : (s.setPower f).badTags = s.badTags := rfl
@[simp] theorem setPower_openRows (s : State) (f : PowerSt → PowerSt) : (s.setPower f).openRows = s.openRows := rfl
@[simp] theorem setPower_pins (s : State) (f : PowerSt → PowerSt) : (s.setPower f).pins = s.pins := rfl
@[simp] theorem setPower_nbScrubbed (s : State) (f : PowerSt → PowerSt) : (s.setPower f).nbScrubbed = s.nbScrubbed := rfl
@[simp] theorem setPower_hwScrubbed (s : State) (f : PowerSt → PowerSt) : (s.setPower f).hwScrubbed = s.hwScrubbed := rfl
@[simp] theorem setPower_hints (s : State) (f : PowerSt → PowerSt) : (s.setPower f).hints = s.hints := rfl
@[simp] theorem setPower_cmos (s : State) (f : PowerSt → PowerSt) : (s.setPower f).cmos = s.cmos := rfl
@[simp] theorem setPower_posted (s : State) (f : PowerSt → PowerSt) : (s.setPower f).posted = s.posted := rfl
@[simp] theorem setPower_ferries (s : State) (f : PowerSt → PowerSt) : (s.setPower f).ferries = s.ferries := rfl
@[simp] theorem setPower_dead (s : State) (f : PowerSt → PowerSt) : (s.setPower f).dead = s.dead := rfl
@[simp] theorem setPower_tlbs (s : State) (f : PowerSt → PowerSt) : (s.setPower f).tlbs = s.tlbs := rfl
@[simp] theorem setPower_walks (s : State) (f : PowerSt → PowerSt) : (s.setPower f).walks = s.walks := rfl
@[simp] theorem setPower_atsReqs (s : State) (f : PowerSt → PowerSt) : (s.setPower f).atsReqs = s.atsReqs := rfl
@[simp] theorem setPower_pageReqs (s : State) (f : PowerSt → PowerSt) : (s.setPower f).pageReqs = s.pageReqs := rfl
@[simp] theorem setPower_pageNext (s : State) (f : PowerSt → PowerSt) : (s.setPower f).pageNext = s.pageNext := rfl
@[simp] theorem setPower_onces (s : State) (f : PowerSt → PowerSt) : (s.setPower f).onces = s.onces := rfl
@[simp] theorem setPower_hostFails (s : State) (f : PowerSt → PowerSt) : (s.setPower f).hostFails = s.hostFails := rfl
@[simp] theorem setPower_tlbInv (s : State) (f : PowerSt → PowerSt) : (s.setPower f).tlbInv = s.tlbInv := rfl
@[simp] theorem setPower_epUnits (s : State) (f : PowerSt → PowerSt) : (s.setPower f).epUnits = s.epUnits := rfl
@[simp] theorem setPower_undone (s : State) (f : PowerSt → PowerSt) : (s.setPower f).undone = s.undone := rfl
@[simp] theorem setPower_epFlaws (s : State) (f : PowerSt → PowerSt) : (s.setPower f).epFlaws = s.epFlaws := rfl
@[simp] theorem setPower_commit (s : State) (f : PowerSt → PowerSt) : (s.setPower f).commit = s.commit := rfl
@[simp] theorem setPower_journal (s : State) (f : PowerSt → PowerSt) : (s.setPower f).journal = s.journal := rfl
@[simp] theorem setPower_replica (s : State) (f : PowerSt → PowerSt) : (s.setPower f).replica = s.replica := rfl
@[simp] theorem setPower_links (s : State) (f : PowerSt → PowerSt) : (s.setPower f).links = s.links := rfl
@[simp] theorem setPower_tide (s : State) (f : PowerSt → PowerSt) : (s.setPower f).tide = s.tide := rfl
@[simp] theorem setPower_freeMem (s : State) (f : PowerSt → PowerSt) : (s.setPower f).freeMem = s.freeMem := rfl
@[simp] theorem setPower_rerig (s : State) (f : PowerSt → PowerSt) : (s.setPower f).rerig = s.rerig := rfl
@[simp] theorem setPower_bist (s : State) (f : PowerSt → PowerSt) : (s.setPower f).bist = s.bist := rfl
@[simp] theorem setPower_job (s : State) (f : PowerSt → PowerSt) : (s.setPower f).job = s.job := rfl
@[simp] theorem setPower_sec (s : State) (f : PowerSt → PowerSt) : (s.setPower f).sec = s.sec := rfl
@[simp] theorem setPower_mgmt (s : State) (f : PowerSt → PowerSt) : (s.setPower f).mgmt = s.mgmt := rfl
@[simp] theorem setPower_out (s : State) (f : PowerSt → PowerSt) : (s.setPower f).out = s.out := rfl
@[simp] theorem setPower_fresh (s : State) (f : PowerSt → PowerSt) : (s.setPower f).fresh = s.fresh := rfl
@[simp] theorem setPower_now (s : State) (f : PowerSt → PowerSt) : (s.setPower f).now = s.now := rfl
@[simp] theorem setPower_pending (s : State) (f : PowerSt → PowerSt) : (s.setPower f).pending = s.pending := rfl

@[simp] theorem sent_regs (s : State) (m : Msg) : (s.sent m).regs = s.regs := rfl
@[simp] theorem sent_mem (s : State) (m : Msg) : (s.sent m).mem = s.mem := rfl
@[simp] theorem sent_poison (s : State) (m : Msg) : (s.sent m).poison = s.poison := rfl
@[simp] theorem sent_tiles (s : State) (m : Msg) : (s.sent m).tiles = s.tiles := rfl
@[simp] theorem sent_banks (s : State) (m : Msg) : (s.sent m).banks = s.banks := rfl
@[simp] theorem sent_vregs (s : State) (m : Msg) : (s.sent m).vregs = s.vregs := rfl
@[simp] theorem sent_mregs (s : State) (m : Msg) : (s.sent m).mregs = s.mregs := rfl
@[simp] theorem sent_flash (s : State) (m : Msg) : (s.sent m).flash = s.flash := rfl
@[simp] theorem sent_sects (s : State) (m : Msg) : (s.sent m).sects = s.sects := rfl
@[simp] theorem sent_arrays (s : State) (m : Msg) : (s.sent m).arrays = s.arrays := rfl
@[simp] theorem sent_factoryLeaf (s : State) (m : Msg) : (s.sent m).factoryLeaf = s.factoryLeaf := rfl
@[simp] theorem sent_inEffect (s : State) (m : Msg) : (s.sent m).inEffect = s.inEffect := rfl
@[simp] theorem sent_wordShadow (s : State) (m : Msg) : (s.sent m).wordShadow = s.wordShadow := rfl
@[simp] theorem sent_threads (s : State) (m : Msg) : (s.sent m).threads = s.threads := rfl
@[simp] theorem sent_trees (s : State) (m : Msg) : (s.sent m).trees = s.trees := rfl
@[simp] theorem sent_collector (s : State) (m : Msg) : (s.sent m).collector = s.collector := rfl
@[simp] theorem sent_handled (s : State) (m : Msg) : (s.sent m).handled = s.handled := rfl
@[simp] theorem sent_pcie (s : State) (m : Msg) : (s.sent m).pcie = s.pcie := rfl
@[simp] theorem sent_heldEvents (s : State) (m : Msg) : (s.sent m).heldEvents = s.heldEvents := rfl
@[simp] theorem sent_barriers (s : State) (m : Msg) : (s.sent m).barriers = s.barriers := rfl
@[simp] theorem sent_turns (s : State) (m : Msg) : (s.sent m).turns = s.turns := rfl
@[simp] theorem sent_canopies (s : State) (m : Msg) : (s.sent m).canopies = s.canopies := rfl
@[simp] theorem sent_flaws (s : State) (m : Msg) : (s.sent m).flaws = s.flaws := rfl
@[simp] theorem sent_badTags (s : State) (m : Msg) : (s.sent m).badTags = s.badTags := rfl
@[simp] theorem sent_openRows (s : State) (m : Msg) : (s.sent m).openRows = s.openRows := rfl
@[simp] theorem sent_pins (s : State) (m : Msg) : (s.sent m).pins = s.pins := rfl
@[simp] theorem sent_nbScrubbed (s : State) (m : Msg) : (s.sent m).nbScrubbed = s.nbScrubbed := rfl
@[simp] theorem sent_hwScrubbed (s : State) (m : Msg) : (s.sent m).hwScrubbed = s.hwScrubbed := rfl
@[simp] theorem sent_hints (s : State) (m : Msg) : (s.sent m).hints = s.hints := rfl
@[simp] theorem sent_cmos (s : State) (m : Msg) : (s.sent m).cmos = s.cmos := rfl
@[simp] theorem sent_posted (s : State) (m : Msg) : (s.sent m).posted = s.posted := rfl
@[simp] theorem sent_ferries (s : State) (m : Msg) : (s.sent m).ferries = s.ferries := rfl
@[simp] theorem sent_dead (s : State) (m : Msg) : (s.sent m).dead = s.dead := rfl
@[simp] theorem sent_tlbs (s : State) (m : Msg) : (s.sent m).tlbs = s.tlbs := rfl
@[simp] theorem sent_walks (s : State) (m : Msg) : (s.sent m).walks = s.walks := rfl
@[simp] theorem sent_atsReqs (s : State) (m : Msg) : (s.sent m).atsReqs = s.atsReqs := rfl
@[simp] theorem sent_pageReqs (s : State) (m : Msg) : (s.sent m).pageReqs = s.pageReqs := rfl
@[simp] theorem sent_pageNext (s : State) (m : Msg) : (s.sent m).pageNext = s.pageNext := rfl
@[simp] theorem sent_onces (s : State) (m : Msg) : (s.sent m).onces = s.onces := rfl
@[simp] theorem sent_hostFails (s : State) (m : Msg) : (s.sent m).hostFails = s.hostFails := rfl
@[simp] theorem sent_tlbInv (s : State) (m : Msg) : (s.sent m).tlbInv = s.tlbInv := rfl
@[simp] theorem sent_epUnits (s : State) (m : Msg) : (s.sent m).epUnits = s.epUnits := rfl
@[simp] theorem sent_undone (s : State) (m : Msg) : (s.sent m).undone = s.undone := rfl
@[simp] theorem sent_epFlaws (s : State) (m : Msg) : (s.sent m).epFlaws = s.epFlaws := rfl
@[simp] theorem sent_commit (s : State) (m : Msg) : (s.sent m).commit = s.commit := rfl
@[simp] theorem sent_journal (s : State) (m : Msg) : (s.sent m).journal = s.journal := rfl
@[simp] theorem sent_replica (s : State) (m : Msg) : (s.sent m).replica = s.replica := rfl
@[simp] theorem sent_links (s : State) (m : Msg) : (s.sent m).links = s.links := rfl
@[simp] theorem sent_tide (s : State) (m : Msg) : (s.sent m).tide = s.tide := rfl
@[simp] theorem sent_freeMem (s : State) (m : Msg) : (s.sent m).freeMem = s.freeMem := rfl
@[simp] theorem sent_rerig (s : State) (m : Msg) : (s.sent m).rerig = s.rerig := rfl
@[simp] theorem sent_bist (s : State) (m : Msg) : (s.sent m).bist = s.bist := rfl
@[simp] theorem sent_job (s : State) (m : Msg) : (s.sent m).job = s.job := rfl
@[simp] theorem sent_sec (s : State) (m : Msg) : (s.sent m).sec = s.sec := rfl
@[simp] theorem sent_mgmt (s : State) (m : Msg) : (s.sent m).mgmt = s.mgmt := rfl
@[simp] theorem sent_power (s : State) (m : Msg) : (s.sent m).power = s.power := rfl
@[simp] theorem sent_fresh (s : State) (m : Msg) : (s.sent m).fresh = s.fresh := rfl
@[simp] theorem sent_now (s : State) (m : Msg) : (s.sent m).now = s.now := rfl
@[simp] theorem sent_pending (s : State) (m : Msg) : (s.sent m).pending = s.pending := rfl

@[simp] theorem queueOf_regs (s : State) (u : State) : (s.queueOf u).regs = s.regs := rfl
@[simp] theorem queueOf_mem (s : State) (u : State) : (s.queueOf u).mem = s.mem := rfl
@[simp] theorem queueOf_poison (s : State) (u : State) : (s.queueOf u).poison = s.poison := rfl
@[simp] theorem queueOf_tiles (s : State) (u : State) : (s.queueOf u).tiles = s.tiles := rfl
@[simp] theorem queueOf_banks (s : State) (u : State) : (s.queueOf u).banks = s.banks := rfl
@[simp] theorem queueOf_vregs (s : State) (u : State) : (s.queueOf u).vregs = s.vregs := rfl
@[simp] theorem queueOf_mregs (s : State) (u : State) : (s.queueOf u).mregs = s.mregs := rfl
@[simp] theorem queueOf_flash (s : State) (u : State) : (s.queueOf u).flash = s.flash := rfl
@[simp] theorem queueOf_sects (s : State) (u : State) : (s.queueOf u).sects = s.sects := rfl
@[simp] theorem queueOf_arrays (s : State) (u : State) : (s.queueOf u).arrays = s.arrays := rfl
@[simp] theorem queueOf_factoryLeaf (s : State) (u : State) : (s.queueOf u).factoryLeaf = s.factoryLeaf := rfl
@[simp] theorem queueOf_inEffect (s : State) (u : State) : (s.queueOf u).inEffect = s.inEffect := rfl
@[simp] theorem queueOf_wordShadow (s : State) (u : State) : (s.queueOf u).wordShadow = s.wordShadow := rfl
@[simp] theorem queueOf_threads (s : State) (u : State) : (s.queueOf u).threads = s.threads := rfl
@[simp] theorem queueOf_trees (s : State) (u : State) : (s.queueOf u).trees = s.trees := rfl
@[simp] theorem queueOf_collector (s : State) (u : State) : (s.queueOf u).collector = s.collector := rfl
@[simp] theorem queueOf_handled (s : State) (u : State) : (s.queueOf u).handled = s.handled := rfl
@[simp] theorem queueOf_pcie (s : State) (u : State) : (s.queueOf u).pcie = s.pcie := rfl
@[simp] theorem queueOf_heldEvents (s : State) (u : State) : (s.queueOf u).heldEvents = s.heldEvents := rfl
@[simp] theorem queueOf_barriers (s : State) (u : State) : (s.queueOf u).barriers = s.barriers := rfl
@[simp] theorem queueOf_turns (s : State) (u : State) : (s.queueOf u).turns = s.turns := rfl
@[simp] theorem queueOf_canopies (s : State) (u : State) : (s.queueOf u).canopies = s.canopies := rfl
@[simp] theorem queueOf_flaws (s : State) (u : State) : (s.queueOf u).flaws = s.flaws := rfl
@[simp] theorem queueOf_badTags (s : State) (u : State) : (s.queueOf u).badTags = s.badTags := rfl
@[simp] theorem queueOf_openRows (s : State) (u : State) : (s.queueOf u).openRows = s.openRows := rfl
@[simp] theorem queueOf_pins (s : State) (u : State) : (s.queueOf u).pins = s.pins := rfl
@[simp] theorem queueOf_nbScrubbed (s : State) (u : State) : (s.queueOf u).nbScrubbed = s.nbScrubbed := rfl
@[simp] theorem queueOf_hwScrubbed (s : State) (u : State) : (s.queueOf u).hwScrubbed = s.hwScrubbed := rfl
@[simp] theorem queueOf_hints (s : State) (u : State) : (s.queueOf u).hints = s.hints := rfl
@[simp] theorem queueOf_cmos (s : State) (u : State) : (s.queueOf u).cmos = s.cmos := rfl
@[simp] theorem queueOf_posted (s : State) (u : State) : (s.queueOf u).posted = s.posted := rfl
@[simp] theorem queueOf_ferries (s : State) (u : State) : (s.queueOf u).ferries = s.ferries := rfl
@[simp] theorem queueOf_dead (s : State) (u : State) : (s.queueOf u).dead = s.dead := rfl
@[simp] theorem queueOf_tlbs (s : State) (u : State) : (s.queueOf u).tlbs = s.tlbs := rfl
@[simp] theorem queueOf_walks (s : State) (u : State) : (s.queueOf u).walks = s.walks := rfl
@[simp] theorem queueOf_atsReqs (s : State) (u : State) : (s.queueOf u).atsReqs = s.atsReqs := rfl
@[simp] theorem queueOf_pageReqs (s : State) (u : State) : (s.queueOf u).pageReqs = s.pageReqs := rfl
@[simp] theorem queueOf_pageNext (s : State) (u : State) : (s.queueOf u).pageNext = s.pageNext := rfl
@[simp] theorem queueOf_onces (s : State) (u : State) : (s.queueOf u).onces = s.onces := rfl
@[simp] theorem queueOf_hostFails (s : State) (u : State) : (s.queueOf u).hostFails = s.hostFails := rfl
@[simp] theorem queueOf_tlbInv (s : State) (u : State) : (s.queueOf u).tlbInv = s.tlbInv := rfl
@[simp] theorem queueOf_epUnits (s : State) (u : State) : (s.queueOf u).epUnits = s.epUnits := rfl
@[simp] theorem queueOf_undone (s : State) (u : State) : (s.queueOf u).undone = s.undone := rfl
@[simp] theorem queueOf_epFlaws (s : State) (u : State) : (s.queueOf u).epFlaws = s.epFlaws := rfl
@[simp] theorem queueOf_commit (s : State) (u : State) : (s.queueOf u).commit = s.commit := rfl
@[simp] theorem queueOf_journal (s : State) (u : State) : (s.queueOf u).journal = s.journal := rfl
@[simp] theorem queueOf_replica (s : State) (u : State) : (s.queueOf u).replica = s.replica := rfl
@[simp] theorem queueOf_links (s : State) (u : State) : (s.queueOf u).links = s.links := rfl
@[simp] theorem queueOf_tide (s : State) (u : State) : (s.queueOf u).tide = s.tide := rfl
@[simp] theorem queueOf_freeMem (s : State) (u : State) : (s.queueOf u).freeMem = s.freeMem := rfl
@[simp] theorem queueOf_rerig (s : State) (u : State) : (s.queueOf u).rerig = s.rerig := rfl
@[simp] theorem queueOf_bist (s : State) (u : State) : (s.queueOf u).bist = s.bist := rfl
@[simp] theorem queueOf_job (s : State) (u : State) : (s.queueOf u).job = s.job := rfl
@[simp] theorem queueOf_sec (s : State) (u : State) : (s.queueOf u).sec = s.sec := rfl
@[simp] theorem queueOf_mgmt (s : State) (u : State) : (s.queueOf u).mgmt = s.mgmt := rfl
@[simp] theorem queueOf_power (s : State) (u : State) : (s.queueOf u).power = s.power := rfl
@[simp] theorem queueOf_out (s : State) (u : State) : (s.queueOf u).out = s.out := rfl
@[simp] theorem queueOf_fresh (s : State) (u : State) : (s.queueOf u).fresh = s.fresh := rfl
@[simp] theorem queueOf_now (s : State) (u : State) : (s.queueOf u).now = s.now := rfl

@[simp] theorem thread_setThread (s : State) (k j : Nat) (x : ThreadSt) : (s.setThread k x).thread j = if j = k then x else s.thread j :=
  aread_awrite _ _ _ _ _

@[simp] theorem tree_setTree (s : State) (k j : Nat) (x : TreeSt) : (s.setTree k x).tree j = if j = k then x else s.tree j :=
  aread_awrite _ _ _ _ _

@[simp] theorem canopy_setCanopy (s : State) (k j : Nat) (x : CanopySt) : (s.setCanopy k x).canopy j = if j = k then x else s.canopy j :=
  aread_awrite _ _ _ _ _

@[simp] theorem link_setLink (s : State) (k j : Nat) (x : LinkSt) : (s.setLink k x).link j = if j = k then x else s.link j :=
  aread_awrite _ _ _ _ _

@[simp] theorem ferry_setFerry (s : State) (k j : Nat) (x : Option Manifest) : (s.setFerry k x).ferry j = if j = k then x else s.ferry j :=
  aread_awrite _ _ _ _ _

@[simp] theorem lineFlaw_setFlaw (s : State) (k j : Nat) (x : LineFlaw) : (s.setFlaw k x).lineFlaw j = if j = k then x else s.lineFlaw j :=
  aread_awrite _ _ _ _ _

/-- What is stored in a register after it is set. -/
@[simp] theorem stored_setReg (s : State) (r : Reg) (v : W64) : (s.setReg r v).stored r = v := by
  unfold State.stored State.setReg
  rw [aread_awrite, if_pos rfl]

/-- Setting a register leaves what is stored in every other. -/
theorem stored_setReg_ne (s : State) (r g : Reg) (v : W64) (h : g.addr ≠ r.addr) : (s.setReg r v).stored g = s.stored g := by
  have e : ∀ d : W64, aread d (awrite r.dflt s.regs r.addr v) g.addr = aread d s.regs g.addr := by
    intro d
    unfold aread awrite
    split
    · rw [aget_adel, if_neg h]
    · rw [aget_aput, if_neg h]
  exact e _

@[simp] theorem power_setPower (s : State) (f : PowerSt → PowerSt) : (s.setPower f).power = f s.power := rfl

@[simp] theorem out_sent (s : State) (m : Msg) : (s.sent m).out = m :: s.out := rfl

@[simp] theorem pending_queueOf (s u : State) : (s.queueOf u).pending = u.pending := rfl

/-- Programming flash changes nothing but flash. -/
theorem setFlash_eq (bs : List Byte) : ∀ (s : State) (a : Nat), s.setFlash a bs = { s with flash := (s.setFlash a bs).flash } := by
  induction bs with
  | nil => intro s a; rfl
  | cons b r ih =>
    intro s a
    exact ih ({ s with flash := awrite 0xFF s.flash a b } : State) (a + 1)

@[simp] theorem setFlash_sec (s : State) (a : Nat) (bs : List Byte) : (s.setFlash a bs).sec = s.sec := by
  rw [setFlash_eq]

/-- A byte of flash after bytes are programmed from an offset. -/
theorem aread_setFlash (bs : List Byte) : ∀ (s : State) (a x : Nat), aread 0xFF (s.setFlash a bs).flash x =
    if a ≤ x ∧ x < a + bs.length then bs.getD (x - a) 0xFF else aread 0xFF s.flash x := by
  induction bs with
  | nil =>
    intro s a x
    rw [if_neg (by simp)]
    rfl
  | cons b r ih =>
    intro s a x
    show aread 0xFF (State.setFlash { s with flash := awrite 0xFF s.flash a b } (a + 1) r).flash x = _
    rw [ih, aread_awrite]
    by_cases hx : x = a
    · subst hx
      rw [if_neg (by omega), if_pos rfl, if_pos ⟨Nat.le_refl _, by simp⟩]
      simp
    · by_cases hr : a + 1 ≤ x ∧ x < a + 1 + r.length
      · rw [if_pos hr, if_pos ⟨by omega, by simp; omega⟩, show x - a = (x - (a + 1)) + 1 by omega]
        rfl
      · rw [if_neg hr, if_neg hx, if_neg (by simp; omega)]

/-- The bytes programmed are read back. -/
theorem flashBytes_setFlash (s : State) (a : Nat) (bs : List Byte) : (s.setFlash a bs).flashBytes a bs.length = bs := by
  unfold State.flashBytes
  apply List.ext_getElem
  · simp
  · intro i h1 h2
    rw [List.getElem_map, List.getElem_range, aread_setFlash, if_pos ⟨by omega, by omega⟩, Nat.add_sub_cancel_left,
      List.getD_eq_getElem _ _ h2]

/-- Bytes outside those programmed stay. -/
theorem flashBytes_setFlash_apart (s : State) (a x n : Nat) (bs : List Byte) (h : x + n ≤ a ∨ a + bs.length ≤ x) :
    (s.setFlash a bs).flashBytes x n = s.flashBytes x n := by
  unfold State.flashBytes
  apply List.map_congr_left
  intro i hi
  rw [List.mem_range] at hi
  rw [aread_setFlash, if_neg (by omega)]

end Sys2Proof.Machine
end

