-- ==== Sys2Proof/Tests/Slice0.lean ====
section
/-! SUPPORT. Tests of the model: the checks of WellFormed, small facts that the spec states, and for the statements states and
operands that meet their hypotheses. -/

namespace Sys2Proof.Tests
open Sys2Proof.Machine

-- One theorem at a time, so that their evaluations do not hold their memory together.
set_option Elab.async false

/-- Thread 0 of tree 0. -/
def t0 : Tid := ⟨0, 0⟩

/-- A base word without operands. -/
def bare (b : BitVec 32) : IWord := ⟨b, 0, 0, 0⟩

/-- The boot processor in the Service world (R18): no access table judges it (R306). -/
def boot : Req := ⟨0x180, true⟩

/-- A state whose access table k of a block grants everything to group 0 (R307, R308). -/
def granting (b : Blk) (k : Nat) (s : State) : State :=
  (((s.setReg (.accRule b k 0 1) 0x800F_FFFF_FFFF_FFFF).setReg (.accRule b k 0 2) (-1)).setReg (.accRule b k 0 3) (-1))

/-- Thread 0 runs in the Service kernel; addresses from 0 are in its range cache and map to the heartwood of its tree. -/
def awake : State :=
  let s := granting (.tree 0) 0 State.reset
  let s := ((s.setReg .ptRootS 1).setFld (excReg 0) 1 1 0).setReg (thr 0 0x10) (BitVec.ofNat 64 (3 * 2 ^ 33))
  s.setTree 0 { s.tree 0 with rc := [⟨true, false, 0, 2 ^ 21, heartBase, 15, 2 ^ 21⟩] }

/-- The same thread at user level of the Job world. -/
def awakeJob : State := awake.setReg (thr 0 0x10) 0

/-- The structure in effect gives grove 0 the queues of grove 0, and puts four landings of generation 1 in place. -/
def built : State := { State.reset with sects := [(6, [1, 1, 1, 1]), (7, List.replicate 48 0)] }

/-- The structure is READY. -/
def ready : State := built.setFld .structStatus 4 4 1

/-- A job runs. -/
def inJob : State := built.setFld .structStatus 4 4 3

/-- Whether an action ends without a stop. -/
def fine {α : Type} (m : M α) (s : State) : Bool :=
  match m s with
  | .ok _ _ => true
  | .error _ _ => false

/-- An action ends in a state that meets a test. -/
def endsIn (m : M Unit) (s : State) (p : State → Bool) : Bool :=
  match m s with
  | .ok _ u => p u
  | .error _ _ => false

theorem fine_bind {α β : Type} {m : M α} {f : α → M β} {s : State} (h : fine (m >>= f) s = true) :
    ∃ a u, m s = .ok a u ∧ fine (f a) u = true := by
  unfold fine at h
  change (match EStateM.bind m f s with | .ok _ _ => true | .error _ _ => false) = true at h
  unfold EStateM.bind at h
  cases hm : m s with
  | ok a u =>
    rw [hm] at h
    exact ⟨a, u, rfl, h⟩
  | error e u =>
    rw [hm] at h
    cases h

theorem fine_ok {α : Type} {m : M α} {s : State} (h : fine m s = true) : ∃ a u, m s = .ok a u := by
  unfold fine at h
  cases hm : m s with
  | ok a u => exact ⟨a, u, rfl⟩
  | error e u =>
    rw [hm] at h
    cases h

/-- An action ends in a value, as a test. -/
def gives {α : Type} [DecidableEq α] (m : M α) (s : State) (a : α) : Bool :=
  match m s with
  | .ok x _ => decide (x = a)
  | .error _ _ => false

theorem gives_ok {α : Type} [DecidableEq α] {m : M α} {s : State} {a : α} (h : gives m s a = true) : ∃ u, m s = .ok a u := by
  unfold gives at h
  cases hm : m s with
  | ok x u =>
    rw [hm] at h
    rw [of_decide_eq_true h]
    exact ⟨u, rfl⟩
  | error e u =>
    rw [hm] at h
    cases h

/-- ADD.8 [0x100], [0x108], 5. -/
def addW : IWord := ⟨0x10030221, 0x100, 0x108, 5⟩

/-- The operands of an instruction of thread 0 of a state. -/
def ops (s : State) (w : IWord) (zd za zb i2 : Nat) : Opnds :=
  match operands w ((s.begun 0).ptrs 0) zd za zb 1 i2 0 with
  | .ok o => o
  | .error _ => ⟨.none, .none, .none, s.ptrs 0⟩

/-- The thread of `awake` starts an instruction. -/
theorem awake_ready : awake.Ready t0 := by
  refine ⟨⟨rfl, rfl⟩, ?_, ?_, ?_, .inr (.inr ⟨?_, ?_⟩)⟩ <;> decide +kernel

theorem awakeJob_ready : awakeJob.Ready t0 := by
  refine ⟨⟨rfl, rfl⟩, ?_, ?_, ?_, .inr (.inr ⟨?_, ?_⟩)⟩ <;> decide +kernel

theorem awake_issues {w : IWord} {sl : Slots} {legal rep : Bool} {zd za zb i2 : Nat}
    (h : legal = true ∧ sl.judge w = .fine)
    (ho : (operands w ((awake.begun 0).ptrs 0) zd za zb 1 i2 0).toBool = true) :
    awake.issues t0 w sl legal rep zd za zb i2 (ops awake w zd za zb i2) := by
  refine ⟨awake_ready, ⟨h.1, h.2, fun c => absurd c (by decide +kernel)⟩, ?_⟩
  unfold ops
  cases hc : operands w ((awake.begun 0).ptrs 0) zd za zb 1 i2 0 with
  | ok o =>
    have : ((awake.begun t0.k).ptrs t0.k) = ((awake.begun 0).ptrs 0) := rfl
    rw [this, hc]
  | error e =>
    rw [hc] at ho
    cases ho

/-- IntegerInstructionsComplete: an ADD whose operands can be read and written. -/
theorem witness_integer : ∃ o a b l u v, awake.issues t0 addW ⟨memSlot, memSlot, immSlot⟩ (plain addW) true 8 8 8 0 o ∧
    reads2To 0 8 o (awake.begun 0) = .ok (a, b, l) u ∧ writePlace 0 l (a + b) u = .ok () v := by
  obtain ⟨⟨a, b, l⟩, u, h, h1⟩ := fine_bind (m := reads2To 0 8 (ops awake addW 8 8 8 0))
    (f := fun x => writePlace 0 x.2.2 (x.1 + x.2.1)) (s := awake.begun 0) (by decide +kernel)
  obtain ⟨_, v, h2⟩ := fine_ok h1
  exact ⟨_, a, b, l, u, v, awake_issues (by decide +kernel) (by decide +kernel), h, h2⟩

/-- RegisterWritesAndClearsComplete: the reset commands are taken of the boot processor after reset. -/
theorem witness_clears : State.reset.takes boot (.cfgClear .dev) 1 ∧ State.reset.takes boot .telemClr 2 ∧
    State.reset.takes boot .accDenyClr 1 ∧ State.reset.takes boot .ttClr 1 ∧ State.reset.takes boot (.landCtrl 15) 2 ∧
    State.reset.takes boot .incClr 1 ∧ State.reset.takes boot .pwrStat (2 ^ 48) ∧ State.reset.takes boot (.hwErrclr 63) 1 ∧
    State.reset.takes boot (.mxTallyClr 0) 1 ∧ State.reset.takes boot (.vuPassesClr 0) 1 ∧ State.reset.takes boot (.seClr 0) 1 ∧
    State.reset.takes boot (.nbClr 7 5) 1 ∧ State.reset.takes boot (.fyClr 7 7) 1 ∧ State.reset.takes boot (.fbCtrl 3) 1524 := by
  refine ⟨?_, ?_, ?_, ?_, ?_, ?_, ?_, ?_, ?_, ?_, ?_, ?_, ?_, ?_⟩ <;> exact ⟨⟨rfl, rfl⟩, rfl, ⟨_, rfl⟩, rfl⟩

/-- RegisterWritesAndClearsComplete: a write that is accepted, one of a reserved encoding, and one of reserved space. -/
theorem witness_register_writes :
    (busAddr boot (BitVec.ofNat 52 (Reg.addr .incCtrl)).toNat = some (Reg.addr .incCtrl) ∧
      State.reset.accepts boot .incCtrl (State.reset.brings boot .incCtrl 0)) ∧
    State.reset.refusal .numcfg (State.reset.brings boot .numcfg 31) = some 3 ∧
    (inRegs (devBase + 0xFFF8) = true ∧ regCheck boot .wr (devBase + 0xFFF8) 8 State.reset = .ok (.ok none) State.reset) :=
  ⟨⟨by decide +kernel, rfl, ⟨_, rfl⟩, rfl⟩, by decide +kernel, by decide +kernel, rfl⟩

/-- A field of TIDE_CFG is pending. -/
def pendingTide : State := State.reset.setFld (.cfgPending .dev) 37 1 1

/-- ConfigurationControlCompletes: HOLD, QREQ with nothing held, a quiescent point, a rule's commit and a latch. -/
theorem witness_configuration :
    State.reset.takes boot (.cfgCtrl .dev) (b2n true) ∧
    (State.reset.takes boot (.cfgCtrl .dev) 2 ∧ State.reset.fld (.cfgCtrl .dev) 0 1 = 0 ∧
      (State.reset.wrote boot (.cfgCtrl .dev) 2).flag (.cfgCtrl .dev) 0 = false) ∧
    (pendingTide.live ∧ pendingTide.flag (.cfgPending .dev) 37 = true ∧ pendingTide.flag (.cfgCtrl .dev) 0 = false ∧
      pendingTide.quiet .dev 37 = true) ∧
    (State.reset.setReg (.accRule .dev 20 63 1) 0x7F).takes boot (.accRule .dev 20 63 3) 0 ∧ State.reset.takes boot (.ferryDone 63 15) 7 := by
  refine ⟨⟨⟨rfl, rfl⟩, rfl, ⟨_, rfl⟩, rfl⟩, ⟨⟨⟨rfl, rfl⟩, rfl, ⟨_, rfl⟩, rfl⟩, ?_, ?_⟩, ⟨⟨rfl, rfl⟩, ?_, ?_, ?_⟩,
    ⟨⟨rfl, rfl⟩, rfl, ⟨_, rfl⟩, rfl⟩, ⟨⟨rfl, rfl⟩, rfl, ⟨_, rfl⟩, rfl⟩⟩ <;> decide +kernel

/-- A job whose end is requested. -/
def endingJob : State := inJob.setFld .jobStatus 8 1 1

/-- A scrub in progress. -/
def scrubbing : State := { endingJob.setFld .scrubStatus 0 1 1 with job := ⟨true, false⟩ }

/-- The far-bank part of a scrub is in progress. -/
def farScrubs : State := { endingJob.setFld .scrubStatus 0 1 1 with job := ⟨true, true⟩ }

/-- JobsAndRerigsComplete: START in READY, END in a job, the end of a job, its scrub, and a far-bank part. -/
theorem witness_jobs :
    (ready.takes boot .jobCtrl 1 ∧ (ready.wrote boot .jobCtrl 1).pstate = 1 ∧
      (ready.wrote boot .jobCtrl 1).flag .structStatus 17 = false ∧ (ready.wrote boot .jobCtrl 1).sec.clearing = none) ∧
    (inJob.takes boot .jobCtrl 2 ∧ (inJob.wrote boot .jobCtrl 2).jobRuns = true ∧
      (inJob.wrote boot .jobCtrl 2).flag .jobStatus 8 = false) ∧
    (endingJob.live ∧ endingJob.jobRuns = true ∧ endingJob.flag .jobStatus 8 = true ∧
      (∀ g < 8, endingJob.fld (.dispStatus g) 0 32 = 0) ∧ endingJob.job.drained = false ∧
      endingJob.flag .structStatus 17 = false ∧ endsIn (dropJobRuns >>= fun _ => stopJobQueues) endingJob (fun v => !v.flag .epStatus 36 &&
        !v.flag .structStatus 17 && !v.pcie.inReset && !v.jobWaits) = true) ∧
    (scrubbing.job = ⟨true, false⟩ ∧ scrubbing.flag .scrubStatus 0 = true ∧ scrubbing.commit.step = 0 ∧
      fine (scrubAll (scrubbing.flag .scrubCtrl 0) >>= fun _ => scrubEnds 5) scrubbing = true ∧ scrubbing.pcie.inReset = false) ∧
    (farScrubs.live ∧ farScrubs.job.far = true ∧ farScrubs.flag .scrubStatus 0 = true) := by
  refine ⟨⟨⟨⟨rfl, rfl⟩, rfl, ⟨_, rfl⟩, rfl⟩, ?_, ?_, rfl⟩, ⟨⟨⟨rfl, rfl⟩, rfl, ⟨_, rfl⟩, rfl⟩, ?_, ?_⟩,
    ⟨⟨rfl, rfl⟩, ?_, ?_, ?_, rfl, ?_, ?_⟩, ⟨rfl, ?_, rfl, ?_, rfl⟩, ⟨rfl, rfl⟩, rfl, ?_⟩ <;> decide +kernel

/-- JobsAndRerigsComplete: a delta in the near bank is fetched, one beyond it is not, and a re-rig in progress ends. -/
theorem witness_rerig :
    (ready.takes boot .rerigCmd 1 ∧ inFetch true 0 64 = true ∧ fine (readPhys ⟨0x180, true⟩ 0 64) ready = true) ∧
    (inFetch true heartBase 64 = false ∧ fine (checkAcc ⟨0x180, true⟩ .rd heartBase 64) ready = true) ∧
    endsIn (rerigEnd 5 []) { ready with rerig := some ([], true) } (fun u => !u.pcie.inReset) = true := by
  refine ⟨⟨⟨⟨rfl, rfl⟩, rfl, ⟨_, rfl⟩, rfl⟩, ?_, ?_⟩, ⟨?_, ?_⟩, ?_⟩ <;> decide +kernel

/-- Queue q runs from address 0 of the near bank, with one entry of the bytes b. -/
def queueOf (s : State) (q : Nat) (b : List Byte) : State :=
  let s := granting (.grove 0) 0 s
  ((s.setReg (.qctxBase q) (BitVec.ofNat 64 (4 <<< 52 + 1 <<< 56))).setFld (.qctxPtr q) 32 32 1).store 0 b

/-- A command record of an OP at SEQ 0. -/
def recordOf (op : Nat) : List Byte := [0, 0, BitVec.ofNat 8 op, 0] ++ List.replicate 60 0

/-- DispatchersComplete: a record of each OP at HEAD of queue 0. -/
theorem witness_dispatchers : ∀ op ∈ [1, 2, 3],
    let s := queueOf inJob 0 (recordOf op)
    s.live ∧ s.owner 0 = 0 ∧ s.jobRuns = true ∧ s.flag .partState 0 = false ∧ s.dispHeld 0 = false ∧ s.dispTurn 0 = some 0 ∧
      aread false s.barriers 0 = false ∧ (∃ u, headEntry 0 s = .ok (some (recordOf op)) u) ∧ recordOk (recordOf op) = true ∧
      leAt (recordOf op) 2 1 = op ∧ s.itemsOf 0 = [] ∧ s.placement 0 (fun _ => true) = some 0 := by
  intro op h
  have g : (op = 1 ∨ op = 2) ∨ op = 3 := by simp at h; omega
  rcases g with (rfl | rfl) | rfl <;>
    exact ⟨⟨rfl, rfl⟩, by decide +kernel, by decide +kernel, by decide +kernel, by decide +kernel, by decide +kernel,
      by decide +kernel, gives_ok (by decide +kernel), by decide +kernel, by decide +kernel, by decide +kernel, by decide +kernel⟩

/-- A manifest of one descriptor at HEAD of queue 0 of ferry 0. -/
def manifestHeader : List Byte := [0, 0, 1, 0] ++ List.replicate 60 0

/-- The manifest waits for ferry 0. -/
def listed : State := queueOf inJob 0x800 manifestHeader

/-- Ferry 0 has the manifest in progress. -/
def ferrying : State := listed.begins 0 0 manifestHeader

/-- Ferry 0 has run the manifest's descriptor. -/
def ferried : State := ferrying.setFerry 0 ((ferrying.ferry 0).map fun m => { m with desc := 1 })

/-- An event queue holds one entry. -/
def eventsWait : State := (queueOf inJob 0x1C00 []).setFld (.qctxStat 0x1C00) 52 12 3

/-- Command queue 0 holds a RUN record. -/
def ringing : State := queueOf inJob 0 (recordOf 1)

/-- The record at HEAD of command queue 0 has SEQ 1 instead of 0. -/
def badSeq : State := queueOf inJob 0 (1 :: recordOf 1)

/-- DoorbellsAndQueueReportsComplete: bells of a command queue and of an event queue that go forward, room for EVENTS_LOST, and a
record of a wrong SEQ. -/
theorem witness_doorbells :
    (ringing.takes boot (.doorbell 0) 16 ∧ ringing.bellRefused true 0 = false ∧ ringing.qTail 0 = 1 ∧ ringing.qHead 0 = 0) ∧
    (eventsWait.takes boot (.doorbell 0x1C00) 1 ∧ eventsWait.bellRefused true 0x1C00 = false ∧ eventsWait.qTail 0x1C00 = 1 ∧
      eventsWait.qHead 0x1C00 = 0) ∧
    (aread [] eventsWait.heldEvents 0x1C00 = [] ∧ eventsWait.qState 0x1C00 ≠ 0 ∧ 0 < eventsWait.qRoom 0x1C00 ∧
      eventsWait.fld (.qctxStat 0x1C00) 52 12 ≠ 0) ∧
    (badSeq.qState 0 = 1 ∧ badSeq.qHead 0 ≠ badSeq.qTail 0 ∧
      ∃ b u, readPhys (badSeq.qReq 0) (badSeq.qAddr 0 0) 64 badSeq = .ok (.ok (b, false)) u ∧ leAt b 0 2 ≠ 0) := by
  refine ⟨⟨⟨⟨rfl, rfl⟩, rfl, ⟨_, rfl⟩, rfl⟩, ?_, ?_, ?_⟩, ⟨⟨⟨rfl, rfl⟩, rfl, ⟨_, rfl⟩, rfl⟩, ?_, ?_, ?_⟩, ⟨?_, ?_, ?_, ?_⟩, ?_, ?_, ?_⟩
  case refine_13 =>
    have h : (match readPhys (badSeq.qReq 0) (badSeq.qAddr 0 0) 64 badSeq with
      | .ok (.ok (b, p)) _ => !p && leAt b 0 2 != 0
      | _ => false) = true := by decide +kernel
    split at h
    · next b p u hb =>
      simp only [Bool.and_eq_true, Bool.not_eq_true', bne_iff_ne] at h
      obtain ⟨rfl, h⟩ := h
      exact ⟨b, u, hb, h⟩
    · cases h
  all_goals decide +kernel

/-- FerryCommandsComplete: a header whose turn it is, a descriptor to run, and a manifest that has run. -/
theorem witness_ferries :
    (listed.live ∧ listed.ferry 0 = none ∧ listed.testing 7 0 = false ∧ listed.ferryTurn 0 = some 0x800 ∧
      (∃ u, headEntry 0x800 { listed with turns := awrite 0 listed.turns 8 0x801 } = .ok (some manifestHeader) u) ∧ headerOk manifestHeader = true ∧
      leAt manifestHeader 8 8 % 64 = 0) ∧
    (∃ m, ferrying.ferry 0 = some m ∧ m.desc < leAt m.header 2 2) ∧
    (ferried.live ∧ ∃ m, ferried.ferry 0 = some m ∧ leAt m.header 2 2 ≤ m.desc) := by
  refine ⟨⟨⟨rfl, rfl⟩, ?_, ?_, ?_, gives_ok ?_, ?_, ?_⟩, ⟨_, rfl, ?_⟩, ⟨rfl, rfl⟩, _, rfl, ?_⟩ <;> decide +kernel

/-- A corrected line of the heartwood of tree 0 waits to be written back. -/
def writesBack : State := State.reset.setTree 0 { State.reset.tree 0 with writebacks := [(31, 1023, false)] }

/-- The line that waits to be written back has been found uncorrectable. -/
def badLine : State := writesBack.setFlaw (heartOf 0 / 128 + 1023 * 32 + 31) { LineFlaw.none with bad := true }

/-- Thread 0 waits for far-bank port 0, which is not up. -/
def portWaits : State := State.reset.setThread 0 { State.reset.thread 0 with hold := .port 0 0x100_0000_0000 }

/-- MemoryTierCommandsComplete: the patrol scrubs of both tiers, a queued write-back, and a link with devices. -/
theorem witness_memory :
    (((State.reset.setFld (.nbScrub 0) 0 1 1).strikeNear 0 ⟨0, 14, 135, 1⟩).flag (.nbScrub 0) 0 = true ∧
      State.reset.flag (nbHealthOf 47) 6 = false ∧ (State.reset.setFld (nbHealthOf 47) 6 1 1).flag (nbHealthOf 47) 6 = true) ∧
    ((State.reset.setFld (.hwCfg 0) 2 1 1).flag (.hwCfg 0) 2 = true ∧
      fine (forAll (List.range 32) fun b => scrubBank 0 b 0) (State.reset.setFld (.hwCfg 0) 2 1 1) = true) ∧
    (((writesBack.tree 0).writebacks.find? fun e => e.1 = 31 ∧ e.2.1 = 1023) = some (31, 1023, false) ∧
      (writesBack.lineFlaw (heartOf 0 / 128 + 1023 * 32 + 31)).bad = false) ∧
    ((badLine.tree 0).writebacks = [(31, 1023, false)] ∧ (badLine.lineFlaw (heartOf 0 / 128 + 1023 * 32 + 31)).bad = true) ∧
    ({ State.reset with sects := [(5, [1])] } : State).farWord 0 % 4 ≠ 0 ∧
    (State.reset.setFld (.fbPort 0) 32 3 2).portUp 0 = true ∧
    (portWaits.live ∧ (portWaits.waitingOn 0)[0]? = some 0x100_0000_0000 ∧ portWaits.portUp 0 = false) := by
  refine ⟨⟨?_, ?_, ?_⟩, ⟨?_, ?_⟩, ⟨?_, ?_⟩, ⟨rfl, ?_⟩, ?_, ?_, ⟨rfl, rfl⟩, ?_, ?_⟩ <;> decide +kernel

/-- A CLEAN of the first line of the near bank is in progress in canopy 0. -/
def cleaning : State := { State.reset.setFld (.cmoStatus 0) 0 1 1 with cmos := [(0, ⟨1, false, 0, 128, 0⟩)] }

/-- MemoryTierCommandsComplete: cache maintenance of a line and of all lines, and its end. -/
theorem witness_caches :
    ((State.reset.setReg (.cmoLen 0) 128).live ∧ (State.reset.setReg (.cmoLen 0) 128).flag (.cmoStatus 0) 0 = false) ∧
    (State.reset.setReg (.cmoLen 0) 128).takes boot (.cmoCmd 0) 8 ∧ (State.reset.setReg (.cmoLen 0) 128).takes boot (.cmoCmd 0) 13 ∧
    State.reset.takes boot (.cmoCmd 0) 15 ∧
    (cleaning.live ∧ aget cleaning.cmos 0 = some ⟨1, false, 0, 128, 0⟩ ∧ fine cmoGo cleaning = true) := by
  refine ⟨⟨⟨rfl, rfl⟩, by decide +kernel⟩, ⟨⟨rfl, rfl⟩, rfl, ⟨_, rfl⟩, rfl⟩, ⟨⟨rfl, rfl⟩, rfl, ⟨_, rfl⟩, rfl⟩,
    ⟨⟨rfl, rfl⟩, rfl, ⟨_, rfl⟩, rfl⟩, ⟨rfl, rfl⟩, rfl, by decide +kernel⟩

/-- TranslationCommandsComplete: an invalidation, a translation awaited, and a page request awaited. -/
theorem witness_translations :
    (State.reset.setReg .tlbInvLen 0x1000).takes boot .tlbInvCmd 8 ∧ State.reset.takes boot .tlbInvCmd 13 ∧
    State.reset.takes boot .tlbInvCmd 10 ∧
    (∃ q, aget ({ State.reset with atsReqs := [(0, ⟨some (.thread t0), 0, false, true, 0, true, false, []⟩)] } : State).atsReqs 0 =
      some q ∧ q.wr = true ∧ q.gone = []) ∧
    (∃ q, aget ({ State.reset with pageReqs := [(0, ⟨some (.thread t0), 0, false, true, 0, true⟩)] } : State).pageReqs 0 = some q ∧
      q.who = some (.thread t0)) :=
  ⟨⟨⟨rfl, rfl⟩, rfl, ⟨_, rfl⟩, rfl⟩, ⟨⟨rfl, rfl⟩, rfl, ⟨_, rfl⟩, rfl⟩, ⟨⟨rfl, rfl⟩, rfl, ⟨_, rfl⟩, rfl⟩, ⟨_, rfl, rfl, rfl⟩, _, rfl, rfl⟩

/-! Well-formedness: for each check a command that it refuses, beside one that it lets pass. -/

/-- A NOP is MAJOR 1, MINOR 0. -/
theorem test_wf_nop : (Instr.nop t0 (bare 0x01000000)).wf = true := by decide

/-- A NOP with another MAJOR, or another MINOR, is ill formed. -/
theorem test_wf_nop_bad : (Instr.nop t0 (bare 0x02000000)).wf = false ∧ (Instr.nop t0 (bare 0x01040000)).wf = false := by decide

/-- A row that is a whole MAJOR refuses another MAJOR (BCC is MAJOR 3). -/
theorem test_wf_major : (Instr.bcc t0 (bare 0x033C0000)).wf = true ∧ (Instr.bcc t0 (bare 0x043C0000)).wf = false := by decide

/-- ZEXT has MINOR 4 to 7, SEXT 8 to 11. -/
theorem test_wf_extensions : (Instr.zext t0 (bare 0x1E100000)).wf = true ∧ (Instr.zext t0 (bare 0x1E200000)).wf = false ∧
    (Instr.sext t0 (bare 0x1E200000)).wf = true ∧ (Instr.sext t0 (bare 0x1E300000)).wf = false := by decide

/-- A vector row is its MAJOR and SUB, of four bits or, with rounding, of one. -/
theorem test_wf_vectors : (Instr.vsub t0 (bare 0x80001000)).wf = true ∧ (Instr.vsub t0 (bare 0x80002000)).wf = false ∧
    (Instr.vfsub t0 (bare 0x88001000)).wf = true ∧ (Instr.vfsub t0 (bare 0x88000000)).wf = false ∧
    (Instr.vadd t0 (bare 0x81000000)).wf = false := by decide

/-- Only a master ID of Table: Master IDs is issued: 0x141 is none. -/
theorem test_wf_masters : (Instr.jobStart boot).wf = true ∧ (Instr.jobStart ⟨0x141, true⟩).wf = false := by decide

/-- A doorbell's width is 1, 2, 4 or 8 bytes; the event queues' are their HEADs, the others' their TAILs. -/
theorem test_wf_doorbells : (Instr.doorbellTail boot 0 4 1).wf = true ∧ (Instr.doorbellTail boot 0 3 1).wf = false ∧
    (Instr.doorbellTail boot 0x1C00 4 1).wf = false ∧ (Instr.doorbellHead boot 0x1C00 4 1).wf = true ∧
    (Instr.doorbellHead boot 0 4 1).wf = false := by decide

/-- A register access has a width of 1, 2, 4 or 8 bytes. -/
theorem test_wf_widths : (Instr.readReg 0 4).wf = true ∧ (Instr.readReg 0 5).wf = false ∧ (Instr.writeReg 0 16 0).wf = false ∧
    (Instr.dbgAccess 0 false 7 0).wf = false := by decide

/-- A peer found in training has a lane in use, and 16 exchanges with it are timed; a DATA flit has 156 bytes of content. -/
theorem test_wf_links : (Instr.landingTrain 0 ⟨⟨1, 0, 1, 0, false, 0⟩, List.replicate 16 (8, 0)⟩).wf = false ∧
    (Instr.landingTrain 0 ⟨⟨1, 0, 1, 0, false, 15⟩, []⟩).wf = false ∧ (Instr.data 0 0 0 ⟨[1], 0, []⟩).wf = false := by decide

/-- A packet is of its row's type, and carries LEN bytes; a READREQ carries none. -/
theorem test_wf_packets :
    let p : Packet := ⟨0, 1, 1, 5, false, 2, 0, 0, 0, 0, [1, 2], 0⟩
    (Instr.pktWrite 0 p).wf = true ∧ (Instr.readreq 0 p).wf = false ∧ (Instr.pktWrite 0 { p with len := 3 }).wf = false ∧
      (Instr.readreq 0 { p with type := 2 }).wf = false := by decide

/-- Lengths of what comes over the management interfaces, BAR2 and the monitors. -/
theorem test_wf_lengths : (Instr.bar2Access 0 true 4 [1]).wf = false ∧ (Instr.readIncidents 0 9).wf = false ∧
    (Instr.debugToken [1]).wf = false ∧ (Instr.pldmSensorUpdate [1]).wf = false ∧ (Instr.dbgToken [1]).wf = false ∧
    (Instr.thermSample [1]).wf = false ∧ (Instr.fbLinkUp 0 [1, 1, 1, 1, 1]).wf = false := by decide

/-! Facts that the spec states. -/

/-- An 8-bit sum of 0xFF and 1 is 0 with Z and C, and without N and V (R101). -/
theorem test_add_wraps : aluAdd 8 0xFF 1 0 = ⟨0, true, false, true, false⟩ := by decide

/-- 0x7F + 1 overflows into the sign (R101). -/
theorem test_add_overflows : aluAdd 8 0x7F 1 0 = ⟨0x80, false, true, false, true⟩ := by decide

/-- A subtraction borrows into C (R101). -/
theorem test_sub_borrows : (aluSub 8 1 2 0).v = 0xFF ∧ (aluSub 8 1 2 0).c = true := by decide

/-- The worked example of R112: "123456789" through CRC32C, inverted at both ends, and through CRC64. -/
theorem test_crc_example : 2 ^ 32 - 1 - crc32c 0xFFFF_FFFF [0x31, 0x32, 0x33, 0x34, 0x35, 0x36, 0x37, 0x38, 0x39] = 0xE306_9283 ∧
    crc64 0 [0x31, 0x32, 0x33, 0x34, 0x35, 0x36, 0x37, 0x38, 0x39] = 0x6C40_DF5F_0B49_7347 := by decide +kernel

/-- The worked example of the address map: tree 37's heartwood and registers, and grove 4's registers, with their BAR0 offsets (R13,
R17). -/
theorem test_map_example : heartOf 37 = 0xF0_0940_0000 ∧ Blk.base (.tree 37) = 0xF8_8250_0000 ∧ bar0 0x0E50_0000 = some 0xF8_8250_0000 ∧
    Blk.base (.grove 4) = 0xF8_1400_0000 ∧ bar0 0x0800_0000 = some 0xF8_1400_0000 := by decide +kernel

/-- The worked example of an encoding: the addresses of ADD.32 [P3 + 0x40], [P4 + P5 << 3 + 16], #7 (R87-R89). -/
theorem test_operands_example :
    (operands ⟨0x10020451, 0x30000040, 0x45600010, 7⟩ ⟨[0, 0, 0, 0x2000_0000, 0x2000_1000, 2], []⟩ 4 4 4 1 0 0).toOption.map
      (fun o => (o.d, o.a, o.b)) = some (.mem 0x2000_0040 false, .mem 0x2000_1020 false, .imm 7) := by decide +kernel

/-- Its result: 7 added to -4. -/
theorem test_add_example : aluAdd 32 0xFFFF_FFFC 7 0 = ⟨3, false, false, true, false⟩ := by decide

/-- The worked example of Q4: 3.1, -1.3, 9.0 and 22.0 quantise to scale 0x81 and the codes of 1.0, -0.5, 2.0 and 6.0 (R59). -/
theorem test_q4_example :
    let q := quantBlock 9 ⟨0, 16, false⟩ (fun _ => 0) ([.fin false 31 10, .fin true 13 10, .fin false 9 1, .fin false 22 1] ++
      List.replicate 28 (.fin false 0 1))
    q.scale = 0x81 ∧ q.codes.take 4 = [2, 9, 4, 7] := by decide +kernel

/-- The worked example of Q4X, without its elements of 0: -150 and 40 are escaped as BF16, and the scale stays (R61). -/
theorem test_q4x_example :
    let q := quantBlock 10 ⟨0, 16, false⟩ (fun _ => 0) [.fin false 31 10, .fin true 13 10, .fin false 9 1, .fin false 22 1, .fin true 150 1,
      .fin false 40 1]
    q.scale = 0x81 ∧ q.escs = [(4, 0xC316), (5, 0x4220)] := by decide +kernel

/-- The worked example of stochastic rounding: FP32 1.3 to E2M1 with 16 bits gives 1.5 below 39,321 and 1.0 from it on (R74). -/
theorem test_sr_example :
    (Fmt.e2m1.encode ⟨4, 16, false⟩ 39320 (Fmt.fp32.decode 0x3FA6_6666)).1 = 3 ∧
    (Fmt.e2m1.encode ⟨4, 16, false⟩ 39321 (Fmt.fp32.decode 0x3FA6_6666)).1 = 2 := by decide +kernel

/-! The statements about the machine as a whole, and about shared rules. -/

/-- StepRunsTheFrontCommand, EmptyQueueIdlesOneTick, StepKeepsMemoryCanonical and StepKeepsWaitingCommandsWellFormed: a NOP that
waits, and a step of the idle machine. -/
theorem witness_steps :
    (∃ c r, ({ State.reset with pending := [Instr.nop t0 (bare 0x01000000)] } : State).pending = c :: r) ∧ State.reset.pending = [] ∧
    State.reset.memWf = true ∧ (∃ t, step State.reset = .next t) ∧ (∀ c ∈ State.reset.pending, c.wf = true) :=
  ⟨⟨_, _, rfl⟩, rfl, rfl, ⟨_, rfl⟩, fun _ h => absurd h (List.not_mem_nil)⟩

/-- AdditionFollowsTheArithColumn, SubtractionFollowsTheArithColumn and ConditionCodesFollowTheTable: operands of 8 bits at their ends,
with a carry, and the last condition code. -/
theorem witness_arith : 0 < 8 ∧ 0xFF < 2 ^ 8 ∧ 0x80 < 2 ^ 8 ∧ 1 ≤ 1 ∧ 15 < 16 := by decide

/-- BitrevOperandFollowsItsWidth: widths 0 and 33, and widths 1 and 32 whose addresses are canonical. -/
theorem witness_bitrev :
    let x (k : Nat) : W32 := BitVec.ofNat 32 (k <<< 18)
    let p : Ptrs := ⟨List.replicate 16 0, []⟩
    field (x 0) 18 6 = 0 ∧ field (x 33) 18 6 = 33 ∧ ∀ k ∈ [1, 32], field (x k) 18 6 = k ∧
      canonical (wrap 64 ((p.get 0 : Int) + (brev k (p.get 0 % 2 ^ k) * 8 : Nat))) = true := by decide +kernel

/-- AccessTableDecidesByItsLowestRule: a master of group 0xFF, a table whose rules are off, and one whose rule 0 covers an address. -/
theorem witness_access_table :
    (State.reset.setReg (.accGroup 0) 0xFF).group 0 = 0xFF ∧ State.reset.group 0 < 32 ∧
    (∀ i < 64, ¬ ruleCovers State.reset (tableOf 0).1 (tableOf 0).2 i 0) ∧
    (granting (.grove 0) 0 State.reset).group 0 < 32 ∧
    ruleCovers (granting (.grove 0) 0 State.reset) (tableOf 0).1 (tableOf 0).2 0 0 := by
  unfold ruleCovers
  refine ⟨?_, ?_, ?_, ?_, ?_⟩ <;> decide +kernel

/-! The scalar instructions. -/

/-- A thread that is ready, and an instruction whose operands can be computed. -/
theorem issues_of {s : State} {w : IWord} {sl : Slots} {legal rep : Bool} {zd za zb i2 : Nat} (hr : s.Ready t0)
    (hb : bit ((s.begun 0).flags 0) 29 = false) (h : legal = true ∧ sl.judge w = .fine)
    (ho : (operands w ((s.begun 0).ptrs 0) zd za zb 1 i2 0).toBool = true) :
    s.issues t0 w sl legal rep zd za zb i2 (ops s w zd za zb i2) := by
  refine ⟨hr, ⟨h.1, h.2, fun c => ?_⟩, ?_⟩
  · change bit ((s.begun 0).flags 0) 29 = true at c
    rw [hb] at c
    cases c
  · unfold ops
    cases hc : operands w ((s.begun 0).ptrs 0) zd za zb 1 i2 0 with
    | ok o =>
      change operands w ((s.begun 0).ptrs 0) zd za zb 1 i2 0 = _
      rw [hc]
    | error e =>
      rw [hc] at ho
      cases ho

/-- CMP.8 [0x100], 5. -/
def cmpW : IWord := ⟨0x1D030021, 0, 0x100, 5⟩

/-- NEG.8 [0x100], [0x108]. -/
def negW : IWord := ⟨0x1F030220, 0x100, 0x108, 0⟩

/-- MOV.8 [0x100], [0x108]. -/
def movW : IWord := ⟨0x1E030220, 0x100, 0x108, 0⟩

/-- IntegerInstructionsComplete: a CMP, a NEG and a MOV whose operands can be read and written. -/
theorem witness_integer_others :
    (∃ o x u, awake.issues t0 cmpW ⟨noSlot, memSlot, immSlot⟩ (plain cmpW) true 8 8 8 0 o ∧ reads2 0 8 o (awake.begun 0) = .ok x u) ∧
    (∃ o a l u v, awake.issues t0 negW ⟨memSlot, memSlot, noSlot⟩ (plain negW) true 8 8 8 0 o ∧
      reads1To 0 8 o (awake.begun 0) = .ok (a, l) u ∧ writePlace 0 l (aluSub 64 0 a 0).v u = .ok () v) ∧
    (∃ o a p l u v, awake.issues t0 movW ⟨memSlot, immSlot, noSlot⟩ (plain movW) true 8 8 8 0 o ∧
      carries 0 8 8 o (awake.begun 0) = .ok ((a, p), l) u ∧ writeP 0 l (a % 2 ^ 64) p u = .ok () v) := by
  refine ⟨?_, ?_, ?_⟩
  · obtain ⟨x, u, h⟩ := fine_ok (m := reads2 0 8 (ops awake cmpW 8 8 8 0)) (s := awake.begun 0) (by decide +kernel)
    exact ⟨_, x, u, awake_issues (by decide +kernel) (by decide +kernel), h⟩
  · obtain ⟨⟨a, l⟩, u, h, h1⟩ := fine_bind (m := reads1To 0 8 (ops awake negW 8 8 8 0))
      (f := fun x => writePlace 0 x.2 (aluSub 64 0 x.1 0).v) (s := awake.begun 0) (by decide +kernel)
    obtain ⟨_, v, h2⟩ := fine_ok h1
    exact ⟨_, a, l, u, v, awake_issues (by decide +kernel) (by decide +kernel), h, h2⟩
  · obtain ⟨⟨⟨a, p⟩, l⟩, u, h, h1⟩ := fine_bind (m := carries 0 8 8 (ops awake movW 8 8 8 0))
      (f := fun x => writeP 0 x.2 (x.1.1 % 2 ^ 64) x.1.2) (s := awake.begun 0) (by decide +kernel)
    obtain ⟨_, v, h2⟩ := fine_ok h1
    exact ⟨_, a, p, l, u, v, awake_issues (by decide +kernel) (by decide +kernel), h, h2⟩

/-- AADD.8 [0x100], 5, [0x108]. -/
def aaddW : IWord := ⟨0x500B0212, 0x100, 5, 0x108⟩

/-- CAS.8 [0x100], [0x108], [0x110]. -/
def casW : IWord := ⟨0x50070222, 0x100, 0x108, 0x110⟩

/-- AtomicInstructionsComplete: an AADD, and a CAS that finds its target equal. -/
theorem witness_atomics :
    (∃ o a old b d u v x, awake.issues t0 aaddW ⟨memSlot, immSlot, memSlot⟩ (plain aaddW && 2 ≤ aaddW.size) true 8 8 8 0 o ∧
      atomReads 0 aaddW 8 o (awake.begun 0) = .ok (a, old, b, d) u ∧ writeP 0 b old.1 old.2 u = .ok () v ∧
      atomWrite 0 d (toLE (old.1 + a.1) 8) (a.2.or old.2).isSome v = .ok () x) ∧
    (∃ o a la b old d u v, awake.issues t0 casW ⟨memSlot, memSlot, memSlot⟩ (plain casW && 2 ≤ casW.size) true 8 8 8 0 o ∧
      casReads 0 casW 8 o (awake.begun 0) = .ok (a, la, b, (old, none), d) u ∧
      (if old = a then atomWrite 0 d (toLE b.1 8) b.2.isSome else writePlace 0 la old) u = .ok () v) := by
  refine ⟨?_, ?_⟩
  · obtain ⟨⟨a, old, b, d⟩, u, h, h1⟩ := fine_bind (m := atomReads 0 aaddW 8 (ops awake aaddW 8 8 8 0))
      (f := fun x => writeP 0 x.2.2.1 x.2.1.1 x.2.1.2 >>= fun _ =>
        atomWrite 0 x.2.2.2 (toLE (x.2.1.1 + x.1.1) 8) (x.1.2.or x.2.1.2).isSome) (s := awake.begun 0) (by decide +kernel)
    obtain ⟨_, v, h2, h3⟩ := fine_bind h1
    obtain ⟨_, x, h4⟩ := fine_ok h3
    exact ⟨_, a, old, b, d, u, v, x, awake_issues (by decide +kernel) (by decide +kernel), h, h2, h4⟩
  · have h : (match casReads 0 casW 8 (ops awake casW 8 8 8 0) (awake.begun 0) with
      | .ok (a, la, b, (old, none), d) u => fine (if old = a then atomWrite 0 d (toLE b.1 8) b.2.isSome else writePlace 0 la old) u
      | _ => false) = true := by decide +kernel
    split at h
    · next a la b old d u hu =>
      obtain ⟨_, v, h2⟩ := fine_ok h
      exact ⟨_, a, la, b, old, d, u, v, awake_issues (by decide +kernel) (by decide +kernel), hu, h2⟩
    · cases h

/-- A two-operand instruction of a MAJOR and MINOR on [0x100] and 5. -/
def twoW (major minor : Nat) : IWord := ⟨BitVec.ofNat 32 (major <<< 24 + minor <<< 18 + 0x30021), 0, 0x100, 5⟩

/-- MultipliesAndDividesStart, and ScalarFaultsEnterTheirVectors for a divisor of 0: a MULU, a DIVU by 5, and one by a zero. -/
theorem witness_multiplies :
    (∃ o x u, awake.issues t0 (twoW 0x20 1) ⟨noSlot, memSlot, immSlot⟩ (plain (twoW 0x20 1)) true 8 8 8 0 o ∧
      reads2 0 8 o (awake.begun 0) = .ok x u) ∧
    (∃ o a b u, awake.issues t0 (twoW 0x21 1) ⟨noSlot, memSlot, immSlot⟩ (plain (twoW 0x21 1)) true 8 8 8 0 o ∧
      reads2 0 8 o (awake.begun 0) = .ok (a, b) u ∧ ext64 false 64 b ≠ 0 ∧ (u.thread 0).div = none) := by
  refine ⟨?_, ?_⟩
  · obtain ⟨x, u, h⟩ := fine_ok (m := reads2 0 8 (ops awake (twoW 0x20 1) 8 8 8 0)) (s := awake.begun 0) (by decide +kernel)
    exact ⟨_, x, u, awake_issues (by decide +kernel) (by decide +kernel), h⟩
  · have h : (match reads2 0 8 (ops awake (twoW 0x21 1) 8 8 8 0) (awake.begun 0) with
      | .ok (_, b) u => decide (ext64 false 64 b ≠ 0 ∧ (u.thread 0).div = none)
      | _ => false) = true := by decide +kernel
    split at h
    · next a b u hu => exact ⟨_, a, b, u, awake_issues (by decide +kernel) (by decide +kernel), hu, of_decide_eq_true h⟩
    · cases h

/-- CRC32C.4 [0x100], [0x108]. -/
def crcW : IWord := ⟨0x28020220, 0x100, 0x108, 0⟩

/-- CrcInstructionsComplete. -/
theorem witness_crc : ∃ o a p c q l u v, awake.issues t0 crcW ⟨memSlot, memSlot, noSlot⟩ (plain crcW) true 4 4 4 0 o ∧
    crcReads 0 4 4 o (awake.begun 0) = .ok ((a, p), (c, q), l) u ∧ writeP 0 l (crc32c c (toLE a 4)) (p.or q) u = .ok () v := by
  obtain ⟨⟨⟨a, p⟩, ⟨c, q⟩, l⟩, u, h, h1⟩ := fine_bind (m := crcReads 0 4 4 (ops awake crcW 4 4 4 0))
    (f := fun x => writeP 0 x.2.2 (crc32c x.2.1.1 (toLE x.1.1 4)) (x.1.2.or x.2.1.2)) (s := awake.begun 0) (by decide +kernel)
  obtain ⟨_, v, h2⟩ := fine_ok h1
  exact ⟨_, a, p, c, q, l, u, v, awake_issues (by decide +kernel) (by decide +kernel), h, h2⟩

/-- FMA.8 [0x100], [0x108], 1.0, whose b is an immediate. -/
def fmaW : IWord := ⟨0x32030221, 0x100, 0x108, 0x3F800000⟩

/-- FCMP.8 [0x100], 1.0. -/
def fcmpW : IWord := ⟨0x34030021, 0, 0x100, 0x3F800000⟩

/-- CVT [0x100], [0x108], from BF16 to FP32. -/
def cvtW : IWord := ⟨0x35130220, 0x100, 0x108, 0⟩

/-- What CVT checks and reads. -/
def cvtReads (o : Opnds) : M ((Nat × Option Nat) × Place × Rnd × Nat) := do
  let a ← srcOf 0 o.a 2
  let l ← placeOf 0 o.d .write 4
  let a ← readP 0 a
  return (a, l, ← scalarRnd 0 cvtW)

/-- What FCMP reads. -/
def fcmpReads (o : Opnds) : M ((Val × Option Nat) × (Val × Option Nat)) := do
  let a ← fpVal 0 fcmpW o.a
  let b ← fpVal 0 fcmpW o.b
  return (← a, ← b)

/-- FloatingPointInstructionsComplete: an FMA, an FCMP and a CVT. -/
theorem witness_floats :
    (∃ o a b d q l p r u v x, awake.issues t0 fmaW ⟨memSlot, memSlot, immSlot⟩ (roundsOk fmaW && 2 ≤ fmaW.size) true 8 8 8 0 o ∧
      floatReads 0 fmaW o true (awake.begun 0) = .ok ((a, b, d), q, l, p, r) u ∧
      writeP 0 l ((sizeFmt fmaW).fin p r (a.fma p.rdn b d)).1 q u = .ok () v ∧
      whenM q.isNone (reportHere 0 ((sizeFmt fmaW).fin p r (a.fma p.rdn b d)).2) (v.putPtrs 0 o.p) = .ok () x) ∧
    (∃ o a b u x, awake.issues t0 fcmpW ⟨noSlot, memSlot, immSlot⟩ (plain fcmpW && 2 ≤ fcmpW.size) true 8 8 8 0 o ∧
      fcmpReads o (awake.begun 0) = .ok ((a, none), (b, none)) u ∧ reportHere 0 (sigs [a, b]) (u.putPtrs 0 o.p) = .ok () x) ∧
    (∃ o a q l p r u v x, awake.issues t0 cvtW ⟨memSlot, memSlot, noSlot⟩ (roundsOk cvtW && cvtFmt 1 && cvtFmt 3) true 4 2 2 0 o ∧
      cvtReads o (awake.begun 0) = .ok ((a, q), l, p, r) u ∧
      writeP 0 l (codeFrom 3 1 p r (elemVal 3 1 (toLE a 2) [] 0).1).1 q u = .ok () v ∧
      whenM q.isNone (reportHere 0 (codeFrom 3 1 p r (elemVal 3 1 (toLE a 2) [] 0).1).2) (v.putPtrs 0 o.p) = .ok () x) := by
  refine ⟨?_, ?_, ?_⟩
  · obtain ⟨⟨⟨a, b, d⟩, q, l, p, r⟩, u, h, h1⟩ := fine_bind (m := floatReads 0 fmaW (ops awake fmaW 8 8 8 0) true)
      (f := fun x => writeP 0 x.2.2.1 ((sizeFmt fmaW).fin x.2.2.2.1 x.2.2.2.2 (x.1.1.fma x.2.2.2.1.rdn x.1.2.1 x.1.2.2)).1 x.2.1
        >>= fun _ => modify (fun v => v.putPtrs 0 (ops awake fmaW 8 8 8 0).p) >>= fun _ => whenM x.2.1.isNone
        (reportHere 0 ((sizeFmt fmaW).fin x.2.2.2.1 x.2.2.2.2 (x.1.1.fma x.2.2.2.1.rdn x.1.2.1 x.1.2.2)).2))
      (s := awake.begun 0) (by decide +kernel)
    obtain ⟨_, v, h2, h3⟩ := fine_bind h1
    obtain ⟨_, x, h4, h5⟩ := fine_bind h3
    cases h4
    obtain ⟨_, y, h6⟩ := fine_ok h5
    exact ⟨_, a, b, d, q, l, p, r, u, v, y, awake_issues (by decide +kernel) (by decide +kernel), h, h2, h6⟩
  · have h : (match fcmpReads (ops awake fcmpW 8 8 8 0) (awake.begun 0) with
      | .ok ((a, none), (b, none)) u => fine (reportHere 0 (sigs [a, b])) (u.putPtrs 0 (ops awake fcmpW 8 8 8 0).p)
      | _ => false) = true := by decide +kernel
    split at h
    · next a b u hu =>
      obtain ⟨_, x, h2⟩ := fine_ok h
      exact ⟨_, a, b, u, x, awake_issues (by decide +kernel) (by decide +kernel), hu, h2⟩
    · cases h
  · obtain ⟨⟨⟨a, q⟩, l, p, r⟩, u, h, h1⟩ := fine_bind (m := cvtReads (ops awake cvtW 4 2 2 0))
      (f := fun x => writeP 0 x.2.1 (codeFrom 3 1 x.2.2.1 x.2.2.2 (elemVal 3 1 (toLE x.1.1 2) [] 0).1).1 x.1.2 >>= fun _ =>
        modify (fun v => v.putPtrs 0 (ops awake cvtW 4 2 2 0).p) >>= fun _ => whenM x.1.2.isNone
        (reportHere 0 (codeFrom 3 1 x.2.2.1 x.2.2.2 (elemVal 3 1 (toLE x.1.1 2) [] 0).1).2)) (s := awake.begun 0) (by decide +kernel)
    obtain ⟨_, v, h2, h3⟩ := fine_bind h1
    obtain ⟨_, x, h4, h5⟩ := fine_bind h3
    cases h4
    obtain ⟨_, y, h6⟩ := fine_ok h5
    exact ⟨_, a, q, l, p, r, u, v, y, awake_issues (by decide +kernel) (by decide +kernel), h, h2, h6⟩

/-! Control flow, changes of world and level, exceptions. -/

/-- SP of the thread is 0x1000, where the frame of an exception with PC 0x100 lies. -/
def stacked : State := (awake.setReg (thr 0 15) 0x1000).store (heartBase + 0x1000) [0, 1]

theorem stacked_ready : stacked.Ready t0 := by
  refine ⟨⟨rfl, rfl⟩, ?_, ?_, ?_, .inr (.inr ⟨?_, ?_⟩)⟩ <;> decide +kernel

/-- A one-operand instruction of a MAJOR, MINOR and SIZE 8 with an immediate. -/
def oneW (major minor : Nat) (v : W32) : IWord := ⟨BitVec.ofNat 32 (major <<< 24 + minor <<< 18 + 0x30010), 0, v, 0⟩

/-- A one-operand instruction on [0x100]. -/
def memW (major minor : Nat) : IWord := ⟨BitVec.ofNat 32 (major <<< 24 + minor <<< 18 + 0x30020), 0, 0x100, 0⟩

/-- ControlFlowInstructionsComplete: NOP and the fences, a BR and a BCC to PC + 16, a CALL, and a RET. -/
theorem witness_control :
    (∃ o, stacked.issues t0 (bare 0x01000000) noSlots (plain (bare 0x01000000)) false 1 1 1 0 o) ∧
    (∃ o, stacked.issues t0 (bare 0x06040000) noSlots (plain (bare 0x06040000)) false 1 1 1 0 o ∧ (stacked.begun 0).engBusy 0 = false) ∧
    (∃ o a, stacked.issues t0 (oneW 2 0 16) oneSlot (plain (oneW 2 0 16)) false 8 8 8 2 o ∧
      (stacked.begun 0).targetOf 0 o.a = some a ∧ canonical a = true ∧ a % 4 = 0) ∧
    (∃ o a, stacked.issues t0 (oneW 3 14 16) oneSlot (plain (oneW 3 14 16) && (oneW 3 14 16).minor < 16) false 8 8 8 2 o ∧
      (stacked.begun 0).targetOf 0 o.a = some a ∧ canonical a = true ∧ a % 4 = 0) ∧
    (∃ o a l u v, stacked.issues t0 (oneW 4 0 16) oneSlot (plain (oneW 4 0 16)) false 8 8 8 2 o ∧
      (stacked.begun 0).targetOf 0 o.a = some a ∧ canonical a = true ∧ a % 4 = 0 ∧ canonical (below (o.p.get 15) 8) = true ∧
      placeOf 0 (.mem (below (o.p.get 15) 8) false) .write 8 (stacked.begun 0) = .ok l u ∧
      writePlace 0 l (above (u.pc 0) 8) u = .ok () v) ∧
    (∃ o l u a v, stacked.issues t0 (bare 0x05000000) noSlots (plain (bare 0x05000000)) false 1 1 1 0 o ∧
      canonical (o.p.get 15) = true ∧ placeOf 0 (.mem (o.p.get 15) false) .read 8 (stacked.begun 0) = .ok l u ∧
      readSrc 0 (.at l) u = .ok a v ∧ canonical a = true ∧ a % 4 = 0) := by
  have hi {w sl legal rep zd za zb i2} (h : legal = true ∧ Slots.judge sl w = .fine)
      (ho : (operands w ((stacked.begun 0).ptrs 0) zd za zb 1 i2 0).toBool = true) :
      stacked.issues t0 w sl legal rep zd za zb i2 (ops stacked w zd za zb i2) :=
    issues_of stacked_ready (by decide +kernel) h ho
  refine ⟨⟨_, hi (by decide +kernel) (by decide +kernel)⟩, ⟨_, hi (by decide +kernel) (by decide +kernel), by decide +kernel⟩,
    ⟨_, 16, hi (by decide +kernel) (by decide +kernel), by decide +kernel, by decide +kernel, rfl⟩,
    ⟨_, 16, hi (by decide +kernel) (by decide +kernel), by decide +kernel, by decide +kernel, rfl⟩, ?_, ?_⟩
  · obtain ⟨l, u, h, h1⟩ := fine_bind (m := placeOf 0 (.mem (below ((ops stacked (oneW 4 0 16) 8 8 8 2).p.get 15) 8) false) .write 8)
      (f := fun l => get >>= fun u => writePlace 0 l (above (u.pc 0) 8)) (s := stacked.begun 0) (by decide +kernel)
    obtain ⟨_, v, h2, h3⟩ := fine_bind h1
    cases h2
    obtain ⟨_, x, h4⟩ := fine_ok h3
    exact ⟨_, 16, l, u, x, hi (by decide +kernel) (by decide +kernel), by decide +kernel, by decide +kernel, rfl, by decide +kernel, h, h4⟩
  · obtain ⟨l, u, h, h1⟩ := fine_bind (m := placeOf 0 (.mem ((ops stacked (bare 0x05000000) 1 1 1 0).p.get 15) false) .read 8)
      (f := fun l => readSrc 0 (.at l) >>= fun a => if canonical a && a % 4 == 0 then skip else throw (flt 0 0 0 0))
      (s := stacked.begun 0) (by decide +kernel)
    obtain ⟨a, v, h2, h3⟩ := fine_bind h1
    have h4 : (canonical a && a % 4 == 0) = true := by
      cases hc : (canonical a && a % 4 == 0)
      · rw [hc] at h3
        cases h3
      · rfl
    rw [Bool.and_eq_true, beq_iff_eq] at h4
    exact ⟨_, l, u, a, v, hi (by decide +kernel) (by decide +kernel), by decide +kernel, h, h2, h4⟩

/-- Gates are open. -/
def gated : State := stacked.setReg (.gateMask 0) 1

/-- A frame can be written. -/
def enterableNow (s : State) (e : Exn) (p : Ptrs) : Bool :=
  !s.engBusy 0 && !(s.landed 0).flag (excReg 0) 0 &&
    gives (writeFrame 0 ((s.landed 0).excWorld 0 e) ((s.landed 0).excFrame 0 e p) ((s.landed 0).excBytes 0 e p)) (s.landed 0) none

/-- A frame can be written, and no ARITH is pending. -/
def enterable (s : State) (e : Exn) (p : Ptrs) : Bool := !s.flag (excReg 0) 2 && enterableNow s e p

theorem entersNow_of {s : State} {e : Exn} {p : Ptrs} (h : enterableNow s e p = true) : ∃ v, s.entersNow 0 e p v := by
  simp only [enterableNow, Bool.and_eq_true, Bool.not_eq_true'] at h
  obtain ⟨⟨h1, h3⟩, h4⟩ := h
  obtain ⟨u, hu⟩ := gives_ok h4
  exact ⟨_, h1, h3, u, hu, rfl⟩

theorem enters_of {s : State} {e : Exn} {p : Ptrs} (h : enterable s e p = true) : ∃ v, s.enters 0 e p v := by
  simp only [enterable, Bool.and_eq_true, Bool.not_eq_true'] at h
  obtain ⟨v, hv⟩ := entersNow_of h.2
  exact ⟨v, h.1, hv⟩

theorem entersArith_of {s : State} (h : (s.flag (excReg 0) 2 && enterableNow s ((s.landed 0).arith 0) ((s.landed 0).ptrs 0)) = true) :
    ∃ v, s.entersArith 0 v := by
  simp only [Bool.and_eq_true] at h
  obtain ⟨v, hv⟩ := entersNow_of h.2
  exact ⟨_, h.1, v, hv, rfl⟩

/-- ModeChangesComplete: a GATE through gate 0, a TRAP, an ERET from the frame at SP, and a PARK. -/
theorem witness_modes :
    (∃ o v, gated.issues t0 (memW 9 0) ⟨noSlot, memSlot, noSlot⟩ (plain (memW 9 0)) false 8 8 8 0 o ∧ (∀ x, o.a ≠ .imm x) ∧
      (gated.begun 0).targetOf 0 o.a = some 0x100 ∧ (gated.begun 0).flag (.gateMask 0) (memW 9 0).minor = true ∧
      (gated.begun 0).enters 0 ⟨0x0C, 0, 0x100, 0, false, false, above ((gated.begun 0).pc 0) 8,
        some (above (va57 ((gated.begun 0).reg (.gateBase 0)).toNat) 0)⟩ ((gated.begun 0).ptrs 0) v) ∧
    (∃ o x u1 a u v, stacked.issues t0 (oneW 11 0 7) oneSlot (plain (oneW 11 0 7)) false 8 8 8 0 o ∧
      srcOf 0 o.a 8 (stacked.begun 0) = .ok x u1 ∧ readSrc 0 x u1 = .ok a u ∧
      u.enters 0 ⟨0x0B, 0, BitVec.ofNat 64 a, 0, false, false, above (u.pc 0) 8, none⟩ o.p v) ∧
    (∃ o l u n v, stacked.issues t0 (bare 0x0A000000) noSlots (plain (bare 0x0A000000)) false 1 1 1 0 o ∧
      bit ((stacked.begun 0).flags 0) 33 = true ∧ (stacked.begun 0).engBusy 0 = false ∧ canonical (o.p.get 15) = true ∧
      placeOf 0 (.mem (o.p.get 15) false) .read 64 (stacked.begun 0) = .ok l u ∧ readSrc 0 (.at l) u = .ok n v ∧
      leAt (toLE n 64) 0 8 = 0x100 ∧ leAt (toLE n 64) 8 8 = 0) ∧
    (stacked.Ready t0 ∧ bit ((stacked.begun 0).flags 0) 34 = true ∧ bit ((stacked.begun 0).flags 0) 33 = true ∧
      (stacked.begun 0).encodes 0 (bare 0xE0000000) noSlots (plain (bare 0xE0000000) && (bare 0xE0000000).minor = 0) false ∧
      (stacked.begun 0).engBusy 0 = false) := by
  refine ⟨?_, ?_, ?_, stacked_ready, ?_, ?_, ⟨?_, ?_, ?_⟩, ?_⟩
  · obtain ⟨v, h⟩ := enters_of (s := gated.begun 0) (e := ⟨0x0C, 0, 0x100, 0, false, false, above ((gated.begun 0).pc 0) 8,
        some (above (va57 ((gated.begun 0).reg (.gateBase 0)).toNat) 0)⟩) (p := (gated.begun 0).ptrs 0) (by decide +kernel)
    refine ⟨_, v, issues_of ⟨⟨rfl, rfl⟩, ?_, ?_, ?_, .inr (.inr ⟨?_, ?_⟩)⟩ ?_ ?_ ?_, ?_, ?_, ?_, h⟩
    case refine_9 =>
      have : (ops gated (memW 9 0) 8 8 8 0).a = .mem 0x100 false := by decide +kernel
      intro x
      rw [this]
      exact fun c => by cases c
    all_goals decide +kernel
  · have h : (match srcOf 0 (ops stacked (oneW 11 0 7) 8 8 8 0).a 8 (stacked.begun 0) with
      | .ok x u1 => (match readSrc 0 x u1 with
        | .ok a u => enterable u ⟨0x0B, 0, BitVec.ofNat 64 a, 0, false, false, above (u.pc 0) 8, none⟩ (ops stacked (oneW 11 0 7) 8 8 8 0).p
        | _ => false)
      | _ => false) = true := by decide +kernel
    split at h
    · next x u1 h1 =>
      split at h
      · next a u h2 =>
        obtain ⟨v, h3⟩ := enters_of h
        exact ⟨_, x, u1, a, u, v, issues_of stacked_ready (by decide +kernel) (by decide +kernel) (by decide +kernel), h1, h2, h3⟩
      · cases h
    · cases h
  · have h : (match placeOf 0 (.mem ((ops stacked (bare 0x0A000000) 1 1 1 0).p.get 15) false) .read 64 (stacked.begun 0) with
      | .ok l u => (match readSrc 0 (.at l) u with
        | .ok n _ => decide (leAt (toLE n 64) 0 8 = 0x100 ∧ leAt (toLE n 64) 8 8 = 0)
        | _ => false)
      | _ => false) = true := by decide +kernel
    split at h
    · next l u h1 =>
      split at h
      · next n v h2 =>
        exact ⟨_, l, u, n, v, issues_of stacked_ready (by decide +kernel) (by decide +kernel) (by decide +kernel), by decide +kernel,
          by decide +kernel, by decide +kernel, h1, h2, of_decide_eq_true h⟩
      · cases h
    · cases h
  all_goals decide +kernel

/-- A software interrupt of the Service world is pending, and its thread takes interrupts. -/
def interrupted : State :=
  ((stacked.setReg (.intPend 0 0) 0x100).setReg (.intEn 0 0) 0x100).setReg (thr 0 0x10) (BitVec.ofNat 64 (7 * 2 ^ 32))

/-- A fault of the thread is on its way. -/
def faulting : State := stacked.setThread 0 { stacked.thread 0 with raised := some ⟨1, 0, 5, 6, false, false⟩ }

/-- An ARITH of thread 0 is pending. -/
def arithPending : State := stacked.setFld (excReg 0) 2 1 1

/-- ExceptionsAndInterruptsEnter: an ILLEGAL_OPERAND on its way in and one that is raised, the pending ARITH, and INT_PEND bit 8. -/
theorem witness_exceptions :
    (stacked.live ∧ (stacked.thread 0).raised = none ∧ stacked.parked 0 = false ∧
      ∃ v, faulting.enters 0 ⟨1, 0, 5, 6, false, false, faulting.pc 0, none⟩ (faulting.ptrs 0) v) ∧
    (stacked.passes 0 ∧ ∃ v, stacked.raises 0 (stacked.wordVector 0 1 5) 0 5 6 false v) ∧
    (arithPending.atBoundary 0 = true ∧ ∃ v, arithPending.entersArith 0 v) ∧
    (interrupted.live ∧ interrupted.takable 0 = some 8 ∧ interrupted.atBoundary 0 = true ∧ interrupted.stalled 0 = false ∧
      ∃ v, interrupted.entersIrq 0 v) ∧
    (stacked.takable 0 = none ∧ (State.reset.parked 0 = true)) := by
  refine ⟨⟨⟨rfl, rfl⟩, ?_, ?_, enters_of ?_⟩, ⟨.inr (.inr ⟨?_, ?_⟩), entersNow_of ?_⟩, ⟨?_, entersArith_of ?_⟩,
    ⟨⟨rfl, rfl⟩, ?_, ?_, ?_, ?_⟩, ?_, ?_⟩
  case refine_12 =>
    obtain ⟨v, hv⟩ := enters_of (s := interrupted)
      (e := ⟨0x10, 8, interrupted.reg (.intPend 0 0), 0, false, false, interrupted.pc 0, none⟩) (p := interrupted.ptrs 0)
      (by decide +kernel)
    exact ⟨v, 8, by decide +kernel, hv⟩
  all_goals decide +kernel

/-- RegisterAccessAndRepeatsComplete: a GETR of P1, a PUTR and a LEA, and a REPX of 3. -/
theorem witness_register_access :
    (∃ o l u v, stacked.issues t0 ⟨0x40070200, 0x100, 0, 0⟩ ⟨memSlot, noSlot, noSlot⟩ (plain ⟨0x40070200, 0x100, 0, 0⟩ && threadSel 1)
        true 8 8 8 0 o ∧ placeOf 0 o.d .write 8 (stacked.begun 0) = .ok l u ∧
      writePlace 0 l ((u.reg (thr 0 1)).toNat % 2 ^ 64) u = .ok () v) ∧
    (∃ o x u1 a u y, stacked.issues t0 (oneW 0x41 1 9) oneSlot (plain (oneW 0x41 1 9) && threadSel 1) true 8 8 8 0 o ∧
      srcOf 0 o.a 8 (stacked.begun 0) = .ok x u1 ∧ readSrc 0 x u1 = .ok a u ∧ putValue 1 (u.flags 0) a = some y) ∧
    (∃ o, stacked.issues t0 (oneW 0x42 1 9) oneSlot (plain (oneW 0x42 1 9) && (oneW 0x42 1 9).minor < 16) true 8 8 8 0 o ∧
      o.a = .imm 9) ∧
    (∃ o x u1 a u, stacked.issues t0 (oneW 0x49 0 3) oneSlot (plain (oneW 0x49 0 3) && !noRepeat 0x10030221) false 8 8 8 0 o ∧
      srcOf 0 o.a 8 (stacked.begun 0) = .ok x u1 ∧ readSrc 0 x u1 = .ok a u ∧ a % 2 ^ 32 ≤ 64) := by
  have hi {w sl legal rep zd za zb i2} (h : legal = true ∧ Slots.judge sl w = .fine)
      (ho : (operands w ((stacked.begun 0).ptrs 0) zd za zb 1 i2 0).toBool = true) :
      stacked.issues t0 w sl legal rep zd za zb i2 (ops stacked w zd za zb i2) :=
    issues_of stacked_ready (by decide +kernel) h ho
  refine ⟨?_, ?_, ⟨_, hi (by decide +kernel) (by decide +kernel), by decide +kernel⟩, ?_⟩
  · obtain ⟨l, u, h, h1⟩ := fine_bind (m := placeOf 0 (ops stacked ⟨0x40070200, 0x100, 0, 0⟩ 8 8 8 0).d .write 8)
      (f := fun l => get >>= fun u => writePlace 0 l ((u.reg (thr 0 1)).toNat % 2 ^ 64)) (s := stacked.begun 0) (by decide +kernel)
    obtain ⟨_, _, h2, h3⟩ := fine_bind h1
    cases h2
    obtain ⟨_, x, h4⟩ := fine_ok h3
    exact ⟨_, l, u, x, hi (by decide +kernel) (by decide +kernel), h, h4⟩
  · have h : (match srcOf 0 (ops stacked (oneW 0x41 1 9) 8 8 8 0).a 8 (stacked.begun 0) with
      | .ok x u1 => (match readSrc 0 x u1 with
        | .ok a u => (putValue 1 (u.flags 0) a).isSome
        | _ => false)
      | _ => false) = true := by decide +kernel
    split at h
    · next x u1 h1 =>
      split at h
      · next a u h2 =>
        obtain ⟨y, hy⟩ := Option.isSome_iff_exists.mp h
        exact ⟨_, x, u1, a, u, y, hi (by decide +kernel) (by decide +kernel), h1, h2, hy⟩
      · cases h
    · cases h
  · have h : (match srcOf 0 (ops stacked (oneW 0x49 0 3) 8 8 8 0).a 8 (stacked.begun 0) with
      | .ok x u1 => (match readSrc 0 x u1 with
        | .ok a _ => decide (a % 2 ^ 32 ≤ 64)
        | _ => false)
      | _ => false) = true := by decide +kernel
    split at h
    · next x u1 h1 =>
      split at h
      · next a u h2 => exact ⟨_, x, u1, a, u, hi (by decide +kernel) (by decide +kernel), h1, h2, of_decide_eq_true h⟩
      · cases h
    · cases h

/-- DeliveriesAndTideSourcesLand and OldestProductLandsInMhAndMl: a product and a quotient under way, and a compare reached. -/
theorem witness_deliveries :
    (∃ n p, ((awake.setThread 0 { awake.thread 0 with muls := [(0, 5)] }).thread 0).muls = [(n, p)]) ∧
    (∃ x, ((awake.setThread 0 { awake.thread 0 with div := some (0, 1, 2) }).thread 0).div = some x) ∧
    (let s := (awake.setReg (.intTcmpJ 0 0) 5).setReg .tideNow 9
     s.live ∧ s.reg (.intTcmpJ 0 0) ≠ 0 ∧ (s.reg (.intTcmpJ 0 0)).toNat ≤ s.tideNow) := by
  refine ⟨⟨0, 5, ?_⟩, ⟨(0, 1, 2), ?_⟩, ⟨rfl, rfl⟩, ?_, ?_⟩ <;> decide +kernel

/-- A fault of the thread can be entered. -/
def canFault (s : State) (vec sub : Nat) (info : W64) : Bool :=
  let x := (after (uncount 0) s).raise 0 vec sub info 0 false
  enterableNow x ⟨vec, sub, info, 0, false, false, x.pc 0, none⟩ (x.ptrs 0)

theorem faults_of {s : State} {vec sub : Nat} {info : W64} (h : canFault s vec sub info = true) :
    ∃ v, s.faults 0 vec sub info 0 false v := entersNow_of h

/-- ADD with a reserved bit set. -/
def badW : IWord := ⟨0x10031221, 0x100, 0x108, 5⟩

/-- The same thread at user level of the Service world. -/
def userLevel : State := (stacked.setReg (thr 0 0x10) (BitVec.ofNat 64 (2 ^ 34))).setReg (.kspS 0 0) 0x1000

/-- The same thread in the Job world. -/
def jobWorld : State :=
  let s := (stacked.setReg (thr 0 0x10) (BitVec.ofNat 64 (2 ^ 33))).setReg .ptRootJ 1
  s.setTree 0 { s.tree 0 with rc := [⟨false, false, 0, 2 ^ 21, heartBase, 15, 2 ^ 21⟩] }

/-- ScalarFaultsEnterTheirVectors and RepeatsOfTheseInstructionsAreIllegal: a reserved bit, an ERET at user level, a GATE through a
closed gate, a PARK in the Job world, a DIVU by 0, and a REP of a BR. -/
theorem witness_scalar_faults :
    (stacked.Ready t0 ∧ plain badW = false ∧ ∃ v, (stacked.begun 0).faults 0 0 0 (BitVec.ofNat 64 badW.base.toNat) 0 false v) ∧
    (bit ((userLevel.begun 0).flags 0) 33 = false ∧ ∃ v, (userLevel.begun 0).faults 0 4 0 0x0A000000 0 false v) ∧
    ((stacked.begun 0).flag (.gateMask 0) 0 = false ∧
      ∃ v, (stacked.begun 0).faults 0 4 0 (BitVec.ofNat 64 (memW 9 0).base.toNat) 0 false v) ∧
    (bit ((jobWorld.begun 0).flags 0) 34 = false ∧ ∃ v, (jobWorld.begun 0).faults 0 4 0 0xE0000000 0 false v) ∧
    (∃ a b u, reads2 0 8 (ops stacked ⟨0x21070021, 0, 0x100, 0⟩ 8 8 8 0) (stacked.begun 0) = .ok (a, b) u ∧ ext64 false 64 b = 0 ∧
      ∃ v, u.faults 0 5 0 0 0 false v) ∧
    (field (0x02030010 : W32) 24 8 = 2 ∧
      ∃ v, (stacked.begun 0).faults 0 0 0 (BitVec.ofNat 64 (oneW 0x48 0 3).base.toNat) 0 false v) := by
  refine ⟨⟨stacked_ready, by decide +kernel, faults_of (by decide +kernel)⟩, ⟨by decide +kernel, faults_of ?_⟩,
    ⟨by decide +kernel, faults_of (by decide +kernel)⟩, ⟨by decide +kernel, faults_of ?_⟩, ?_, by decide +kernel,
    faults_of (by decide +kernel)⟩
  · decide +kernel
  · decide +kernel
  · have h : (match reads2 0 8 (ops stacked ⟨0x21070021, 0, 0x100, 0⟩ 8 8 8 0) (stacked.begun 0) with
      | .ok (_, b) u => decide (ext64 false 64 b = 0) && canFault u 5 0 0
      | _ => false) = true := by decide +kernel
    split at h
    · next a b u hu =>
      rw [Bool.and_eq_true] at h
      exact ⟨a, b, u, hu, of_decide_eq_true h.1, faults_of h.2⟩
    · cases h

/-- BoundaryTakesArithThenInterrupt: the pending ARITH of witness_exceptions; the interrupt is that of witness_exceptions too. -/
theorem witness_boundary : arithPending.live ∧ arithPending.parked 0 = false ∧ (arithPending.thread 0).raised = none ∧
    arithPending.stalled 0 = false ∧ interrupted.parked 0 = false ∧ (interrupted.thread 0).raised = none := by
  refine ⟨⟨rfl, rfl⟩, ?_, ?_, ?_, ?_, ?_⟩ <;> decide +kernel

/-! The engines. -/

/-- VL is 16 and VG is 1; array 0 of the tree is formed of block 0, TL0 and TL1 hold one row of 16 FP32 elements, and a stream
program of one load and one addition lies at 0x2000. -/
def engined : State :=
  let s := (stacked.setReg (thr 0 0x15) 16).setReg (thr 0 0x16) 1
  let s := ((s.setReg (.tshape 0 0) 0x80101001).setReg (.tshape 0 1) 0x80101001).setFld (.mxArray 0 0) 22 1 1
  ({ s with arrays := [(0, [(3, [0])])] } : State).store (heartBase + 0x2000)
    ([1, 1] ++ List.replicate 6 0 ++ [0, 1] ++ List.replicate 14 0 ++ [0x20] ++ List.replicate 7 0)

/-- An engine instruction goes through its issue, and is performed at once. -/
def performs (w : IWord) (eng : Nat) (sl : Slots) (legal : Bool) (prep : Nat → IWord → M Prep) : Bool :=
  let b := engined.begun 0
  legal && decide (sl.judge w = .fine) &&
  match engRoom 0 eng false b, prep 0 w b with
  | .ok _ x, .ok p u => decide (x = b) && p.stop.isNone &&
    match (u.issued 0 w p).tree 0 with
    | r => match r.sb with
      | [e] => (u.issued 0 w p).ready 0 [] e &&
        match performWork 0 e (u.issued 0 w p) with
        | .ok n v => decide ((v.tree 0).sb = [e]) &&
          !(after (engSync 0) (v.setTree 0 { v.tree 0 with sb := [{ e with performed := true, conds := n }] })).parked 0
        | _ => false
      | _ => false
  | _, _ => false

/-- EngineInstructionsComplete: VADD.16 V1, V2, 5; TZERO TL0; an MMA of TL0 and TL1 that starts anew; and an SRUN of 16 elements. -/
theorem witness_engines : engined.Ready t0 ∧
    performs ⟨0x80020DD1, 1, 2, 5⟩ 0 (vecSlots ⟨0x80020DD1, 1, 2, 5⟩) (vecLegal ⟨0x80020DD1, 1, 2, 5⟩) vecPrep = true ∧
    performs (bare 0xA5000000) 1 (tileSlots (bare 0xA5000000)) (tileLegal (bare 0xA5000000)) tileSimple = true ∧
    performs ⟨0xB0041010, 0, 0, 0⟩ 4 (mxSlots ⟨0xB0041010, 0, 0, 0⟩) (mxLegal ⟨0xB0041010, 0, 0, 0⟩) mmaPrep = true ∧
    performs ⟨0xC0000021, 0, 0x2000, 16⟩ 2 (seSlots ⟨0xC0000021, 0, 0x2000, 16⟩) (seLegal ⟨0xC0000021, 0, 0x2000, 16⟩) sePrep = true := by
  refine ⟨⟨⟨rfl, rfl⟩, ?_, ?_, ?_, .inr (.inr ⟨?_, ?_⟩)⟩, ?_, ?_, ?_, ?_⟩ <;> decide +kernel
theorem skip_of {c : Prop} [Decidable c] {x : Stop} {s : State} (h : fine (if c then throw x else skip : M Unit) s = true) :
    (if c then throw x else skip : M Unit) s = .ok () s := by
  by_cases hc : c
  · rw [if_pos hc] at h
    cases h
  · exact if_neg hc ▸ rfl

theorem starts_of {s : State} {w : IWord} {sl : Slots} {legal e : Bool} (hr : s.Ready t0) (hf : bit ((s.begun 0).flags 0) 29 = false)
    (hl : legal = true ∧ sl.judge w = .fine) (h : fine (engRoom 0 3 e) (s.begun 0) = true) : boardStarts s t0 w sl legal e :=
  ⟨hr, ⟨hl.1, hl.2, fun c => absurd (hf.symm.trans c) (by decide)⟩, skip_of h⟩

/-- The operand of an instruction is read as v, in a state that meets a test. -/
def reading (s : State) (w : IWord) (v : Nat) (p : State → Bool) : Bool :=
  match operands w ((s.begun 0).ptrs 0) 0 4 0 0 0 0 with
  | .ok o => (match ctlArg 0 o.a (s.begun 0) with
    | .ok x u => decide (x = v) && p u
    | _ => false)
  | _ => false

theorem reading_of {s : State} {w : IWord} {v : Nat} {p : State → Bool} (h : reading s w v p = true) :
    ∃ o u, boardReads s t0 w o v u ∧ p u = true := by
  unfold reading at h
  split at h
  · next o ho =>
    split at h
    · next x u hu =>
      rw [Bool.and_eq_true, decide_eq_true_eq] at h
      exact ⟨o, u, ⟨ho, h.1 ▸ hu⟩, h.2⟩
    · cases h
  · cases h

/-- A thread runs on, and no engine of its tree has work. -/
def goesOn (u : State) : Bool := !u.parked 0 && (u.tree 0).sb.isEmpty

/-- Claim 0 is open. -/
def claiming : State := stacked.setReg (.claim 0 0) 0x1_0010_0000

theorem claiming_ready : claiming.Ready t0 := by
  refine ⟨⟨rfl, rfl⟩, ?_, ?_, ?_, .inr (.inr ⟨?_, ?_⟩)⟩ <;> decide +kernel

/-- BoardInstructionsCompleteWithTheirWork: a CLMOPEN of C0 over lines 0 to 3 of a bank, a CLMCLOSE of the open C0, an SBWAIT for
counter 0, an EPTAG of 1 past the epoch, and an EPCOMMIT of the next. -/
theorem witness_boards :
    (boardStarts stacked t0 ⟨0xD4000010, 0, 0x100000, 0⟩ oneSlot (low6 ⟨0xD4000010, 0, 0x100000, 0⟩) false ∧
      (∃ o u, boardReads stacked t0 ⟨0xD4000010, 0, 0x100000, 0⟩ o 0x100000 u ∧
        goesOn (u.setReg (.claim 0 0) (0x1_0010_0000)) = true) ∧
      (stacked.begun 0).claimRange 0 0x100000 = false ∧ (stacked.begun 0).flag (.claim 0 0) 32 = false ∧
      (stacked.begun 0).flag (.claim 0 0) 33 = false ∧ (stacked.begun 0).openClaims 0 = []) ∧
    (boardStarts claiming t0 (bare 0xD5000000) noSlots (low6 (bare 0xD5000000)) false ∧
      (claiming.begun 0).flag (.claim 0 0) 32 = true ∧ (claiming.begun 0).flag (.claim 0 0) 33 = false) ∧
    (boardStarts stacked t0 ⟨0xD0000010, 0, 7, 0⟩ oneSlot (low6 ⟨0xD0000010, 0, 7, 0⟩ && field (0xD0000010 : W32) 22 2 = 0) false ∧
      ∃ o u, boardReads stacked t0 ⟨0xD0000010, 0, 7, 0⟩ o 7 u ∧ goesOn u = true) ∧
    (boardStarts stacked t0 ⟨0xD8080010, 0, 1, 0⟩ oneSlot (low6 ⟨0xD8080010, 0, 1, 0⟩ && field (0xD8080010 : W32) 20 4 = 0) true ∧
      (stacked.begun 0).epMode ≠ 3 ∧ ∃ o u, boardReads stacked t0 ⟨0xD8080010, 0, 1, 0⟩ o 1 u ∧ goesOn u = true) ∧
    (boardStarts stacked t0 ⟨0xDC000010, 0, 1, 0⟩ oneSlot (field (0xDC000010 : W32) 12 12 = 0) true ∧
      bit ((stacked.begun 0).flags 0) 33 = true ∧ ∃ o u, boardReads stacked t0 ⟨0xDC000010, 0, 1, 0⟩ o
        (((stacked.begun 0).epoch + 1) % 2 ^ 32) u ∧ fine (epStart 0) u = true) := by
  have hf : bit ((stacked.begun 0).flags 0) 29 = false := by decide +kernel
  refine ⟨⟨starts_of stacked_ready hf (by decide +kernel) (by decide +kernel), reading_of (p := fun u => goesOn (u.setReg (.claim 0 0) _))
      (by decide +kernel), ?_, ?_, ?_, ?_⟩,
    ⟨starts_of claiming_ready (by decide +kernel) (by decide +kernel) (by decide +kernel), ?_, ?_⟩,
    ⟨starts_of stacked_ready hf (by decide +kernel) (by decide +kernel), reading_of (p := goesOn) (by decide +kernel)⟩,
    ⟨starts_of stacked_ready hf (by decide +kernel) (by decide +kernel), ?_, reading_of (p := goesOn) (by decide +kernel)⟩,
    starts_of stacked_ready hf (by decide +kernel) (by decide +kernel), ?_, reading_of (p := fun u => fine (epStart 0) u) (by decide +kernel)⟩
  all_goals decide +kernel

/-- The directory is OPEN, and its page 0 has the entry word given; the thread maps it at 2 MiB. -/
def paged (w : W64) : State :=
  let s := ((stacked.setFld .epStatus 32 3 1).setReg (.epEntry 0 0) w).setReg (.epEntry 0 1) 0x40_0000
  s.setTree 0 { s.tree 0 with rc := ⟨true, false, 2 ^ 21, 2 ^ 21, 2 ^ 21, 79, 2 ^ 21⟩ :: (s.tree 0).rc }

/-- The pages of an instruction are in a STATE that it takes. -/
def ranging (s : State) (w : IWord) (ok : Nat → Bool) (p : List Nat → State → Bool) : Bool :=
  match epRange 0 w ok (s.begun 0) with
  | .ok (l, _) u => p l u
  | _ => false

theorem ranging_of {s : State} {w : IWord} {ok : Nat → Bool} {p : List Nat → State → Bool} (h : ranging s w ok p = true) :
    ∃ l q u, epRange 0 w ok (s.begun 0) = .ok (l, q) u ∧ p l u = true := by
  unfold ranging at h
  split at h
  · next l q u hu => exact ⟨l, q, u, hu, h⟩
  · cases h

/-- BoardInstructionsCompleteWithTheirWork: an EPDECL of one page, a SEAL and an EPDISCARD of the declared page, and its EPSTAT. -/
theorem witness_pages :
    (boardStarts (paged 0x20_0001) t0 ⟨0xD9000021, 0, 0x200000, 1⟩ ⟨noSlot, memSlot, immSlot⟩ (low6 ⟨0xD9000021, 0, 0x200000, 1⟩) true ∧
      ∃ l q u, epRange 0 ⟨0xD9000021, 0, 0x200000, 1⟩ (fun x => x = 0) ((paged 0x20_0001).begun 0) = .ok (l, q) u ∧
        (!u.setDone 0 && fine (forAll l (declPage 0)) u) = true) ∧
    (boardStarts (paged 0x20_0021) t0 ⟨0xDB000021, 0, 0x200000, 1⟩ ⟨noSlot, memSlot, immSlot⟩ true true ∧
      ∃ l q u, epRange 0 ⟨0xDB000021, 0, 0x200000, 1⟩ (fun x => x = 1 || x = 2) ((paged 0x20_0021).begun 0) = .ok (l, q) u ∧
        fine (forAll l discardPage) u = true) := by
  refine ⟨⟨starts_of ⟨⟨rfl, rfl⟩, ?_, ?_, ?_, .inr (.inr ⟨?_, ?_⟩)⟩ ?_ ?_ ?_, ranging_of (p := fun l u => !u.setDone 0 && fine (forAll l (declPage 0)) u) ?_⟩,
    starts_of ⟨⟨rfl, rfl⟩, ?_, ?_, ?_, .inr (.inr ⟨?_, ?_⟩)⟩ ?_ ?_ ?_, ranging_of (p := fun l u => fine (forAll l discardPage) u) ?_⟩
  all_goals decide +kernel

/-- EPSTAT goes through its checks and stores the status word. -/
def statusing (s : State) (w : IWord) : Bool :=
  match operands w ((s.begun 0).ptrs 0) 8 (Config.operandZ w.major) 0 1 0 0 with
  | .ok o => (match epStart 0 (s.begun 0) with
    | .ok _ u => (match epOperand 0 o.a u with
      | .ok (va, far) v => (match epPage 0 .read far va v with
        | .ok i x => (match placeOf 0 o.d .write 8 x with
          | .ok l y => !blocked (y.before 0) 0 w { Work.none 3 with writes := placeFp 0 l, claims := opClaims [o.d] } &&
            endsIn (writePlace 0 l (y.pageStatus i)) y goesOn
          | _ => false)
        | _ => false)
      | _ => false)
    | _ => false)
  | _ => false

theorem ends_of {m : M Unit} {s : State} {p : State → Bool} (h : endsIn m s p = true) : ∃ u, m s = .ok () u ∧ p u = true := by
  unfold endsIn at h
  cases hm : m s with
  | ok a u =>
    rw [hm] at h
    exact ⟨u, rfl, h⟩
  | error e u =>
    rw [hm] at h
    cases h

/-- BoardInstructionsCompleteWithTheirWork: an EPSTAT of a page. -/
theorem witness_epstat : boardStarts (paged 0x20_0001) t0 ⟨0xDD000220, 0x100, 0x200000, 0⟩ ⟨memSlot, memSlot, noSlot⟩ true true ∧
    ∃ o u va far v i x l y z, operands ⟨0xDD000220, 0x100, 0x200000, 0⟩ (((paged 0x20_0001).begun 0).ptrs 0) 8 (Config.operandZ 0xDD)
        0 1 0 0 = .ok o ∧ epStart 0 ((paged 0x20_0001).begun 0) = .ok () u ∧ epOperand 0 o.a u = .ok (va, far) v ∧
      epPage 0 .read far va v = .ok i x ∧ placeOf 0 o.d .write 8 x = .ok l y ∧
      blocked (y.before 0) 0 ⟨0xDD000220, 0x100, 0x200000, 0⟩ { Work.none 3 with writes := placeFp 0 l, claims := opClaims [o.d] }
        = false ∧
      writePlace 0 l (y.pageStatus i) y = .ok () z ∧ goesOn z = true := by
  refine ⟨starts_of ⟨⟨rfl, rfl⟩, ?_, ?_, ?_, .inr (.inr ⟨?_, ?_⟩)⟩ ?_ ?_ ?_, ?_⟩
  case refine_9 =>
    have h : statusing (paged 0x20_0001) ⟨0xDD000220, 0x100, 0x200000, 0⟩ = true := by decide +kernel
    unfold statusing at h
    repeat' split at h
    any_goals cases h
    simp only [Bool.and_eq_true, Bool.not_eq_true'] at h
    obtain ⟨z, h1, h2⟩ := ends_of h.2
    exact ⟨_, _, _, _, _, _, _, _, _, z, by assumption, by assumption, by assumption, by assumption, by assumption, h.1, h1, h2⟩
  all_goals decide +kernel

/-- The page of entry 0 is read without poison, and no journal is active. -/
def sealing (s : State) : Bool :=
  match maintainFrame 3 (s.epFrames 0).2 s with
  | .ok _ u => (match readFrame (s.epFrames 0).2 u with
    | .ok [] v => !v.journalling
    | _ => false)
  | _ => false

theorem seal_of {s : State} (h : sealing s = true) : ∃ v, sealPage 0 s = .ok () v := by
  unfold sealing at h
  split at h
  · next u hu =>
    split at h
    · next v hv =>
      rw [Bool.not_eq_true'] at h
      have f : fine (sealPage 0) s = true := by
        unfold fine sealPage
        rw [bind_ok (m := get) (a := s) (u := s) rfl, bind_ok hu, bind_ok hv]
        rw [bind_ok (m := get) (a := v) (u := v) rfl, h]
        rfl
      obtain ⟨_, w, hw⟩ := fine_ok f
      exact ⟨w, hw⟩
    · cases h
  · cases h

/-- BoardInstructionsCompleteWithTheirWork: a SEAL of the declared page. -/
theorem witness_seal : boardStarts (paged 0x20_0021) t0 ⟨0xDA000021, 0, 0x200000, 1⟩ ⟨noSlot, memSlot, immSlot⟩ true true ∧
    ∃ l q u v, epRange 0 ⟨0xDA000021, 0, 0x200000, 1⟩ (fun x => x = 1) ((paged 0x20_0021).begun 0) = .ok (l, q) u ∧
      forAll l sealPage u = .ok () v := by
  refine ⟨starts_of ⟨⟨rfl, rfl⟩, ?_, ?_, ?_, .inr (.inr ⟨?_, ?_⟩)⟩ ?_ ?_ ?_, ?_⟩
  case refine_9 =>
    obtain ⟨l, q, u, h, hp⟩ := ranging_of (s := paged 0x20_0021) (w := ⟨0xDA000021, 0, 0x200000, 1⟩) (ok := fun x => x = 1)
      (p := fun l u => decide (l = [0]) && sealing u) (by decide +kernel)
    rw [Bool.and_eq_true, decide_eq_true_eq] at hp
    obtain ⟨v, hv⟩ := seal_of hp.2
    refine ⟨l, q, u, v, h, ?_⟩
    rw [hp.1]
    exact bind_ok hv
  all_goals decide +kernel

/-- Bank 0 of array 0 holds one FP32 value. -/
def banked : State :=
  (((engined.setFld (.mxBank 0 0 0) 0 3 1).setFld (.mxBank 0 0 0) 3 9 1).setFld (.mxBank 0 0 0) 12 9 1).store
    (heartBase + 0x3100) [0, 0, 0, 0, 1]

/-- A drain waits at array 0. -/
def drainWaits : State :=
  let x : Work := { Work.none 4 with
    writes := [⟨0xFFFF_FFFF, 3, 3⟩]
    args := [1, 1, 1, 0, 0, 0]
    segs := [[⟨heartBase + 0x3000, 0, 4⟩]]
    bytes := [0, 0, 0, 0, 1] ++ List.replicate 27 0 }
  banked.setTree 0 { banked.tree 0 with sb := [⟨0, ⟨0xB2000220, 0x3000, 0x3100, 0⟩, 0, 1, false, x, false, 0, false, false⟩] }

/-- An addition is in the scoreboard, performed. -/
def performed : State :=
  engined.setTree 0 { engined.tree 0 with sb := [⟨0, ⟨0x80020DD1, 1, 2, 5⟩, 0, 1, false, Work.none 0, true, 0, false, false⟩] }

/-- The thread has a work item. -/
def working : State := (stacked.setThread 0 { stacked.thread 0 with item := some (0, 3) }).setFld (.dispStatus 0) 0 1 1

/-- An MMA of bank 1 with SEQ 9 has its tally pending; REDO is 0. -/
def tallied (equal : Bool) : State := (engined.setFld (.mxCtrl 0) 1 1 0).setTallies 0 0 [⟨1, 9, [], 0, [0, 1], false, false, equal⟩]

/-- EngineEventsComplete: a WDONE, a drain that waits, a tally that passes, an addition that has been performed, and a mismatch. -/
theorem witness_engine_events :
    (boardStarts working t0 ⟨0xD1000010, 0, 5, 0⟩ oneSlot (field (0xD1000010 : W32) 12 12 = 0) false ∧
      ((working.begun 0).thread 0).item ≠ none ∧ ∃ o u, boardReads working t0 ⟨0xD1000010, 0, 5, 0⟩ o 5 u ∧
        (!(after (enlist 0 ⟨0xD1000010, 0, 5, 0⟩ 3) u).engBusy 0 &&
          fine (endItem 0 5) (((after (enlist 0 ⟨0xD1000010, 0, 5, 0⟩ 3) u).unissue 0).putPtrs 0 ((working.begun 0).ptrs 0))) = true) ∧
    (drainWaits.live ∧ ∃ e, (drainWaits.tree 0).sb[0]? = some e ∧
      (e.work.eng = 4 && isDrain e.word && !e.performed && !e.early) = true ∧
      blocked [] e.th e.word e.work = false ∧ drainWaits.talliesOf 0 0 = []) ∧
    ((tallied true).live ∧ ∃ y r, (tallied true).talliesOf 0 0 = y :: r ∧ y.equal = true) ∧
    (performed.live ∧ ∃ e, (performed.tree 0).sb[0]? = some e ∧ e.th = 0 ∧ performed.complete 0 e = true) ∧
    ((tallied false).live ∧ (∀ y ∈ (tallied false).talliesOf 0 0, y.seq ≠ 8) ∧
      ((tallied false).talliesOf 0 0).findIdx? (fun y => y.seq = 9) = some 0 ∧
      ((after (restoreBank 0 0 ⟨1, 9, [], 0, [0, 1], false, false, false⟩) (tallied false)).setTallies 0 0 []).flag (.mxCtrl 0) 1 = false ∧
      ∃ u, tallyMismatch 0 0 9 .transient (tallied false) = .ok () u) := by
  refine ⟨⟨starts_of ⟨⟨rfl, rfl⟩, ?_, ?_, ?_, .inr (.inr ⟨?_, ?_⟩)⟩ ?_ ?_ ?_, ?_, reading_of
      (p := fun u => !(after (enlist 0 ⟨0xD1000010, 0, 5, 0⟩ 3) u).engBusy 0 &&
          fine (endItem 0 5) (((after (enlist 0 ⟨0xD1000010, 0, 5, 0⟩ 3) u).unissue 0).putPtrs 0 ((working.begun 0).ptrs 0))) ?_⟩,
    ⟨⟨rfl, rfl⟩, _, rfl, ?_, ?_, ?_⟩, ⟨⟨rfl, rfl⟩, _, _, rfl, rfl⟩, ⟨⟨rfl, rfl⟩, _, rfl, rfl, ?_⟩, ⟨⟨rfl, rfl⟩, ?_, ?_, ?_, gives_ok ?_⟩⟩
  all_goals decide +kernel

/-! The directory, the tide unit, self-tests. -/

/-- One registration record at near-bank address 0: FRAME0 1 and FRAME1 2. -/
def records : State :=
  (State.reset.setReg .epRegRange 0x1_0000_0000).store 0 [0, 0, 0x20, 0, 0, 0, 0, 0, 0, 0, 0x40]

/-- The records that `records` brings. -/
def loaded : List Nat := [2 ^ 21 + 2 ^ 86]

/-- The directory is OPEN, with one page in set 0, sealed. -/
def sealedPage : State :=
  ((State.reset.setFld .epStatus 32 3 1).setReg (.epEntry 0 0) 0x20_0041).setReg (.epEntry 0 1) 0x40_0000

/-- The same page, declared and not sealed. -/
def openPage : State := sealedPage.setReg (.epEntry 0 0) 0x20_0021

/-- DirectoryCommandsComplete, the commands. -/
theorem witness_directory :
    (State.reset.takes boot .epCmd 1 ∧ records.takes boot .epCmd 1 ∧ (records.wrote boot .epCmd 1).jobRuns = false ∧
      (∃ u, bootFetch false 0 16 (records.wrote boot .epCmd 1) = .ok (toLE (2 ^ 21 + 2 ^ 86) 16, false) u ∧
        (List.range 1).map (fun k => leAt (toLE (2 ^ 21 + 2 ^ 86) 16) (16 * k) 16) = loaded ∧ loaded.any badRecord = false ∧
        hasDup (loaded.flatMap fun r => [(r >>> 21) % 2 ^ 31 * 2 ^ 21, (r >>> 85) % 2 ^ 31 * 2 ^ 21]) = false)) ∧
    (State.reset.takes boot .epCmd 2 ∧ (State.reset.wrote boot .epCmd 2).jobRuns = false) ∧
    (sealedPage.takes boot .epCmd 4 ∧ (sealedPage.wrote boot .epCmd 4).epMode ≠ 3 ∧
      (sealedPage.wrote boot .epCmd 4).flag .epStatus 36 = false) ∧
    (sealedPage.takes boot .epCmd 16 ∧ (sealedPage.wrote boot .epCmd 16).commit.step = 0) ∧
    ((State.reset.setFld .epStatus 32 3 1).takes boot .epCmd 8 ∧ ((State.reset.setFld .epStatus 32 3 1).wrote boot .epCmd 8).epMode = 1) := by
  refine ⟨⟨⟨⟨rfl, rfl⟩, rfl, ⟨_, rfl⟩, rfl⟩, ⟨⟨rfl, rfl⟩, rfl, ⟨_, rfl⟩, rfl⟩, ?_, ?_⟩, ⟨⟨⟨rfl, rfl⟩, rfl, ⟨_, rfl⟩, rfl⟩, ?_⟩,
    ⟨⟨⟨rfl, rfl⟩, rfl, ⟨_, rfl⟩, rfl⟩, ?_, ?_⟩, ⟨⟨⟨rfl, rfl⟩, rfl, ⟨_, rfl⟩, rfl⟩, rfl⟩, ⟨⟨rfl, rfl⟩, rfl, ⟨_, rfl⟩, rfl⟩, ?_⟩
  case refine_2 =>
    obtain ⟨u, h⟩ := gives_ok (m := bootFetch false 0 16) (s := records.wrote boot .epCmd 1) (a := (toLE (2 ^ 21 + 2 ^ 86) 16, false))
      (by decide +kernel)
    exact ⟨u, h, by decide +kernel, by decide +kernel, by decide +kernel⟩
  all_goals decide +kernel

/-- A commit of the sealed page is requested. -/
def requested : State := sealedPage.setFld .epStatus 36 1 1

/-- The commit stands in step 3, with a read unit of ferry 0 that has used the page. -/
def committing : State :=
  { (requested.setFld .epStatus 32 3 2) with commit := { CommitSt.idle with step := 3 }, epUnits := [(0, ⟨[], [0], []⟩)] }

/-- Thread 0 waits for entry 0. -/
def threadWaits : State := openPage.setThread 0 { openPage.thread 0 with hold := .epoch 0x1000 0 false }

/-- Ferry 0 waits for entry 0. -/
def ferryWaits : State := openPage.setFerry 0 ((ferrying.ferry 0).map fun m => { m with hold := .epoch 0 0 true })

/-- A journal record has no answer. -/
def journalWaits : State :=
  { (sealedPage.setFld .epCtrl 1 1 1).setFld .epStatus 37 2 1 with journal := ⟨[], [⟨0, 1, 0, 0, 0, 0, 0, 0, []⟩], 1⟩ }

/-- DirectoryCommandsComplete, the events. -/
theorem witness_commits :
    (requested.live ∧ requested.flag .epStatus 36 = true ∧ requested.epMode ≠ 3 ∧ requested.epFlaws = [] ∧ requested.commit.step = 0 ∧
      requested.entries.map (fun e => epState e.2) = [2] ∧ requested.flag (.epEntry 0 0) 7 = false ∧
      bit requested.commit.ctrl 0 = false ∧ requested.journalling = false ∧
      (({ requested with commit := { requested.commit with step := 3 } } : State).setFld .epStatus 32 3 2).drainWaits = false ∧
      ∃ v, flip { requested with commit := { requested.commit with digest := requested.commitDigest } } = .ok () v) ∧
    (committing.live ∧ committing.commit.step = 3 ∧ committing.drainWaits = true ∧ ∃ v, commitStep4 { committing with
      epUnits := committing.epUnits.map fun (e : Nat × EpUnit) => (e.1, committing.cutUnit e.2)
      commit := { committing.commit with cut := true } } = .ok () v) ∧
    (threadWaits.live ∧ (threadWaits.thread 0).hold = .epoch 0x1000 0 false ∧ threadWaits.setWaits 0 = true ∧
      ∃ u, (noteEpFault 6 0 0 >>= fun _ => get >>= fun s => incident 0x0A 2 6 (unitWord 0 0) 0 (s.reg .epStatus)) threadWaits
        = .ok () u) ∧
    (ferryWaits.live ∧ (∃ m, ferryWaits.ferry 0 = some m ∧ m.hold = .epoch 0 0 true) ∧ ferryWaits.setWaits 0 = true ∧
      ∃ u, (noteEpFault 6 0x100 0 >>= fun _ => get >>= fun s => incident 0x0A 2 6 (unitWord 0 0) 0 (s.reg .epStatus)) ferryWaits
        = .ok () u) ∧
    (journalWaits.live ∧ journalWaits.journalling = true ∧ journalWaits.journal.unacked ≠ [] ∧
      ∃ u, loseJournal journalWaits = .ok () u) := by
  refine ⟨⟨⟨rfl, rfl⟩, ?_, ?_, rfl, rfl, ?_, ?_, ?_, ?_, ?_, gives_ok ?_⟩, ⟨⟨rfl, rfl⟩, rfl, ?_, gives_ok ?_⟩,
    ⟨⟨rfl, rfl⟩, ?_, ?_, gives_ok ?_⟩, ⟨⟨rfl, rfl⟩, ⟨_, rfl, rfl⟩, ?_, gives_ok ?_⟩, ⟨rfl, rfl⟩, ?_, ?_, gives_ok ?_⟩ <;> decide +kernel

/-- The tide unit follows the mark. -/
def marked : State := State.reset.setReg .tideCfg 1

/-- Landing 0 of `built` is up in a job. -/
def linked : State := inJob.setFld (.landStatus 0) 0 3 2

/-- TideUnitCommandsComplete, the events: a mark with and without a waiting value, beacons enabled, a landing up, LOCK. -/
theorem witness_tide_events :
    (marked.live ∧ marked.tideCfg 0 2 = 1 ∧ marked.jobRuns = false ∧ marked.tide.setv = none ∧
      ({ marked with tide := { marked.tide with setv := some 5 } } : State).tide.setv = some 5) ∧
    ((State.reset.setReg .tideCfg 8).tideCfg 3 1 = 1 ∧ (State.reset.setReg .tideCfg 8).flag .partState 0 = false ∧
      (State.reset.setReg .tideCfg 8).tideHeld = false) ∧
    (linked.live ∧ linked.landByte 0 % 4 ≠ 0 ∧ linked.flag (.tideLink 0) 0 = false ∧
      ∃ u, incident 0x0B 2 3 (unitWord 7 0) 0 (linked.reg .tideStatus) (linked.setFld (.tideLink 0) 0 1 1) = .ok () u) ∧
    (State.reset.setFld .tideStatus 1 1 1).flag .tideStatus 1 = true := by
  refine ⟨⟨⟨rfl, rfl⟩, ?_, ?_, rfl, rfl⟩, ⟨?_, ?_, ?_⟩, ⟨⟨rfl, rfl⟩, ?_, ?_, gives_ok ?_⟩, ?_⟩ <;> decide +kernel

/-- The tide unit runs freely. -/
def unmarked : State := State.reset.setReg .tideCfg 0

/-- The period after STEP_ORIGIN has passed. -/
def stepped : State := (State.reset.setReg .stepPeriod 16).setReg .tideNow 40

/-- TideUnitCommandsComplete, the commands. -/
theorem witness_tide_commands :
    (unmarked.takes boot .tideSet 9 ∧ (unmarked.wrote boot .tideSet 9).jobRuns = false ∧
      (unmarked.wrote boot .tideSet 9).tideCfg 0 2 = 0) ∧
    (marked.takes boot .tideSet 9 ∧ (marked.wrote boot .tideSet 9).tideCfg 0 2 = 1) ∧
    (linked.takes boot .tideSet 0 ∧ (linked.wrote boot .tideSet 0).jobRuns = true) ∧ State.reset.takes boot .stepOrigin 16 ∧
    (stepped.live ∧ stepped.fld .stepPeriod 0 32 ≠ 0 ∧
      (stepped.reg .stepOrigin + BitVec.ofNat 64 (stepped.fld .stepPeriod 0 32)).toNat ≤ stepped.tideNow) ∧
    State.reset.takes boot (.ttEntry 511 3) 0 ∧ State.reset.takes boot .ttCtrl 1 := by
  refine ⟨⟨⟨⟨rfl, rfl⟩, rfl, ⟨_, rfl⟩, rfl⟩, ?_, ?_⟩, ⟨⟨⟨rfl, rfl⟩, rfl, ⟨_, rfl⟩, rfl⟩, ?_⟩,
    ⟨⟨⟨rfl, rfl⟩, rfl, ⟨_, rfl⟩, rfl⟩, ?_⟩, ⟨⟨rfl, rfl⟩, rfl, ⟨_, rfl⟩, rfl⟩,
    ⟨⟨rfl, rfl⟩, ?_, ?_⟩, ⟨⟨rfl, rfl⟩, rfl, ⟨_, rfl⟩, rfl⟩, ⟨⟨rfl, rfl⟩, rfl, ⟨_, rfl⟩, rfl⟩⟩ <;> decide +kernel

/-- Entry 511 of the tide table is armed with words 1 and 2, and due. -/
def dueWith (w1 w2 : W64) (s : State) : State :=
  let s := (((s.setReg .ttCtrl 1).setReg .tideNow 100).setReg (.ttEntry 511 1) w1).setReg (.ttEntry 511 2) w2
  { s with tide := { s.tide with armed := [(511, 50, 50)] } }

/-- Action a is in place in entry 511, and due. -/
def isDue (a : Nat) (s : State) : Bool :=
  decide (aget s.tide.armed 511 = some (50, 50)) && s.flag .ttCtrl 0 && s.ttAct 511 == a && 
    decide (max 50 s.tide.next ≤ s.tideNow) && s.ttTurn 511 50 && !s.tideHeld

theorem due_of {a : Nat} {s : State} (h : isDue a s = true) : s.due 511 a 50 50 := by
  unfold State.due
  simpa [isDue, and_assoc] using h

/-- Queue 0 waits for tide start. -/
def tideQueue : State := State.reset.setReg (.qctxBase 0) (BitVec.ofNat 64 (2 <<< 56))

/-- Landing queue 0x1800 waits for tide start. -/
def collecting : State := State.reset.setReg (.qctxBase 0x1800) (BitVec.ofNat 64 (2 <<< 56))

/-- Self-tests are enabled. -/
def testing : State := { built.setFld .structStatus 4 4 1 with sects := built.sects } |>.setFld .bistCtrl 0 1 1

/-- TideTableActs: each action, due; QSTART and COLLECT with a queue that waits, BIST with a slice it selects, REFRESH of
channel 3. -/
theorem witness_tide_actions :
    ((dueWith 1 0 tideQueue).due 511 1 50 50 ∧ ((dueWith 1 0 tideQueue).fired 511 1 50 50).ttQueues 511 = [0] ∧
      ((dueWith 1 0 tideQueue).fired 511 1 50 50).qState 0 = 2) ∧
    (dueWith 2 0 State.reset).due 511 2 50 50 ∧
    ((dueWith 3 0 State.reset).due 511 3 50 50 ∧ ((dueWith 3 0 State.reset).fired 511 3 50 50).flag .epStatus 36 = false) ∧
    ((dueWith 4 0x10 testing).due 511 4 50 50 ∧
      let u := (dueWith 4 0x10 testing).fired 511 4 50 50
      ∃ x, u.bistPick (u.ttField 511 2 0 64) = some x ∧ x.kind = 1) ∧
    ((dueWith 5 8 State.reset).due 511 5 50 50 ∧
      (List.range 48).filter (fun c => (((dueWith 5 8 State.reset).fired 511 5 50 50).ttField 511 2 0 48).testBit c) = [3]) ∧
    ((dueWith 0x1_0006 1 collecting).due 511 6 50 50 ∧
      let u := (dueWith 0x1_0006 1 collecting).fired 511 6 50 50
      ∃ v, mapAll (u.ttQueues 511) tideStart u = .ok [true] v) ∧
    (dueWith 7 1 State.reset).due 511 7 50 50 ∧ (dueWith 8 1 State.reset).due 511 8 50 50 := by
  refine ⟨⟨due_of ?_, ?_, ?_⟩, due_of ?_, ⟨due_of ?_, ?_⟩, ⟨due_of ?_, _, rfl, ?_⟩, ⟨due_of ?_, ?_⟩,
    ⟨due_of ?_, gives_ok ?_⟩, due_of ?_, due_of ?_⟩ <;> decide +kernel

/-- A deadline of entry 7 has fallen due. -/
def deadline : State := { State.reset.setReg .tideNow 100 with tide := { State.reset.tide with pend := [⟨7, 10, 20, 1, [(0, 5)]⟩] } }

/-- TideTableActs, the deadlines. -/
theorem witness_tide_deadlines : deadline.live ∧
    (deadline.tide.pend.find? fun p => p.entry = 7 ∧ p.due ≤ deadline.tideNow) = some ⟨7, 10, 20, 1, [(0, 5)]⟩ ∧
    deadline.ttDone ⟨7, 10, 20, 1, [(0, 5)]⟩ = false := by
  refine ⟨⟨rfl, rfl⟩, ?_, ?_⟩ <;> decide +kernel

/-- A self-test of tree 0 runs, whose save area lies in the host window. -/
def sliceRuns : State := { State.reset with bist := ⟨some ⟨0, 0, true, hostBase, false⟩, 3⟩ }

theorem joined_host {s : State} (l : List (Nat × Nat)) (h : ∀ p ∈ l, s.target p.1 = .host) :
    ∀ p ∈ s.joined l, s.target p.1 = .host := by
  induction l with
  | nil => exact h
  | cons x r ih =>
    have ih := ih fun p hp => h p (List.mem_cons_of_mem _ hp)
    have hx := h x List.mem_cons_self
    unfold State.joined
    cases hj : s.joined r with
    | nil => simpa using hx
    | cons y t =>
      rw [hj] at ih
      dsimp only
      split
      · intro p hp
        rcases List.mem_cons.mp hp with rfl | hp
        · exact hx
        · exact ih p (List.mem_cons_of_mem _ hp)
      · intro p hp
        rcases List.mem_cons.mp hp with rfl | hp
        · exact hx
        · exact ih p hp

theorem checkParts_host {s : State} {r : Req} {k : Acc} (l : List (Nat × Nat)) (h : ∀ p ∈ l, s.target p.1 = .host) :
    checkParts r k l s = .ok none s := by
  induction l with
  | nil => rfl
  | cons x t ih =>
    have hx : s.denial r k x.1 x.2 = none := by
      unfold State.denial
      rw [h x List.mem_cons_self]
    have ih := ih fun p hp => h p (List.mem_cons_of_mem _ hp)
    have hc : checkLine r k x.1 x.2 s = .ok none s := by
      simp only [checkLine, bind, EStateM.bind, get, getThe, MonadStateOf.get, EStateM.get, hx, pure, EStateM.pure]
    change EStateM.bind (checkLine r k x.1 x.2) _ s = _
    unfold EStateM.bind
    rw [hc]
    exact ih

theorem target_host {s : State} {a : Nat} (h1 : hostBase ≤ a) (h2 : a < 2 ^ 52) : s.target a = .host := by
  have e1 : inNear a = false := by
    unfold inNear
    rw [decide_eq_false_iff_not]
    unfold hostBase at h1
    unfold nearEnd
    omega
  have e2 : ¬ (heartBase ≤ a ∧ a < heartOf 64) := by
    unfold hostBase at h1
    unfold heartOf heartBase
    omega
  have e3 : inHost a = true := by
    unfold inHost
    rw [Bool.and_eq_true, decide_eq_true_eq, decide_eq_true_eq]
    exact ⟨h1, h2⟩
  unfold State.target
  rw [if_neg (by rw [e1]; decide), if_neg e2, if_pos e3]

/-- The host window has no access table (R306). -/
theorem checkAcc_host {s : State} {r : Req} {k : Acc} {a n : Nat} (h1 : hostBase ≤ a) (h2 : a + n ≤ 2 ^ 52) (h3 : a % 128 = 0) :
    checkAcc r k a n s = .ok none s := by
  refine checkParts_host _ (joined_host _ ?_)
  intro p hp
  simp only [lineParts, linesOf, List.mem_map] at hp
  obtain ⟨l, hl, rfl⟩ := hp
  split at hl
  · cases hl
  · simp only [List.mem_map, List.mem_range] at hl
    obtain ⟨i, hi, rfl⟩ := hl
    exact target_host (by dsimp only; omega) (by dsimp only; omega)

/-- SelfTestsComplete. -/
theorem witness_self_tests : sliceRuns.live ∧ sliceRuns.bist.slice = some ⟨0, 0, true, hostBase, false⟩ ∧
    sliceRuns.bistBarred ⟨0, 0, true, hostBase, false⟩ = false ∧
    checkAcc ⟨0x170, true⟩ .wr hostBase (2 ^ 22) sliceRuns = .ok none sliceRuns :=
  ⟨⟨rfl, rfl⟩, rfl, by decide +kernel, checkAcc_host (Nat.le_refl _) (by decide) (by decide)⟩

/-! Landings. -/

/-- Landing 0 trains. -/
def training : State := inJob.setFld (.landStatus 0) 0 3 1

/-- A peer of generation 1, with four lanes. -/
def peer : PeerInfo := ⟨⟨1, 0, 1, 0, false, 15⟩, List.replicate 16 (8, 2)⟩

/-- Landing 0 runs on four lanes, with a flit that its peer has not acknowledged. -/
def lanes : State :=
  let s := linked.setFld (.landStatus 0) 5 4 15
  s.setLink 0 { s.link 0 with sent := [List.replicate 156 0] }

/-- The landing has retrained onto three lanes. -/
def degraded : State := linked.setFld (.landStatus 0) 0 3 3

/-- Landing 0 retrains. -/
def retraining : State := lanes.setLink 0 { lanes.link 0 with retrain := true }

/-- Landing 0 is fenced. -/
def fenced : State := linked.setFld .landFence 0 1 1

/-- Landing 0 is DOWN. -/
def landDown : State := linked.setFld (.landStatus 0) 0 3 4

/-- Landing 0 has replayed seven times in a row, with the lanes of a mask. -/
def replaying (m : Nat) : State :=
  let s := lanes.setFld (.landStatus 0) 5 4 m
  s.setLink 0 { s.link 0 with replays := 7 }

/-- LandingLinksComplete: a landing that trains, one that is DOWN, a TRAIN flit of each kind, lanes in use, replays, a fence. -/
theorem witness_links :
    (training.live ∧ training.landState 0 = 1 ∧ landDown.landState 0 = 4 ∧ landDown.jobRuns = true ∧
      landDown.flag .landFence 0 = false) ∧
    (built.takes boot (.landCtrl 0) 1 ∧ (built.wrote boot (.landCtrl 0) 1).jobRuns = false ∧
      (built.wrote boot (.landCtrl 0) 1).landByte 0 % 4 ≠ 0 ∧ (built.wrote boot (.landCtrl 0) 1).flag .landFence 0 = false ∧
      fenced.takes boot (.landCtrl 0) 1 ∧ (fenced.wrote boot (.landCtrl 0) 1).flag .landFence 0 = true) ∧
    (lanes.live ∧ lanes.landUp 0 = true ∧ lanes.lostLane 0 ⟨1, 0, 1, 0, false, 7⟩ = some 3 ∧ lanes.lostLane 0 peer.info = none) ∧
    (retraining.live ∧ retraining.landUp 0 = true ∧ retraining.lostLane 0 peer.info = none ∧ (retraining.link 0).retrain = true) ∧
    (lanes.landState 0 = 2 ∧ (lanes.link 0).retrain = false ∧ lanes.flag (.landStatus 0) (5 + 3) = true ∧ degraded.landState 0 = 3) ∧
    (lanes.flows 0 ∧ (lanes.link 0).sent ≠ [] ∧ (lanes.link 0).replays < 7) ∧
    (∀ m ∈ [(15, true), (3, false)], (replaying m.1).flows 0 ∧ ((replaying m.1).link 0).sent ≠ [] ∧ 7 ≤ ((replaying m.1).link 0).replays ∧
      (decide (3 ≤ ((after (resendHeld 0) ((replaying m.1).setLink 0 { (replaying m.1).link 0 with replays := 8 })).lanesIn 0).length))
        = m.2) ∧
    (fenced.takes boot .landUnfence 1 ∧ (fenced.wrote boot .landUnfence 1).flag .landFence 0 = true) := by
  refine ⟨⟨⟨rfl, rfl⟩, ?_, ?_, ?_, ?_⟩, ⟨⟨⟨rfl, rfl⟩, rfl, ⟨_, rfl⟩, rfl⟩, ?_, ?_, ?_, ⟨⟨rfl, rfl⟩, rfl, ⟨_, rfl⟩, rfl⟩, ?_⟩,
    ⟨⟨rfl, rfl⟩, ?_, ?_, ?_⟩, ⟨⟨rfl, rfl⟩, ?_, ?_, ?_⟩, ⟨?_, ?_, ?_, ?_⟩, ⟨⟨?_, ?_⟩, ?_, ?_⟩, ?_, ⟨⟨rfl, rfl⟩, rfl, ⟨_, rfl⟩, rfl⟩, ?_⟩
  case refine_23 =>
    intro m h
    fin_cases h <;> exact ⟨⟨by decide +kernel, by decide +kernel⟩, by decide +kernel, by decide +kernel, by decide +kernel⟩
  all_goals decide +kernel

/-- A beacon of master 1, two hops away. -/
def beacon : BeaconMsg := ⟨100, 1, 1, 2, true⟩

/-- LandingLinksComplete: a DATA flit without errors and one with four, a codeword with five, and beacons. -/
theorem witness_flits :
    (lanes.live ∧ lanes.flows 0) ∧
    linkJudge (linkErrs ((List.range 4).map fun i => ⟨Fin.ofNat 136 (40 * i), 1⟩)) = some [] ∧
    linkJudge (linkErrs ((List.range 5).map fun i => ⟨Fin.ofNat 136 (30 * i), 1⟩)) = none ∧
    (lanes.tideHeld = false ∧ lanes.landUp 0 = true ∧ lanes.tide.known = false ∧
      (lanes.setFld .tideCfg 4 4 1).landUp 0 = true ∧ (0 : Nat) ≠ (lanes.setFld .tideCfg 4 4 1).upstream) ∧
    ((inJob.setFld (.cfgPending .dev) 0 1 0).live ∧ lanes.goodBeacon beacon = true) := by
  refine ⟨⟨⟨rfl, rfl⟩, ?_, ?_⟩, ?_, ?_, ⟨?_, ?_, ?_, ?_, ?_⟩, ⟨rfl, rfl⟩, ?_⟩ <;> decide +kernel

/-- A packet from part 1 for this part, with its CRC. -/
def packet (type : BitVec 8) (addr : W64) (tid : BitVec 32) (data : List Byte) (len : Nat) : Packet :=
  let p : Packet := ⟨0, 1, type, 5, false, len, addr, 0, tid, 0, data, 0⟩
  { p with crc := BitVec.ofNat 64 (pktCrc p) }

/-- Landing 0 receives for the near bank of grove 0, and leads to parts 1 and 7. -/
def receiving : State :=
  (granting .dev 5 (granting (.grove 0) 0 lanes)).setReg (.route 0) 0x1000000 |>.setReg (.route 1) 0x100000000000000

/-- Eight bytes. -/
def eightBytes : List Byte := [1, 2, 3, 4, 5, 6, 7, 8]

/-- PacketsComplete: a packet for part 7, and a WRITE, a READREQ, a REDUCE and a NOTIFY that are served. -/
theorem witness_packets :
    let r : Req := landReq 0 false
    let red := packet 4 0x40 9 eightBytes 8
    (receiving.flows 0 ∧ receiving.flag .landFence 0 = false ∧ receiving.partId ≠ 7 ∧ receiving.route 7 = some 0) ∧
    (∀ p ∈ [packet 1 0x40 9 eightBytes 8, packet 2 0x40 9 [] 8, red, packet 6 0x41 9 [] 0], receiving.serves 0 p) ∧
    gives (do
      match ← inbound 0 r true 0x40 8 with
      | .ok g => do
        let b ← writeSegs r g (pktBytes (packet 1 0x40 9 eightBytes 8))
        sendAck (packet 1 0x40 9 eightBytes 8) 0 0 0
        return b
      | .error _ => return false) receiving true = true ∧
    gives (do
      match ← inbound 0 r false 0x40 8 with
      | .ok g =>
        match ← readSegs r g with
        | some b => do
          sendReply ((← get).mkPacket 1 3 false 0x40 0 9 (pmaskOf 0x40 (b : PBytes)) 8 (b.map (·.1)))
          sendAck (packet 2 0x40 9 [] 8) 0 0 0
          return true
        | none => return false
      | .error _ => return false) receiving true = true ∧
    (red.aux.toNat / 2 ^ 52 % 16 ≤ 2 ∧ red.aux.toNat / 2 ^ 56 % 8 ≤ 2 ∧ gives (do
      match ← inbound 0 r false 0x40 8 with
      | .ok gb =>
        match ← inbound 0 r true 0x40 8 with
        | .ok gd =>
          match ← readSegs r gb with
          | some b => do
            let x ← writeSegs r gd (combineAll 0 0 (pktBytes red) b).1
            sendAck red (if (combineAll 0 0 (pktBytes red) b).1.any (·.2) then 9 else 0) 0 (combineAll 0 0 (pktBytes red) b).2
            return x
          | none => return false
        | .error _ => return false
      | .error _ => return false) receiving true = true) ∧
    fine (do
      bumpFerry 1 1
      sendAck (packet 6 0x41 9 [] 0) 0 0 0) receiving = true := by
  refine ⟨⟨⟨?_, ?_⟩, ?_, ?_, ?_⟩, ?_, ?_, ?_, ⟨?_, ?_, ?_⟩, ?_⟩
  case refine_6 =>
    intro p h
    fin_cases h <;> exact ⟨⟨⟨by decide +kernel, by decide +kernel⟩, by decide +kernel, rfl, by decide +kernel⟩, .inr rfl,
      fun _ e he => absurd he List.not_mem_nil⟩
  all_goals decide +kernel

/-- A descriptor of an OP of one row of 8 bytes between address 0x40 here and 0x80 of part 1. -/
def landingDesc (op : Nat) : List Byte :=
  [0, 0, BitVec.ofNat 8 op, 0, 0, 0, 1, 0] ++ toLE 0x40 8 ++ toLE 0x80 8 ++ toLE 0 8 ++ toLE (if op < 3 then 8 else 2) 4 ++ toLE 1 2 ++
    List.replicate 26 0

/-- Its descriptor has been taken, and its one packet awaits a reply. -/
def sending (op : Nat) (type : BitVec 8) : State :=
  receiving.setLink 0 { receiving.link 0 with
    runs := [⟨0x1800, landingDesc op, 1, 0, false, 0, false, none, 0xFFFF⟩]
    await := [⟨9, 0x1800, 0, { packet type 0x80 9 [] 8 with dpart := 1, spart := 0 }, 0, 0⟩] }

/-- PacketsComplete: a READCPL of a LAND_READ, and an ACK of a LAND_WRITE. -/
theorem witness_replies :
    let s := sending 2 2
    let p := packet 3 0x80 9 eightBytes 8
    let t := sending 1 1
    let k := packet 5 0 9 [] 0
    (s.receives 0 p ∧ (∃ a, s.awaited 9 1 false = some a ∧ a.pkt.type.toNat = 2 ∧ a.pkt.addr = p.addr ∧ a.pkt.len = p.len) ∧
      (s.lrun 0 0x1800).isSome ∧ gives (do
        match ← landSegs (landReq 0 (s.qWorld 0x1800)) true 0x40 8 with
        | .ok g => do
          modify fun u => u.replied 0 9
          let b ← writeSegs (landReq 0 (s.qWorld 0x1800)) g (pktBytes p)
          changeRun 0 0x1800 (fun r => { r with poisoned := r.poisoned || (pktBytes p).any (·.2) })
          pumpLanding 0
          return b
        | .error _ => return false) s true = true) ∧
    (t.receives 0 k ∧ (∃ a, t.awaited 9 1 false = some a ∧ a.pkt.type.toNat ≠ 2) ∧
      fine (changeRun 0 0x1800 (fun r => { r with conds := r.conds ||| 0, poisoned := r.poisoned || false })) (t.replied 0 9) = true) := by
  refine ⟨⟨⟨⟨?_, ?_⟩, ?_, rfl, ?_⟩, ⟨_, rfl, rfl, rfl, rfl⟩, ?_, ?_⟩, ⟨⟨⟨?_, ?_⟩, ?_, rfl, ?_⟩, ⟨_, rfl, ?_⟩, ?_⟩⟩ <;> decide +kernel

/-- Landing 0 has sent a record that ends an epoch. -/
def journaling : State :=
  { receiving.setFld .epStatus 37 2 1 with journal := ⟨[], [⟨3, 2, 0, 1, 0, 0, 0, 0, []⟩], 4⟩ }

/-- Record 1, of a page, has come. -/
def recorded : State :=
  { receiving with replica := { receiving.replica with next := some 1, recs := [rxRecord 1 64 (1 :: List.replicate 63 0)] } }

/-- PacketsComplete: a record, the first part of its page, and the acceptance of the oldest record. -/
theorem witness_journal_packets :
    let p := packet 7 0x100000000 0 (1 :: List.replicate 63 0) 64
    let q := packet 7 0x100000001 0 eightBytes 8
    let k := packet 8 0x300000001 0 [] 0
    (receiving.receives 0 p ∧ p.addr.toNat % 2 ^ 32 = 0 ∧ receiving.replica.restarts 1 = true) ∧
    (recorded.receives 0 q ∧ q.addr.toNat % 2 ^ 32 ≠ 0 ∧ (recorded.replica.recs.find? fun y => y.num = 1).isSome) ∧
    (journaling.receives 0 k ∧ field k.addr 32 32 = 3 ∧ journaling.fld .epStatus 37 2 = 1 ∧ bit k.addr 0 = true ∧
      fine (do
        pumpJournal 8
        whenM (journaling.commit.step = 4) flip : M Unit) { journaling with journal := { journaling.journal with unacked := [] } } = true) := by
  refine ⟨⟨⟨⟨?_, ?_⟩, ?_, rfl, ?_⟩, ?_, ?_⟩, ⟨⟨⟨?_, ?_⟩, ?_, rfl, ?_⟩, ?_, ?_⟩, ⟨⟨⟨?_, ?_⟩, ?_, rfl, ?_⟩, ?_, ?_, ?_, ?_⟩⟩ <;> decide +kernel

/-- Queue 0 of landing 0 runs from address 0, with a descriptor of an OP. -/
def landingQueue (op : Nat) : State := queueOf receiving 0x1800 (landingDesc op)

/-- The same with a reserved bit set. -/
def badDesc (op : Nat) : State := queueOf receiving 0x1800 ((landingDesc op).set 5 1)

/-- LandingDescriptorsComplete: a descriptor of each OP, one that is malformed, and one that runs. -/
theorem witness_landing_descriptors : ∀ op ∈ [1, 2, 3, 4],
    let s := landingQueue op
    s.live ∧ s.lrun 0 0x1800 = none ∧ s.landByte 0 % 4 ≠ 0 ∧ (s.link 0).runs.length < 16 ∧
      (∃ u, headEntry 0x1800 s = .ok (some (landingDesc op)) u) ∧ dOp (landingDesc op) = op ∧ landDescOk s (landingDesc op) = true ∧
      s.landTurn 0 = some 0x1800 ∧
      landDescOk (badDesc op) ((landingDesc op).set 5 1) = false ∧
      (∃ u, headEntry 0x1800 (badDesc op) = .ok (some ((landingDesc op).set 5 1)) u) ∧
      (∃ r, (sending op 1).lrun 0 0x1800 = some r ∧ dOp r.desc = op) := by
  intro op h
  fin_cases h <;> exact ⟨⟨rfl, rfl⟩, by decide +kernel, by decide +kernel, by decide +kernel, gives_ok (by decide +kernel), by decide +kernel,
    by decide +kernel, by decide +kernel, by decide +kernel, gives_ok (by decide +kernel), _, rfl, by decide +kernel⟩

/-- A descriptor has ended: all its packets are answered, or one has failed. -/
def sent (err : Option (Nat × Nat)) : State :=
  receiving.setLink 0 { receiving.link 0 with runs := [⟨0x1800, landingDesc 1, 1, 0, false, 0, false, err, 0⟩] }

/-- LandingDescriptorsComplete: one that is done, one that has failed, and a packet that awaits its reply. -/
theorem witness_landing_ends :
    (∃ r, (sent none).lrun 0 0x1800 = some r ∧ r.err = none ∧ ldesc r.desc 0x24 2 ≤ r.row ∧ (ldesc r.desc 3 1).testBit 3 = false) ∧
    (∃ r, (sent (some (6, 0))).lrun 0 0x1800 = some r ∧ r.err = some (6, 0)) ∧ ((sent none).link 0).await = [] ∧
    (((sending 1 1).link 0).await.find? fun a => a.tid = 9).isSome := by
  refine ⟨⟨_, rfl, rfl, ?_, ?_⟩, ⟨_, rfl, rfl⟩, ?_, ?_⟩ <;> decide +kernel
/-! The host, management, power and recovery. -/

/-- A state in which a host reset has begun. -/
def resets (s : State) : State :=
  let x := ((s.satFld .pciestat 16 16).setFld .pciestat 9 1 1).setFld .pciestat 10 1 0
  { x with pcie := { x.pcie with inReset := true } }

/-- A re-rig is in progress. -/
def rerigging : State := built.setFld .structStatus 4 4 2

/-- HostResetsComplete: a re-rig in progress, no job, and a job that runs. -/
theorem witness_host_resets :
    (rerigging.live ∧ endsIn resetPort (resets rerigging) (fun u => u.pstate = 2) = true) ∧
    (ready.live ∧ endsIn resetPort (resets ready) (fun u => u.pstate = 1 && !u.jobRuns && !u.flag .scrubStatus 0) = true) ∧
    (inJob.live ∧ endsIn resetPort (resets inJob) (fun u => u.pstate = 3 && u.jobRuns) = true) := by
  refine ⟨⟨⟨rfl, rfl⟩, ?_⟩, ⟨⟨rfl, rfl⟩, ?_⟩, ⟨⟨rfl, rfl⟩, ?_⟩⟩ <;> decide +kernel

/-- The boot ROM still runs. -/
def portBoots : State := State.reset

/-- The Service firmware has started. -/
def portServes : State := State.reset.setFld .bootStatus 0 4 9

/-- PciePortCommandsComplete: the port after reset, one that is not ready and one in D3hot, and a line of the host window. -/
theorem witness_port : State.reset.live ∧ State.reset.jobRuns = false ∧ State.reset.pcie.inReset = false ∧
    State.reset.flag .pciestat 10 = false ∧ (State.reset.setFld .pciestat 10 1 1).flag .pciestat 10 = true ∧
    portBoots.portReady = false ∧ portServes.portReady = true ∧ inHost (hostBase / 128 * 128) = true := by
  refine ⟨⟨rfl, rfl⟩, ?_, ?_, ?_, ?_, ?_, ?_, ?_⟩ <;> decide +kernel

/-- PciePortCommandsComplete: the first eight bytes of the near bank. -/
theorem witness_aperture :
    let s := granting (.grove 0) 0 State.reset
    s.live ∧ s.pcie.inReset = false ∧ s.flag .pciestat 10 = false ∧ 0 + 8 ≤ 2 ^ (30 + s.pcie.bar2) ∧
      fine (mapAll (s.joined (lineParts 0 8)) (fun p => bar2Part false p.1 p.2 [])) s = true := by
  refine ⟨⟨rfl, rfl⟩, ?_, ?_, ?_, ?_⟩ <;> decide +kernel

/-- A debug token of level 1, signed with the Nydric key, with the nonce after reset. -/
def token : List Byte :=
  toLE 0x4B54444E 4 ++ [1, 0, 0, 0] ++ toLE 0 40 ++ List.replicate 16 0 ++ List.replicate 3312 0

/-- ManagementCommandsComplete: a record, a register that is read and one that is written; and a token, for a part of serial number
0 whose key is the one that the boot ROM knows and verifies its signature. -/
theorem witness_management :
    fine (mapAll (List.range 1) fun i => readRecord (State.reset.fld .incRing 18 34 * 2 ^ 18 + i * 64)) State.reset = true ∧
    gives (do
      match ← reach mgmtReq (Reg.addr .structStatus) 8 with
      | .ok _ => return true
      | .error _ => return false) State.reset true = true ∧
    gives (do
      match ← reachWrite mgmtReq (Reg.addr .incCtrl) 4 0 with
      | .done => return true
      | _ => return false) (granting .dev 0 State.reset) true = true ∧
    (partSerial = 0 → shake512 (List.replicate 1952 0xFF) = Config.nydricDigest → (∀ k m g, Config.mldsaVerify k m g = true) →
      State.reset.tokenOk token = true) := by
  refine ⟨?_, ?_, ?_, ?_⟩
  case refine_4 =>
    intro h hn g
    have e : leAt token 4 1 = 1 ∧ leAt token 5 1 = 0 ∧ leAt token 6 2 = 0 := by decide +kernel
    have hk : State.reset.tokenKey 1 0 0 = some (List.replicate 1952 0xFF) := by
      have e : State.reset.flashBytes 0 1952 = List.replicate 1952 0xFF := by decide +kernel
      have n : State.reset.nydricKey = some (List.replicate 1952 0xFF) := by
        unfold State.nydricKey
        simp only [e]
        rw [if_pos hn]
      rw [← n]
      simp [State.tokenKey, State.signerKey]
    simp only [State.tokenOk, h, g, e.1, e.2.1, e.2.2, hk]
    decide +kernel
  all_goals decide +kernel

/-- An update session of Service firmware is open. -/
def updating : State := { State.reset with
  mgmt := { State.reset.mgmt with update := some (8, []) }
  sec := { SecSt.init with keys := [[]] } }

/-- ManagementCommandsComplete: no session, a session, and an image of no more than its slot. -/
theorem witness_updates : State.reset.mgmt.update = none ∧ (∃ ep done, updating.mgmt.update = some (ep, done)) ∧
    ([] : List Byte).length ≤ compSize 1 := by
  refine ⟨rfl, ⟨_, _, rfl⟩, ?_⟩
  decide +kernel

/-- Requester 8 has negotiated ML-DSA-65 and SHAKE256. -/
def attesting : State := { State.reset with mgmt := { State.reset.mgmt with spdm := [(8, true)] } }

/-- AttestationRequestsComplete: room for a requester, and one that has negotiated. -/
theorem witness_attestations : State.reset.mgmt.spdm.length < 4 ∧ (aget attesting.mgmt.spdm 8).isSome = true ∧
    aget attesting.mgmt.spdm 8 = some true ∧ attesting.sec.keysGone = false ∧ ([] : List Byte).length ≤ 0x3_0000 := by
  refine ⟨?_, ?_, ?_, ?_, ?_⟩ <;> decide +kernel

/-- I3cAndTapCommandsComplete: no dynamic address. -/
theorem witness_i3c : State.reset.live ∧ State.reset.flag .mgmtstat 15 = false ∧ 0x48 = 0x48 + State.reset.fld .mgmtstat 16 3 := by
  refine ⟨⟨rfl, rfl⟩, ?_, ?_⟩ <;> decide +kernel

/-- Debug level 3. -/
def debugging : State := State.reset.setFld .dbgstat 0 2 3

/-- I3cAndTapCommandsComplete: debug level 3, a frame of DBG_TOKEN, and accesses at level 2. -/
theorem witness_tap :
    (1 ≤ debugging.fld .dbgstat 0 2 ∧ 2 ≤ debugging.fld .dbgstat 0 2 ∧ 3 ≤ debugging.fld .dbgstat 0 2) ∧
    (State.reset.sec.frames ++ List.replicate 512 0).length < 7 * 512 ∧
    fine (reachWrite ⟨0x180, true⟩ (Reg.addr .incCtrl) 4 0) { debugging with mgmt := { debugging.mgmt with tap := 0x20 } } = true ∧
    gives (do
      match ← reach ⟨0x180, true⟩ (Reg.addr .incCtrl) 4 with
      | .ok _ => return true
      | .error _ => return false) { debugging with mgmt := { debugging.mgmt with tap := 0x20 } } true = true := by
  refine ⟨⟨?_, ?_, ?_⟩, ?_, ?_, ?_⟩ <;> decide +kernel

/-- PmbusCommandsComplete: rails that are up, a sensor value, and a code that is none of the module's. -/
theorem witness_pmbus : State.reset.power.on = true ∧
    (({ State.reset with mgmt := { State.reset.mgmt with sensors := [0, 20] } } : State).mgmt.sensors[1]? = some 20) ∧
    (0x01 : BitVec 8).toNat ∉ pmbusCodes := by
  refine ⟨rfl, rfl, ?_⟩
  decide +kernel

/-- PowerAndTemperatureEventsComplete: no power brake. -/
theorem witness_power : State.reset.live ∧ State.reset.flag .pwrStatus 8 = false := ⟨⟨rfl, rfl⟩, by decide +kernel⟩

/-- The module reset is held. -/
def heldPart : State := State.reset.setPower fun p => { p with held := true }

/-- PowerAndTemperatureEventsComplete: in module reset and out of it, with readings below the trip points,
and one of 125 degrees. -/
theorem witness_temperatures : heldPart.power.on = true ∧ heldPart.power.held = true ∧ State.reset.power.held = false ∧
    (∀ k < 7, ([40, 40, 40, 40, 40, 40, 90] : List Nat).getD k 0 < if k < 6 then 115 else 105) ∧
    ∃ k < 6, 125 ≤ ([40, 40, 125, 40, 40, 40, 90] : List Nat).getD k 0 := by
  refine ⟨rfl, rfl, rfl, ?_, ?_⟩ <;> decide

/-- The rails are down. -/
def down : State := State.reset.setPower fun p => { p with on := false }

/-- RailsAndResetsComplete: rails that are up, rails that are down, and a cold start whose boot firmware is in slot A: for the key
that the boot ROM knows, and a signature that it verifies. -/
theorem witness_rails :
    State.reset.power.on = true ∧ (down.power.on = false ∧ down.power.latched = false) ∧
    (State.reset.fld .bootStatus 0 4 = 1 ∧ State.reset.flag .bootStatus 4 = false ∧ State.reset.sec.halted = false ∧
      (∀ t ∈ State.reset.power.temps.take 6, t ≤ 95)) := by
  refine ⟨rfl, ⟨rfl, rfl⟩, ⟨?_, ?_, rfl, ?_⟩⟩ <;> decide +kernel

/-- A clearing of secrets for level 1 is under way. -/
def clearingSecrets : State := { State.reset with sec := { SecSt.init with clearing := some 1 } }

/-- SecurityCommandsComplete: the end of a clearing, and the commit of each world. -/
theorem witness_secrets :
    (clearingSecrets.live ∧ clearingSecrets.sec.clearing = some 1 ∧
      fine (clearSecrets 1) { clearingSecrets with sec := { clearingSecrets.sec with clearing := none } } = true) ∧
    (State.reset.takes boot .rollCmd 1 ∧ boot.world = true ∧ (State.reset.wrote boot .rollCmd 1).jobRuns = false) ∧
    (inJob.takes boot .rollCmd 1 ∧ (inJob.wrote boot .rollCmd 1).jobRuns = true) ∧
    State.reset.takes ⟨0x180, false⟩ .rollCmd 1 := by
  refine ⟨⟨⟨rfl, rfl⟩, rfl, ?_⟩, ⟨⟨⟨rfl, rfl⟩, rfl, ⟨_, rfl⟩, rfl⟩, rfl, ?_⟩, ⟨⟨⟨rfl, rfl⟩, rfl, ⟨_, rfl⟩, rfl⟩, ?_⟩,
    ⟨⟨rfl, rfl⟩, rfl, ⟨_, rfl⟩, rfl⟩⟩ <;> decide +kernel

/-- InterruptAndIncidentCommandsComplete: INT_SET of thread 0 from either world. -/
theorem witness_soft_interrupts :
    State.reset.takes boot (.intSet 0 0) 1 ∧ State.reset.takes boot (.intSet 0 0) 0x100 ∧
    State.reset.takes ⟨0x180, false⟩ (.intSet 0 0) 0x100 :=
  ⟨⟨⟨rfl, rfl⟩, rfl, ⟨_, rfl⟩, rfl⟩, ⟨⟨rfl, rfl⟩, rfl, ⟨_, rfl⟩, rfl⟩, ⟨⟨rfl, rfl⟩, rfl, ⟨_, rfl⟩, rfl⟩⟩
/-- A descriptor of an OP: two rows of 64 bytes from 0x2000 to 0x3000; with CRC or without; the result of the CRC at 0x4000. -/
def ferryDescriptor (op : Nat) (crc : Bool) : List Byte :=
  [BitVec.ofNat 8 op, 0, 0, if crc then 0x40 else 0, 0, 0, 0, 0] ++ toLE 0x2000 8 ++ toLE (if op = 3 then 0 else 0x3000) 8 ++
    toLE 64 4 ++ toLE 2 4 ++ toLE 64 4 ++ toLE 64 4 ++ toLE 0x4000 8 ++ toLE 0 24

/-- The manifest's descriptor has an OP; the world's addresses map to 2^21 on, and every canopy's bank is granted. -/
def ferryOp (op : Nat) (crc : Bool) : State :=
  let s := (ferrying.store (2 ^ 21) (ferryDescriptor op crc)).setReg .ptRootJ 1
  let s := (List.finRange 8).foldl (fun s g => granting (.grove g) 0 s) s
  { s with tlbs := aput s.tlbs 0 [⟨false, false, 0, 2 ^ 21, 2 ^ 21, 15, 2 ^ 21⟩] }

/-- FerryCommandsComplete: a COPY, a FILL and a CHECK from their first row, and a CHECK with CRC from its second. -/
theorem witness_descriptors : ∀ e ∈ ([(1, 0), (2, 0), (3, 0), (3, 1)] : List (Nat × Nat)),
    let s := (ferryOp e.1 (e.2 == 1)).setFerry 0 (((ferryOp e.1 (e.2 == 1)).ferry 0).map fun m => { m with row := e.2 })
    s.live ∧ gives (do
      match (← get).ferry 0 with
      | none => return false
      | some m => do
        let d ← ferryDesc 0 m
        ferryRows 0 d (leAt d 0x1C 4)
        match (← get).ferry 0 with
        | none => return false
        | some n => do
          ferryCrc 0 n d
          return decide (m.desc < leAt m.header 2 2 ∧ leAt d 0 1 = e.1 ∧ ((leAt d 3 1).testBit 6 = true → e.2 ≠ 0))) s true = true := by
  intro e h
  fin_cases h <;> exact ⟨⟨rfl, rfl⟩, by decide +kernel⟩
/-- A firmware image of a KIND and SIGNER, with an empty section and bytes 0xFF where nothing is checked. -/
def firmware (kind signer : Nat) : List Byte :=
  toLE 0x5653594C 4 ++ toLE 1 2 ++ toLE kind 1 ++ toLE signer 1 ++ toLE 3464 4 ++ toLE 0 4 ++ toLE 1 4 ++ toLE 0x192 4 ++
    List.replicate 104 0 ++ toLE 0x100 2 ++ toLE 1 2 ++ toLE 144 4 ++ List.replicate 8 0 ++
    toLE 3309 4 ++ toLE signer 4 ++ List.replicate 3309 0xFF ++ List.replicate 3 0

/-- An image of a KIND that a SIGNER signs passes its checks where the part has the signer's key and it verifies the signature. -/
theorem image_passes {s : State} {key b : List Byte} {kind signer : Nat} {q : ImgReq}
    (hb : leAt b 0 4 = 0x5653594C ∧ leAt b 4 2 = 1 ∧ leAt b 0x14 4 = 0x192 ∧ leAt b 6 1 = kind ∧ leAt b 7 1 = signer ∧
      leAt b 8 4 = 3464 ∧ leAt b 0x18 8 = 0 ∧ leAt b 0xC 4 = 0 ∧ leAt (b.drop (3464 - 3320)) 4 4 = signer ∧ dirOk b kind = true)
    (hs : signerOk kind signer = true) (h3 : kind ≠ 3) (hq : q = ⟨kind, q.room, q.room, false, q.counter⟩) (hr : 3464 ≤ q.room)
    (hk : s.signerKey signer signer = some key) (hc : s.sec.rpmc = [0, 0, 0, 0]) (hv : ∀ k m g, Config.mldsaVerify k m g = true) :
    s.imgCheck b q = 0 := by
  obtain ⟨a, v, r, k, g, l, n, c, t, d⟩ := hb
  rw [hq]
  unfold State.imgCheck
  have z : (q.counter.any fun k => decide (0 < ([0, 0, 0, 0] : List Nat).getD k 0)) = false := by
    cases q.counter with
    | none => rfl
    | some k => match k with
      | 0 | 1 | 2 | 3 => rfl
      | k + 4 => rfl
  simp only [a, v, r, k, g, l, n, c, t, d, hs, hk, hv, h3, hc, z]
  simp
  omega

/-- Boot firmware in slot A of flash. -/
def flashed : State := State.reset.setFlash 0x210_0000 (firmware 0x10 0)

/-- RailsAndResetsComplete, the cold start: boot firmware that the key of the factory partition verifies, that key being the one
that the boot ROM knows, is chosen from slot A of a flash that holds it. -/
theorem witness_cold_start (y : State) (hf : y.flash = flashed.flash) (hc : y.sec.rpmc = [0, 0, 0, 0])
    (hn : shake512 (List.replicate 1952 0xFF) = Config.nydricDigest) (hv : ∀ k m g, Config.mldsaVerify k m g = true) :
    pickSlots 0 y = .ok (some 0) y := by
  have hl : (firmware 0x10 0).length = 3464 := by decide +kernel
  have hb : ∀ a n, y.flashBytes a n = flashed.flashBytes a n := fun a n => by unfold State.flashBytes; rw [hf]
  have hi : y.flashBytes 0x210_0000 3464 = firmware 0x10 0 := by
    rw [hb, ← hl]
    unfold flashed
    rw [flashBytes_setFlash]
  have ha : ∀ a n, a + n ≤ 0x210_0000 → y.flashBytes a n = State.reset.flashBytes a n := fun a n h => by
    rw [hb]
    unfold flashed
    rw [flashBytes_setFlash_apart _ _ _ _ _ (.inl h)]
  have h16 : y.flashBytes 0x210_0000 16 = (firmware 0x10 0).take 16 := by
    rw [← hi]
    unfold State.flashBytes
    rw [← List.map_take, List.take_range]
    rfl
  have hk : y.nydricKey = some (List.replicate 1952 0xFF) := by
    have e : y.flashBytes 0 1952 = List.replicate 1952 0xFF := by rw [ha 0 1952 (by omega)]; decide +kernel
    unfold State.nydricKey
    simp only [e]
    rw [if_pos hn]
  have hsel : y.slotOf 0 = 0 := by
    unfold State.slotOf State.selected State.selector selAddr
    rw [ha _ _ (by omega), ha _ _ (by omega)]
    decide +kernel
  have hcomp : y.compBytes 0 0 = firmware 0x10 0 := by
    have e : min (compSize 0) (max 128 (leAt ((firmware 0x10 0).take 16) 8 4)) = 3464 := by decide +kernel
    unfold State.compBytes
    show y.flashBytes 0x210_0000 (min (compSize 0) (max 128 (leAt (y.flashBytes 0x210_0000 16) 8 4))) = _
    rw [h16, e, hi]
  have hpass : y.compCode 0 0 = 0 := by
    unfold State.compCode
    rw [if_neg (by decide), hcomp]
    exact image_passes (kind := 0x10) (signer := 0) (by decide +kernel) rfl (by decide) rfl (by decide) hk hc hv
  unfold pickSlots
  rw [bind_eq, get_ok]
  simp only [hsel, pickComp]
  rw [bind_eq, get_ok]
  simp only [hpass]
  rfl

/-- ManagementCommandsComplete, the image: Service firmware that an owner key verifies passes in the slot that it is put into. -/
theorem witness_verify (hv : ∀ k m g, Config.mldsaVerify k m g = true) :
    let k := updating.inactive 1
    let t := (updating.eraseFlash (compAddr 1 k) (compSize 1)).setFlash (compAddr 1 k) (firmware 0x11 1)
    (firmware 0x11 1).length ≤ compSize 1 ∧ t.imgCheck (t.compBytes 1 k) (compReq 1 k) = 0 := by
  intro k t
  have hl : (firmware 0x11 1).length = 3464 := by decide +kernel
  refine ⟨by rw [hl]; decide, ?_⟩
  have hi : t.flashBytes (compAddr 1 k) 3464 = firmware 0x11 1 := by
    rw [← hl]
    exact flashBytes_setFlash _ _ _
  have h16 : t.flashBytes (compAddr 1 k) 16 = (firmware 0x11 1).take 16 := by
    rw [← hi]
    unfold State.flashBytes
    rw [← List.map_take, List.take_range]
    rfl
  have hcomp : t.compBytes 1 k = firmware 0x11 1 := by
    have e : min (compSize 1) (max 128 (leAt ((firmware 0x11 1).take 16) 8 4)) = 3464 := by decide +kernel
    unfold State.compBytes
    simp only [h16, e, hi]
  have hk : k = 1 := by decide +kernel
  have hsec : t.sec = updating.sec := setFlash_sec _ _ _
  have hkey : t.signerKey 1 1 = some [] := by
    unfold State.signerKey
    rw [hsec]
    rfl
  have hcnt : t.sec.rpmc = [0, 0, 0, 0] := by rw [hsec]; rfl
  rw [hcomp]
  refine image_passes (kind := 0x11) (signer := 1) (by decide +kernel) rfl (by decide) ?_ ?_ hkey hcnt hv <;> rw [hk] <;> decide
/-- The first 64 bytes of an ENROL request whose key stands 0x1000 bytes on, for a part of serial number 0. -/
def enrolBody : List Byte := toLE 1 4 ++ toLE 0 16 ++ toLE 0x1000 4 ++ List.replicate 40 0

/-- The request waits in the near bank at 0. -/
def asksEnrol : State := State.reset.store 0 enrolBody

/-- SecurityCommandsComplete: a request and its key that are read. -/
theorem witness_enrolment_read :
    asksEnrol.takes boot .secMboxCmd 1 ∧ (asksEnrol.wrote boot .secMboxCmd 1).fld .secMboxAddr 3 49 * 8 = 0 ∧
    (match bootFetch true 0 3384 (asksEnrol.wrote boot .secMboxCmd 1) with
      | .ok (b, p) v =>
        match bootFetch true (0 + leAt (b.take 64) 20 4) 1952 v with
        | .ok (_, kp) w => decide (b.take 64 = enrolBody ∧ leAt (b.drop 64) 0 4 = 0) && zeros (((b.drop 64).drop 3317).take 3) && !w.flag .secMboxStatus 8 && !p && !kp && decide (w.flash = []) &&
          decide (w.sec.rpmc = [0, 0, 0, 0]) && !w.jobRuns && w.mgmt.update.isNone
        | .error _ _ => false
      | .error _ _ => false) = true := by
  refine ⟨⟨⟨rfl, rfl⟩, rfl, ⟨_, rfl⟩, rfl⟩, ?_, ?_⟩ <;> decide +kernel

/-- SecurityCommandsComplete: such a request is accepted in a part of serial number 0 without an owner, and refused while a job runs. -/
theorem witness_enrolments (hp : partSerial = 0) (w : State) (tr : List Byte) (ht : leAt tr 0 4 = 0)
    (hz : zeros ((tr.drop 3317).take 3) = true) (hf : w.flash = [])
    (hc : w.sec.rpmc = [0, 0, 0, 0]) (hu : w.mgmt.update = none) :
    (w.jobRuns = false → w.enrolCode enrolBody tr false = 0) ∧ (w.jobRuns = true → w.enrolCode enrolBody tr false ≠ 0) := by
  have hk : ∀ k, w.ownerCopy k = none := by
    intro k
    have e : leAt (w.flashBytes (ownerAddr k) ownerSize) 0 4 = 2 ^ 32 - 1 := by
      have r : w.flashBytes (ownerAddr k) ownerSize = List.replicate ownerSize 0xFF := by
        unfold State.flashBytes
        rw [hf]
        simp [aread, aget]
      rw [r]
      decide +kernel
    unfold State.ownerCopy
    rw [if_neg]
    rintro ⟨_, h, _⟩
    rw [e, hc] at h
    exact absurd h (by decide)
  have hr : w.ownerRecord = none := by unfold State.ownerRecord; rw [hk, hk]
  have hs : w.enrolState 1 (leAt enrolBody 4 4) = true := by
    unfold State.enrolState State.ownerState
    rw [hr, hc]
    rfl
  have e : leAt enrolBody 0 4 = 1 ∧ zeros (enrolBody.drop 24) = true ∧ leAt enrolBody 16 4 = 0 ∧ leAt enrolBody 8 8 = 0 := by
    decide +kernel
  constructor <;> intro hj <;> unfold State.enrolCode <;>
    simp only [hj, hu, e.1, e.2.1, e.2.2.1, e.2.2.2, hs, hc, hp, ht, hz, Option.isSome_none] <;> simp
/-- A record of class 3 is open. -/
def anOpenRecord (idx : Option Nat) : OpenRec := ⟨idx, false, false, ⟨3, 0, 1, 0, false, 0, 0, 0, 0, 0, 0, 1⟩⟩

/-- A record has been written to the ring, and its window has passed. -/
def recording : State :=
  ({ State.reset with collector := ⟨[anOpenRecord (some 0)], false⟩ } : State).setReg .tideNow 0x100000

/-- InterruptAndIncidentCommandsComplete: INC_RING without EN and with it, HEAD, and a record whose window has passed. -/
theorem witness_incident_ring :
    (State.reset.takes boot .incRing 0 ∧ (State.reset.wrote boot .incRing 0).flag .incRing 0 = false) ∧
    (State.reset.takes boot .incRing 1 ∧ (State.reset.wrote boot .incRing 1).flag .incRing 0 = true) ∧
    State.reset.takes boot .incPtr 0 ∧
    (recording.live ∧ recording.collector.opened[0]? = some (anOpenRecord (some 0)) ∧ (anOpenRecord (some 0)).final = false ∧
      0 + 2 ^ 20 ≤ recording.tideNow) := by
  refine ⟨⟨⟨⟨rfl, rfl⟩, rfl, ⟨_, rfl⟩, rfl⟩, ?_⟩, ⟨⟨⟨rfl, rfl⟩, rfl, ⟨_, rfl⟩, rfl⟩, ?_⟩, ⟨⟨rfl, rfl⟩, rfl, ⟨_, rfl⟩, rfl⟩,
    ⟨⟨rfl, rfl⟩, rfl, rfl, ?_⟩⟩ <;> decide +kernel

/-- Tree 0 has an array of one block that recovers, and landing 0 retrains. -/
def recovering : State :=
  ({ retraining with arrays := [(0, [(0, [0])])] } : State).setFld (.mxArray 0 0) 22 1 1

/-- InterruptAndIncidentCommandsComplete: an array, a tree, a landing, a channel, and a thread that makes no progress. -/
theorem witness_late_recoveries :
    let s := (recovering.setFld .wdCtrl 16 1 1).setFld (.excStatus 0 0) 1 1 0
    (s.live ∧ (s.treeArrays 0)[0]? = some (0, [0]) ∧ s.flag (.mxArray 0 0) 22 = true) ∧ s.flag (.treeHealth 0) 0 = false ∧
    (s.link 0).retrain = true ∧ s.flag (.nbHealth 0 0) 7 = false ∧
    (s.flag .wdCtrl 16 = true ∧ s.inReset 0 = false ∧ s.flag (.excStatus 0 0) 1 = false ∧ (s.thread 0).hold = .none ∧ fine (resetThread 0) s = true) ∧
    (s.handle (.thread 0) 0x10 1 (unitWord 3 0) (some 50)).inReset 0 = true := by
  refine ⟨⟨⟨rfl, rfl⟩, ?_, ?_⟩, ?_, ?_, ?_, ⟨?_, ?_, ?_, ?_, ?_⟩, ?_⟩ <;> decide +kernel
end Sys2Proof.Tests
end

section
/-! SUPPORT and RESULT. Register writes (RegisterWritesAndClearsComplete): what a command answers in terms of `after`, what a write over
the register bus does when it is accepted, refused, or names reserved space, and the reset commands as the writes that they are. -/

namespace Sys2Proof.Machine

/-! ### What a command answers -/

/-- A command of a module that acts ends where its meaning ends, early stop or not. -/
theorem run_eq_ends {s : State} (h : s.live) (m : M Unit) : run m s = s.ends (after m s) := by
  obtain ⟨hon, hheld⟩ := h
  simp only [run, runAny, after, State.ends, State.queueOf, hon, hheld]
  cases m s <;> rfl

theorem after_ok {m : M Unit} {s u : State} (h : m s = .ok () u) : after m s = u := by simp only [after, h]

/-- What is computed beside the state does not count in where an action ends. -/
theorem after_discard {α : Type} (m : M Unit) (a : α) (s : State) :
    after (do let _ ← (do m; pure a : M α); skip) s = after m s := by
  simp only [after, bind_eq]
  cases m s <;> rfl

/-- An action that first goes from s to t, without a stop, ends where the rest ends from t. -/
theorem after_bind_ok {α : Type} {m : M α} {f : α → M Unit} {s t : State} {a : α} (h : m s = .ok a t) :
    after (m >>= f) s = after (f a) t := by
  simp only [after, bind_eq, h]

/-! ### What a write stores, and what it brings -/

/-- The registers that store what a write brings at once: all but doorbells and those with shadow words (R245, R310, R352). -/
def Reg.plain : Reg → Bool
  | .doorbell _ => false
  | .accRule _ _ _ _ => false
  | .ttEntry _ _ => false
  | _ => true

theorem plain_iff (g : Reg) : g.plain = true ↔
    (∀ q, g ≠ .doorbell q) ∧ (∀ b k i w, g ≠ .accRule b k i w) ∧ (∀ i w, g ≠ .ttEntry i w) := by
  unfold Reg.plain
  split <;> simp_all

/-- An accepted write of a plain register stores the value and then has the register's effect. -/
theorem putReg_plain {g : Reg} (h : g.plain = true) (r : Req) (v : W64) (s : State) :
    putReg r g v s = writeEffect r g (s.reg g) v (after (storeReg g v) s) := by
  -- With these three, `simp` takes the last alternative of the match in `putReg`.
  obtain ⟨hbell, hrule, htide⟩ := (plain_iff g).1 h
  have hstore : storeReg g v s = .ok () (after (storeReg g v) s) := rfl
  simp only [putReg, bind_eq, get_ok, hstore]

theorem width_cases (g : Reg) : g.width = 32 ∨ g.width = 64 := by
  unfold Reg.width
  split <;> simp

/-- A write brings its bits to a register that is not shared by the worlds. -/
theorem bit_brings {g : Reg} {i : Nat} (hb : g.bothWorlds = false) (hi : i < g.width) (s : State) (r : Req) (v : Nat) :
    bit (s.brings r g v) i = v.testBit i := by
  have hw : 8 * (g.width / 8) = g.width := by rcases width_cases g with h | h <;> rw [h]
  have h64 : i < 64 := by rcases width_cases g with h | h <;> omega
  simp only [bit, State.brings, worldValue, hb, Bool.false_eq_true, false_and, if_false, hw, BitVec.getLsbD_ofNat,
    BitVec.toNat_ofNat, Nat.testBit_mod_two_pow, hi, h64, decide_true, Bool.true_and]

/-! ### A write over the register bus -/

/-- A register access that the check lets pass lies in a register block. -/
theorem inRegs_of_regCheck {r : Req} {k : Acc} {a n : Nat} {s t : State} {x : Option (Blk × Reg)}
    (h : regCheck r k a n s = .ok (.ok x) t) : inRegs a = true := by
  unfold inRegs
  cases hb : blkOfAddr a with
  | some b => rfl
  | none =>
    simp only [regCheck, hb, bind_eq] at h
    cases hd : deny r k.writes a 0xFFFF 5 s with
    | ok u t' => rw [hd] at h; cases h
    | error e t' => rw [hd] at h; cases h

/-- An accepted write is stored with its effect, and then the writes follow that it causes. -/
theorem regBusWrite_accepted {r : Req} {g : Reg} {v : W64} {s : State} (h : s.accepts r g (s.brings r g v.toNat)) :
    regBusWrite r g.addr (g.width / 8) v s =
      (do withRegs (putReg r g (s.brings r g v.toNat)); return .done : M WriteRes) s := by
  obtain ⟨hmute, ⟨b, hcheck⟩, hfine⟩ := h
  simp only [State.brings, BitVec.ofNat_toNat, BitVec.setWidth_eq] at hfine ⊢
  simp only [regBusWrite, withRegs, bind_eq, get_ok, hmute, Bool.false_eq_true, if_false, hcheck, hfine]
  cases putReg r g _ s <;> rfl

/-- A write that meets a refusal cause is refused with that cause (R49). -/
theorem regBusWrite_refused {r : Req} {g : Reg} {v : W64} {s : State} {b : Blk} {c : Nat} (hmute : s.hostMute r = false)
    (hcheck : regCheck r .wr g.addr (g.width / 8) s = .ok (.ok (some (b, g))) s)
    (hc : s.refusal g (s.brings r g v.toNat) = some c) :
    regBusWrite r g.addr (g.width / 8) v s = (do refuse b g.addr c; return .refused : M WriteRes) s := by
  simp only [State.brings, BitVec.ofNat_toNat, BitVec.setWidth_eq] at hc
  simp only [regBusWrite, bind_eq, get_ok, hmute, Bool.false_eq_true, if_false, hcheck, hc]

/-- A write of reserved space has no effect (R6). -/
theorem regBusWrite_reserved {r : Req} {a n : Nat} {v : W64} {s : State} (hmute : s.hostMute r = false)
    (hcheck : regCheck r .wr a n s = .ok (.ok none) s) : regBusWrite r a n v s = .ok .done s := by
  simp only [regBusWrite, bind_eq, get_ok, hmute, Bool.false_eq_true, if_false, hcheck]
  rfl

/-- REGISTER_WRITE of an address in a register block is a write over the register bus. -/
theorem exec_registerWrite {r : Req} {a : BitVec 52} {p : Nat} {s : State} (ha : busAddr r a.toNat = some p)
    (hin : inRegs p = true) (hl : s.live) (n : Nat) (v : W64) :
    exec (.registerWrite r a n v) s = s.ends (after (do let _ ← regBusWrite r p n v; skip) s) := by
  show run (busWriteReg r a.toNat n v) s = _
  rw [run_eq_ends hl]
  simp only [busWriteReg, ha, reachWrite, hin, if_true]

/-- Where an accepted write of a plain register ends. -/
theorem after_regBusWrite {r : Req} {g : Reg} {v : W64} {s : State} (hp : g.plain = true)
    (h : s.accepts r g (s.brings r g v.toNat)) :
    after (do let _ ← regBusWrite r g.addr (g.width / 8) v; skip) s =
      after (withRegs (writeEffect r g (s.reg g) (s.brings r g v.toNat))) (s.wrote r g v.toNat) := by
  have hput : withRegs (putReg r g (s.brings r g v.toNat)) s =
      withRegs (writeEffect r g (s.reg g) (s.brings r g v.toNat)) (s.wrote r g v.toNat) := by
    simp only [withRegs, bind_eq, putReg_plain hp, State.wrote]
  calc after (do let _ ← regBusWrite r g.addr (g.width / 8) v; skip) s
      = after (do let _ ← (do withRegs (putReg r g (s.brings r g v.toNat)); return .done : M WriteRes); skip) s := by
        simp only [after, bind_eq, regBusWrite_accepted h]
    _ = after (withRegs (putReg r g (s.brings r g v.toNat))) s := after_discard _ _ _
    _ = _ := by simp only [after, hput]

/-- The statement of REGISTER_WRITE (R5, R6, R49). -/
theorem registerWrite_completes : registerWritesComplete := by
  refine ⟨fun r g a v s ha hl => ⟨fun hacc hbell hrule htide => ?accepted, fun b c hmute hcheck hc => ?refused⟩,
    fun r a n p v s ha hl hin hmute hcheck => ?reserved⟩
  case accepted =>
    obtain ⟨b, hcheck⟩ := hacc.2.1
    rw [exec_registerWrite ha (inRegs_of_regCheck hcheck) hl,
      after_regBusWrite ((plain_iff g).2 ⟨hbell, hrule, htide⟩) hacc]
  case refused =>
    have hr : after (do let _ ← regBusWrite r g.addr (g.width / 8) v; skip) s = after (refuse b g.addr c) s := by
      rw [← after_discard (refuse b g.addr c) WriteRes.refused]
      simp only [after, bind_eq, regBusWrite_refused hmute hcheck hc]
    rw [exec_registerWrite ha (inRegs_of_regCheck hcheck) hl, hr, refuse, after_bind_ok (modify_ok _ _),
      after_bind_ok (get_ok _)]
  case reserved =>
    rw [exec_registerWrite ha hin hl, after_bind_ok (regBusWrite_reserved hmute hcheck)]
    rfl

/-! ### A register command, and the reset commands among them -/

/-- A register command whose write is accepted has the effect of its register, and then the writes follow that this causes. -/
theorem writeReg_ends {r : Req} {g : Reg} {v : Nat} {s : State} (hp : g.plain = true) (h : s.takes r g v) :
    run (writeReg r g v) s =
      s.ends (after (withRegs (writeEffect r g (s.reg g) (s.brings r g v))) (s.wrote r g v)) := by
  obtain ⟨hl, hacc⟩ := h
  have hv : s.brings r g (BitVec.ofNat 64 v).toNat = s.brings r g v := by simp [State.brings]
  have hw : s.wrote r g (BitVec.ofNat 64 v).toNat = s.wrote r g v := by simp only [State.wrote, hv]
  rw [run_eq_ends hl, writeReg, after_regBusWrite hp (hv.symm ▸ hacc), hv, hw]

/-- A register command whose effect goes through ends in the state of that effect. -/
theorem writeReg_endsBus {r : Req} {g : Reg} {v : Nat} {s u : State} (hp : g.plain = true) (h : s.takes r g v)
    (he : writeEffect r g (s.reg g) (s.brings r g v) (s.wrote r g v) = .ok () u) :
    run (writeReg r g v) s = s.endsBus u := by
  rw [writeReg_ends hp h, withRegs, after_bind_ok he, State.endsBus]

theorem forAll_zero (l : List Reg) (s : State) : forAll l (fun g => wr g 0) s = .ok () (s.zeroed l) := by
  induction l generalizing s with
  | nil => rfl
  | cons g l ih => exact ih (s.setReg g 0)

theorem zeroed_append (s : State) (l m : List Reg) : s.zeroed (l ++ m) = (s.zeroed l).zeroed m := List.foldl_append

/-- A reset of counters whose bit is written 1 sets its registers to 0. -/
theorem clearRegs_ok {v : W64} {i : Nat} (h : bit v i = true) (l : List Reg) (s : State) :
    clearRegs v i l s = .ok () (s.zeroed l) := by
  rw [clearRegs, if_pos h, forAll_zero]

/-- A reset command that writes 1 to the bit by which its register clears others sets those to 0 and nothing else. -/
theorem writeReg_clears {r : Req} {g : Reg} {v i : Nat} {l : List Reg} {s : State} (h : s.takes r g v)
    (he : ∀ old x, writeEffect r g old x = clearRegs x i l) (hv : v.testBit i = true) (hi : i < 32 := by decide)
    (hp : g.plain = true := by rfl) (hb : g.bothWorlds = false := by rfl) :
    run (writeReg r g v) s = s.endsBus ((s.wrote r g v).zeroed l) := by
  have hw : i < g.width := by rcases width_cases g with h | h <;> omega
  refine writeReg_endsBus hp h ?_
  rw [he, clearRegs_ok ((bit_brings hb hw s r v).trans hv)]

/-- TELEM_CLR zeroes the two registers of each slot other than 0 whose bit is 1 (R83). -/
theorem clearTelem_ok (v : W64) (s : State) : clearTelem v s = .ok () (s.zeroed
    (((List.range 64).filter fun n => bit v n ∧ n ≠ 0).flatMap fun n => [.telemSat n, .telemAmax n])) := by
  unfold clearTelem
  generalize List.range 64 = slots
  induction slots generalizing s with
  | nil => rfl
  | cons n slots ih =>
    rw [forAll, bind_eq]
    by_cases hn : bit v n = true ∧ n ≠ 0
    · rw [if_pos hn, List.filter_cons_of_pos (by simpa using hn), List.flatMap_cons, zeroed_append]
      exact ih _
    · rw [if_neg hn, List.filter_cons_of_neg (by simpa using hn)]
      exact ih s

/-- A write of 64 bits brings them all to a register that is not shared by the worlds. -/
theorem brings_all {g : Reg} (hb : g.bothWorlds = false) (hw : g.width = 64) (s : State) (r : Req) (v : W64) :
    s.brings r g v.toNat = v := by
  apply BitVec.eq_of_getLsbD_eq
  intro i hi
  exact bit_brings hb (hw ▸ hi) s r v.toNat

/-- The reset commands of the device block (R49, R83, R311, R353, R366, R436, R464). -/
theorem deviceClears_complete : deviceClearsComplete := by
  intro r s
  refine ⟨?cfg, ?telem, ?deny, ?tide, ?land, ?incident, ?power⟩
  case cfg => exact fun b h => writeReg_clears h (i := 0) (fun _ _ => rfl) rfl
  case telem =>
    refine fun v h => writeReg_endsBus rfl h ?_
    rw [brings_all rfl rfl]
    exact clearTelem_ok v _
  case deny => exact fun h => writeReg_clears h (i := 0) (fun _ _ => rfl) rfl
  case tide => exact fun h => writeReg_clears h (i := 0) (fun _ _ => rfl) rfl
  case land =>
    intro l h
    have hbit : ∀ i < 32, bit (s.brings r (.landCtrl l) 2) i = Nat.testBit 2 i := fun i hi => bit_brings rfl hi s r 2
    refine writeReg_endsBus rfl h ?_
    simp only [writeEffect, hbit 0 (by decide), whenM]
    exact clearRegs_ok (hbit 1 (by decide)) _ _
  case incident => exact fun h => writeReg_clears h (i := 0) (fun _ _ => rfl) rfl
  case power =>
    intro h
    refine writeReg_endsBus rfl h ?_
    simp only [writeEffect, bit_brings (g := .pwrStat) rfl (by decide : 48 < 64) s r, Nat.testBit_two_pow_self, whenM]
    rfl

/-- FB_CTRL_p written with CLR 1 and any TIMEOUT has bit 10 set. -/
theorem testBit_clr (n : Nat) (h : n < 1024) : (1024 + n).testBit 10 = true := by
  rw [show (1024 : Nat) = 2 ^ 10 from rfl, Nat.testBit_two_pow_add_eq, Nat.testBit_lt_two_pow h]
  rfl

theorem fld_lt (s : State) (g : Reg) (lo n : Nat) : s.fld g lo n < 2 ^ n := Nat.mod_lt _ (Nat.two_pow_pos n)

/-- The reset commands of trees, groves and ports (R121, R162, R212, R227, R266, R272, R283). -/
theorem unitClears_complete : unitClearsComplete := by
  intro r s
  refine ⟨?heartwood, ?tally, ?passes, ?stream, ?channel, ?ferry, ?port⟩
  case heartwood => exact fun t h => writeReg_clears h (i := 0) (fun _ _ => rfl) rfl
  case tally => exact fun t h => writeReg_clears h (i := 0) (fun _ _ => rfl) rfl
  case passes => exact fun t h => writeReg_clears h (i := 0) (fun _ _ => rfl) rfl
  case stream => exact fun t h => writeReg_clears h (i := 0) (fun _ _ => rfl) rfl
  case channel => exact fun c h => writeReg_clears h (i := 0) (fun _ _ => rfl) rfl
  case ferry =>
    intro f h
    have hbit := bit_brings (g := .fyClr (f / 8) (f % 8)) rfl (by decide : 0 < 32) s r 1
    refine writeReg_endsBus rfl h ?_
    simp only [writeEffect, bind_eq, clearRegs_ok hbit, hbit, whenM]
    rfl
  case port =>
    intro p h
    have hrun : exec (.fbErrClr r p) s = run (writeReg r (.fbCtrl p) (1024 + s.fld (.fbCtrl p) 0 10)) s := rfl
    rw [hrun]
    exact writeReg_clears h (fun _ _ => rfl) (testBit_clr _ (fld_lt s _ 0 10))

/-- Settles O32: each command is a write over the register bus, which is accepted, refused or meets reserved space; the effect of an
accepted write of a clear register is to zero what it names. -/
theorem registerWritesAndClearsComplete : Obligations.RegisterWritesAndClearsComplete :=
  ⟨registerWrite_completes, deviceClears_complete, unitClears_complete⟩

end Sys2Proof.Machine
end

section
/-! SUPPORT and RESULT. Configuration control (ConfigurationControlCompletes): commands that end alike and what a register command
puts; QREQ and quiescent points; the commit of an access rule. -/

namespace Sys2Proof.Machine

/-! ### Commands that end alike, and what a register command puts -/

/-- A register command whose write is accepted puts the value that the write brings, and then the writes follow that this
causes. -/
theorem writeReg_puts {r : Req} {g : Reg} {v : Nat} {s : State} (h : s.takes r g v) :
    run (writeReg r g v) s = s.ends (after (withRegs (putReg r g (s.brings r g v))) s) := by
  obtain ⟨hl, hacc⟩ := h
  have hv : s.brings r g (BitVec.ofNat 64 v).toNat = s.brings r g v := by simp [State.brings]
  have hbus : regBusWrite r g.addr (g.width / 8) (BitVec.ofNat 64 v) s =
      (do withRegs (putReg r g (s.brings r g v)); return .done : M WriteRes) s := by
    rw [regBusWrite_accepted (hv.symm ▸ hacc), hv]
  rw [run_eq_ends hl, ← after_discard (withRegs _) WriteRes.done]
  simp only [after, writeReg, bind_eq, hbus]

/-- Two commands whose meanings end alike have the same outcome. -/
theorem run_congr {m n : M Unit} {s : State} (h : m s = n s) : run m s = run n s := by
  simp only [run, runAny, h]

/-- Two actions that end alike end alike with the register writes that follow. -/
theorem withRegs_congr {m n : M Unit} {s t : State} (h : m s = n t) : withRegs m s = withRegs n t := by
  simp only [withRegs, bind_eq, h]

/-- A command of a module that acts ends where an action ends that does the same. -/
theorem run_ends_congr {m n : M Unit} {s t : State} (hl : s.live) (h : m s = n t) : run m s = s.ends (after n t) := by
  rw [run_eq_ends hl]
  simp only [after, h]

/-! ### Quiescent fields -/

/-- The state in which QACTIVE of a block is 0 where the block has no pending field (R48). -/
def State.ceased (s : State) (b : Blk) : State :=
  if s.reg (.cfgPending b) = 0 then s.setFld (.cfgCtrl b) 2 1 0 else s

theorem endQuiesce_eq (b : Blk) (s : State) : endQuiesce b s = .ok () (s.ceased b) := by
  unfold endQuiesce State.ceased
  rw [bind_eq, get_ok]
  dsimp only
  split <;> rfl

/-- The command QREQ, with HOLD 0, writes QREQ alone. -/
theorem quietRequest_eq {r : Req} {b : Blk} {s : State} (h : s.fld (.cfgCtrl b) 0 1 = 0) :
    quietRequest r b s = writeReg r (.cfgCtrl b) 2 s := by
  simp only [quietRequest, bind_eq, get_ok, h]

/-- QREQ with HOLD 0 sets QACTIVE, which clears at once where nothing is pending (R48). -/
theorem requestQuiet_eq {b : Blk} {s : State} (h : s.flag (.cfgCtrl b) 0 = false) :
    requestQuiet b s = .ok () ((s.setFld (.cfgCtrl b) 2 1 1).ceased b) := by
  simp only [requestQuiet, bind_eq, get_ok, h, Bool.false_eq_true, not_false_eq_true, if_true, wrf, modify_ok, endQuiesce_eq]

theorem forAll_applyPending (l : List Reg) (s : State) : forAll l applyPending s = .ok () (s.applied l) := by
  induction l generalizing s with
  | nil => rfl
  | cons g l ih => exact ih (s.inForce g)

/-- At a quiescent point with HOLD 0 the pending values take effect; with those of the tide unit the upstream landing is UPLAND
again, and the beacons that waited are taken (R46, R47, R48). -/
theorem after_quiesce {b : Blk} {n : Nat} {s : State} (hpend : s.flag (.cfgPending b) n = true)
    (hhold : s.flag (.cfgCtrl b) 0 = false) (hquiet : s.quiet b n = true) :
    let v := ((s.applied (subRegs b n)).setFld (.cfgPending b) n 1 0).ceased b
    after (quiesce b n) s = if b = .dev then after takeWaiting { v with tide := { v.tide with up := none } } else v := by
  have hgo : s.flag (.cfgPending b) n = true ∧ ¬ s.flag (.cfgCtrl b) 0 = true ∧ s.quiet b n = true :=
    ⟨hpend, by simp [hhold], hquiet⟩
  simp only [after, quiesce, bind_eq, get_ok, if_pos hgo, forAll_applyPending, wrf, modify_ok, endQuiesce_eq, whenM,
    decide_eq_true_eq]
  by_cases hb : b = .dev
  · simp only [if_pos hb, bind_eq, modify_ok]
  · simp only [if_neg hb]
    rfl

/-! ### Access rules -/

theorem forAll_unshadow (f : Nat → Reg) (l : List Nat) (s : State) :
    forAll l (fun w => modify fun s => s.unshadow (f w)) s = .ok () ((l.map f).foldl State.unshadow s) := by
  induction l generalizing s with
  | nil => rfl
  | cons w l ih => exact ih (s.unshadow (f w))

/-- A write of word 3 of an access rule commits the words held in shadow with it (R310). -/
theorem putReg_accRule_commit (r : Req) (b : Blk) (k n : Nat) (v : W64) (s : State) :
    putReg r (.accRule b k n 3) v s = .ok ()
      ((([0, 1, 2].map fun w => Reg.accRule b k n w).foldl State.unshadow s).setReg (.accRule b k n 3) v) := by
  have h : putReg r (.accRule b k n 3) v s =
    (do forAll [0, 1, 2] fun w => modify fun s => s.unshadow (.accRule b k n w)
        wr (.accRule b k n 3) v : M Unit) s := rfl
  rw [h, bind_eq, forAll_unshadow]
  rfl

/-! ### The statement -/

/-- Settles O33: each is a register write with its effect, or a quiescent point that a unit reaches. -/
theorem configurationControlCompletes : Obligations.ConfigurationControlCompletes := by
  intro r s
  refine ⟨?hold, ?request, ?quiet, ?rule, ?ferry⟩
  case hold =>
    intro b hold h
    have hbit : bit (s.brings r (.cfgCtrl b) (b2n hold)) 1 = false := by
      rw [bit_brings rfl (by decide : 1 < 32)]
      cases hold <;> rfl
    refine writeReg_endsBus rfl h ?_
    simp only [writeEffect, hbit, whenM]
    rfl
  case request =>
    intro b h hheld hnow
    show run (quietRequest r b) s = _
    rw [run_congr (quietRequest_eq hheld)]
    refine writeReg_endsBus rfl h ?_
    simp only [writeEffect, bit_brings (g := .cfgCtrl b) rfl (by decide : 1 < 32), whenM]
    exact requestQuiet_eq hnow
  case quiet =>
    intro b n hl hpend hhold hquiet
    show run (quiesce b n) s = _
    rw [run_eq_ends hl, after_quiesce hpend hhold hquiet]
    rfl
  case rule =>
    intro b k n v h
    show run (writeReg r (.accRule b k n 3) v.toNat) s = _
    rw [writeReg_puts h, withRegs, after_bind_ok (putReg_accRule_commit r b k n _ s), State.endsBus]
  case ferry => exact fun t k v h => writeReg_endsBus rfl h rfl

end Sys2Proof.Machine
end

section
/-! SUPPORT and RESULT. The dispatchers (DispatchersComplete): how a record is taken when its turn has come, and what each OP
does then. -/

namespace Sys2Proof.Machine

/-! ### A record whose turn it is -/

/-- The dispatcher takes the record of its OP whose turn it is, and its next visit is to a later queue (R243, R251). -/
theorem takeRecord_of_recordTurn {s u : State} {q op : Nat} {b : List Byte} (h : recordTurn s q op b u) :
    takeRecord q op s = .ok (some b) (recordTaken s u q) := by
  obtain ⟨howner, hjob, hpart, hheld, hturn, hbarrier, hentry, hok, hop⟩ := h
  have hvisits : ¬ (8 ≤ s.owner q ∨ ¬ s.jobRuns = true ∨ s.flag .partState 0 = true ∨ s.dispHeld (s.owner q) = true ∨
      s.dispTurn (s.owner q) ≠ some q) := by
    simp [howner, hjob, hpart, hheld, hturn]
  simp only [takeRecord, bind_eq, get_ok, if_neg hvisits, hbarrier, hentry, hok, hop, Bool.false_eq_true, if_false,
    not_true_eq_false, ne_eq, visited, modify_ok]
  rfl

/-- A RUN whose turn it is starts the thread that its placement gives, unless the dispatcher pauses or the job ends (R248, R250,
R251). -/
theorem dispatchRun_starts {s u : State} {q k : Nat} {b : List Byte} (h : recordTurn s q 1 b u) :
    let v := recordTaken s u q
    bit (v.effReg (.dispCtrl (v.owner q))) 10 = false → v.flag .jobStatus 8 = false →
    v.placement (v.owner q) (fun l => leAt b 3 1 = 0 || (leAt b 3 1).testBit l) = some k →
    dispatchRun q s = (do startThread k q b; setHead q (v.qHead q + 1) : M Unit) v := by
  intro v hpause hend hplace
  simp only [dispatchRun, bind_eq, takeRecord_of_recordTurn h, get_ok, v, hpause, hend, hplace, Bool.false_eq_true, or_self,
    if_false]

/-- A BARRIER whose turn it is holds its queue while an earlier RUN has not ended (R243). -/
theorem dispatchBarrier_holds {s u : State} {q : Nat} {b : List Byte} (h : recordTurn s q 2 b u) :
    let v := recordTaken s u q
    dispatchBarrier q s = setHead q (v.qHead q + 1) { v with barriers := awrite false v.barriers q (!(v.itemsOf q).isEmpty) } := by
  simp only [dispatchBarrier, bind_eq, takeRecord_of_recordTurn h, get_ok]
  rfl

/-- A SIGNAL whose turn it is writes its event once every earlier RUN has ended (R243). -/
theorem dispatchSignal_writes {s u : State} {q : Nat} {b : List Byte} (h : recordTurn s q 3 b u) :
    let v := recordTaken s u q
    v.itemsOf q = [] → dispatchSignal q s = (do
      event (leAt b 0x28 2 % 1024) 0x0003 0 (BitVec.ofNat 64 (leAt b 0x10 8)) 0
      setHead q (v.qHead q + 1) : M Unit) v := by
  intro v hitems
  simp only [dispatchSignal, bind_eq, takeRecord_of_recordTurn h, get_ok, v, hitems, List.isEmpty_nil, not_true_eq_false, if_false]

/-- A barrier of a queue whose work items have all ended is cleared (R243). -/
theorem clearBarrier_eq {s : State} {q : Nat} (h : s.itemsOf q = []) :
    clearBarrier q s = .ok () { s with barriers := awrite false s.barriers q false } := by
  simp only [clearBarrier, modify_ok, h, List.isEmpty_nil, if_true]

/-! ### The statement -/

/-- Settles O35: a record is taken when its turn has come, and then its OP acts. -/
theorem dispatchersComplete : Obligations.DispatchersComplete := by
  refine ⟨?run, ?barrier, ?clear, ?signal⟩
  case run =>
    exact fun q s u b k hl h hpause hend hplace =>
      run_ends_congr hl (withRegs_congr (dispatchRun_starts h hpause hend hplace))
  case barrier => exact fun q s u b hl h => run_ends_congr hl (withRegs_congr (dispatchBarrier_holds h))
  case clear =>
    intro q s hl h
    show run (clearBarrier q) s = _
    rw [run_eq_ends hl, after_ok (clearBarrier_eq h)]
  case signal => exact fun q s u b hl h hitems => run_ends_congr hl (withRegs_congr (dispatchSignal_writes h hitems))

end Sys2Proof.Machine
end

section
/-! SUPPORT and RESULT. The directory (DirectoryCommandsComplete): the command register and the action of each of its bits; the steps
of a commit, and the ends of waits and of a journal. -/

namespace Sys2Proof.Machine

/-! ### The commands of EP_CMD -/

theorem bind_skip (m : M Unit) : (do m; skip) = m := by
  funext s
  rw [bind_eq]
  cases m s <;> rfl

/-- The actions that the bits of a value written to EP_CMD ask for (R319, R336, R340). -/
def epActions (v : Nat) : M Unit := do
  whenM (v.testBit 0) epLoad
  whenM (v.testBit 1) epUnload
  whenM (v.testBit 2) requestCommit
  whenM (v.testBit 3) resyncJournal
  whenM (v.testBit 4) cancelCommit

theorem epCommand_brings (r : Req) (v : Nat) (s : State) : epCommand (s.brings r .epCmd v) = epActions v := by
  have hbit : ∀ i < 32, bit (s.brings r .epCmd v) i = v.testBit i := fun i hi => bit_brings rfl hi s r v
  simp only [epCommand, epActions, hbit 0 (by decide), hbit 1 (by decide), hbit 2 (by decide), hbit 3 (by decide),
    hbit 4 (by decide)]

/-- A command of EP_CMD that asks for one action m, which goes in the stored state as n goes from t, ends where n ends. -/
theorem epCmd_ends {r : Req} {v : Nat} {s t : State} {m n : M Unit} (h : s.takes r .epCmd v) (hm : epActions v = m)
    (hn : m (s.wrote r .epCmd v) = n t) : run (writeReg r .epCmd v) s = s.ends (after (withRegs n) t) := by
  have heffect : writeEffect r .epCmd (s.reg .epCmd) (s.brings r .epCmd v) = m := (epCommand_brings r v s).trans hm
  rw [writeReg_ends rfl h, heffect]
  simp only [after, withRegs_congr hn]

/-- A command of EP_CMD whose one action goes through ends in the state of that action. -/
theorem epCmd_endsBus {r : Req} {v : Nat} {s u : State} {m : M Unit} (h : s.takes r .epCmd v) (hm : epActions v = m)
    (hu : m (s.wrote r .epCmd v) = .ok () u) : run (writeReg r .epCmd v) s = s.endsBus u :=
  epCmd_ends h hm (n := skip) hu

/-- What LOAD does with well-formed records: it writes n entries from the first on, follows them in the counters, and gives its
result (R319). -/
def writeEntries (first n : Nat) (recs : List Nat) : M Unit := do
  forAll (List.range n) fun k => do
    wr (.epEntry (first + k) 0)
      (BitVec.ofNat 64 (1 + (recs.getD k 0 % 8) <<< 1 + ((recs.getD k 0 >>> 21) % 2 ^ 31) <<< 21))
    wr (.epEntry (first + k) 1) (BitVec.ofNat 64 (((recs.getD k 0 >>> 85) % 2 ^ 31) <<< 21))
    wr (.epEntry (first + k) 2) 0
  epCount
  epResult 0

/-- The frames of the entries that LOAD keeps, and of the records that it brings (R319). -/
def State.framesWith (s : State) (first n : Nat) (recs : List Nat) : List Nat :=
  (s.entries.filter fun e => e.1 < first || first + n ≤ e.1).flatMap (fun e => [s.epFrame e.1 0, s.epFrame e.1 1]) ++
    recs.flatMap fun r => [(r >>> 21) % 2 ^ 31 * 2 ^ 21, (r >>> 85) % 2 ^ 31 * 2 ^ 21]

/-- LOAD outside a job of a range whose records can be read, are well formed and name distinct frames (R319). -/
theorem epLoad_writes {s u : State} {bytes : List Byte} {first n base : Nat} {recs : List Nat}
    (hfirst : s.fld .epRegRange 0 15 = first) (hn : s.fld .epRegRange 32 15 = n) (hbase : s.fld .epRegAddr 4 48 * 16 = base)
    (hrecs : (List.range n).map (fun k => leAt bytes (16 * k) 16) = recs) (hjob : s.jobRuns = false)
    (hrange : first + n ≤ 24576) (hfetch : bootFetch false base (16 * n) s = .ok (bytes, false) u)
    (hgood : recs.any badRecord = false) (hapart : hasDup (u.framesWith first n recs) = false) :
    epLoad s = writeEntries first n recs u := by
  unfold State.framesWith at hapart
  simp only [epLoad, bind_eq, get_ok, hfirst, hn, hbase, hjob, Bool.false_eq_true, if_false, if_neg (Nat.not_lt.2 hrange), hfetch,
    hrecs, hgood, or_self, hapart, writeEntries]

theorem clearEntries_ok (s : State) : ∃ u, clearEntries s = .ok () u := by
  obtain ⟨u, hu⟩ := forAll_ok (f := fun e : Nat × W64 => do
    wr (.epEntry e.1 0) 0
    wr (.epEntry e.1 1) 0
    wr (.epEntry e.1 2) 0) (fun _ _ => ⟨_, rfl⟩) s.entries { s with undone := [], epFlaws := [] }
  exact ⟨_, (bind_ok (modify_ok _ s)).trans ((bind_ok (get_ok _)).trans ((bind_ok hu).trans rfl))⟩

theorem epUnload_clears {s : State} (hjob : s.jobRuns = false) :
    epUnload s = .ok () ((after clearEntries s).setFld .epCmdstat 0 8 0) := by
  obtain ⟨u, hu⟩ := clearEntries_ok s
  simp only [epUnload, bind_eq, get_ok, hjob, Bool.false_eq_true, if_false, hu, after_ok hu, epResult, wrf, modify_ok]

theorem requestCommit_requests {s : State} (hmode : s.epMode ≠ 3) (hnew : s.flag .epStatus 36 = false) :
    requestCommit s =
      .ok () (({ s with commit := { CommitSt.idle with ctrl := s.reg .epCtrl } } : State).setFld .epStatus 36 1 1) := by
  simp only [requestCommit, bind_eq, get_ok, if_neg hmode, hnew, Bool.false_eq_true, if_false]
  rfl

theorem cancelCommit_withdraws {s : State} (hstep : s.commit.step = 0) :
    cancelCommit s = .ok () { s.setFld .epStatus 36 1 0 with commit := .idle } := by
  simp only [cancelCommit, bind_eq, get_ok, if_pos hstep]
  rfl

/-- RESYNC in OPEN queues a record of every page, and then the commit record (R340). -/
theorem resyncJournal_queues {s u : State} {bad : List (List Nat)} (hmode : s.epMode = 1) (hpart : s.flag .partState 0 = false)
    (hread : mapAll s.entries (fun e => readFrame (s.epFrames e.1).1) (s.setFld .epStatus 37 2 1) = .ok bad u) :
    let pages := u.entries.map fun e => (e.1, crc64 0 (u.bytes (u.epFrames e.1).1 (2 ^ 21)), (u.epFrames e.1).1)
    resyncJournal s = (do
      forAll pages fun p => queueJournal 3 p.1 u.epoch 0 p.2.1 0 p.2.2
      queueJournal 4 0 u.epoch pages.length 0 (digestOf (pages.map fun p => (p.1, p.2.1))) 0 : M Unit) u := by
  simp only [resyncJournal, bind_eq, get_ok, hmode, hpart, wrf, modify_ok, Bool.false_eq_true, not_false_eq_true, and_self, if_true,
    hread]

/-- The commands of EP_CMD (R45, R319, R336, R340, R341). -/
theorem directoryCommands_complete : directoryCommandsComplete := by
  -- `epActions` of a value with one bit 1 is, by evaluation, that bit's action among skips.
  refine ⟨?load, ?unload, ?commit, ?cancel, ?resync⟩
  case load =>
    intro r s u bytes h x first n base recs hjob hrange hfetch hgood hapart
    exact epCmd_ends h (bind_skip epLoad) (epLoad_writes rfl rfl rfl rfl hjob hrange hfetch hgood hapart)
  case unload => exact fun r s h hjob => epCmd_endsBus h (bind_skip epUnload) (epUnload_clears hjob)
  case commit => exact fun r s h hmode hnew => epCmd_endsBus h (bind_skip requestCommit) (requestCommit_requests hmode hnew)
  case cancel => exact fun r s h hstep => epCmd_endsBus h rfl (cancelCommit_withdraws hstep)
  case resync =>
    intro r s u bad h hmode hpart x hread
    exact epCmd_ends h (bind_skip resyncJournal) (resyncJournal_queues hmode hpart hread)

/-! ### The course of a commit -/

theorem epCheckAll_sound {l : List Nat} {s : State} (h : ∀ i ∈ l, aread false s.epFlaws i = false) :
    epCheckAll l s = .ok () s := by
  have hsound : (l.any fun i => aread false s.epFlaws i) = false := by simpa using h
  simp only [epCheckAll, bind_eq, get_ok, hsound, Bool.and_false, whenM]
  rfl

/-- Where every entry is clean or sealed, the declared entries are the sealed ones. -/
theorem declared_length_eq_sealed {s : State} (h : ∀ e ∈ s.entries, epState e.2 = 0 ∨ epState e.2 = 2) :
    (s.entries.filter fun e => epState e.2 ≠ 0).length = s.sealed.length := by
  rw [State.sealed, List.length_map]
  congr 1
  refine List.filter_congr fun e he => ?_
  rcases h e he with h0 | h2
  · simp [h0]
  · simp [h2]

/-- Without a journal, step 4 of a commit takes its digest and flips (R336). -/
theorem commitStep4_flips {s v : State} (hjournal : s.journalling = false)
    (hflip : flip { s with commit := { s.commit with digest := s.commitDigest } } = .ok () v) : commitStep4 s = .ok () v := by
  simp only [commitStep4, bind_eq, get_ok, hjournal, Bool.false_eq_true, if_false]
  exact hflip

/-- A requested commit whose pages are all sealed and none poisoned, in its window and with no journal or read unit to wait for,
flips (R336). -/
theorem commitGo_flips {s v : State} (hasked : s.flag .epStatus 36 = true) (hmode : s.epMode ≠ 3)
    (hsound : ∀ e ∈ s.entries, aread false s.epFlaws e.1 = false) (hstep : s.commit.step = 0)
    (hsealed : ∀ e ∈ s.entries, epState e.2 = 0 ∨ epState e.2 = 2) (hclean : ∀ i ∈ s.sealed, s.flag (.epEntry i 0) 7 = false)
    (hwindow : bit s.commit.ctrl 0 = true → s.flag .epStatus 35 = true) (hjournal : s.journalling = false) :
    let u := ({ s with commit := { s.commit with step := 3 } } : State).setFld .epStatus 32 3 2
    u.drainWaits = false → u.journalling = false →
    flip { u with commit := { u.commit with digest := u.commitDigest } } = .ok () v → commitGo s = .ok () v := by
  intro u hdrain hquiet hflip
  have hcheck : epCheckAll (s.entries.map (·.1)) s = .ok () s := epCheckAll_sound (by simpa using hsound)
  have hpoison : ¬ (s.sealed.any fun i => s.flag (.epEntry i 0) 7) = true := by simpa using hclean
  have hin : ¬ (bit s.commit.ctrl 0 = true ∧ ¬ s.flag .epStatus 35 = true) := fun ⟨hon, hout⟩ => hout (hwindow hon)
  have hwaits : ¬ s.journalWaits = true := by simp [State.journalWaits, hjournal]
  have hgo : commitGo s = whenM (!u.drainWaits) commitStep4 u := by
    simp only [commitGo, bind_eq, get_ok, hasked, whenM, if_true, hcheck, not_true_eq_false, if_false, if_neg hmode, hstep,
      declared_length_eq_sealed hsealed, ne_eq, if_neg hpoison, if_neg hin, if_neg hwaits]
    rfl
  rw [hgo, hdrain]
  exact commitStep4_flips hquiet hflip

/-- DRAIN has passed in step 3: read units that still wait are cut, and the commit goes on (R336). -/
theorem drainTimeout_cuts {s v : State} (hstep : s.commit.step = 3) (hdrain : s.drainWaits = true)
    (hgo : commitStep4 { s with
      epUnits := s.epUnits.map fun (e : Nat × EpUnit) => (e.1, s.cutUnit e.2)
      commit := { s.commit with cut := true } } = .ok () v) : drainTimeout s = .ok () v := by
  have hwaits : s.commit.step = 3 ∧ s.drainWaits = true := ⟨hstep, hdrain⟩
  simp only [drainTimeout, bind_eq, get_ok, if_pos hwaits]
  exact hgo

theorem journalTimedOut_loses {s u : State} (hactive : s.journalling = true) (hunacked : s.journal.unacked ≠ [])
    (hlose : loseJournal s = .ok () u) : journalTimedOut s = .ok () u := by
  have hgo : s.journalling = true ∧ ¬ s.journal.unacked.isEmpty = true := by simp [hactive, hunacked]
  simp only [journalTimedOut, bind_eq, get_ok, if_pos hgo, hlose]

/-- What a wait for entry i that ends tells: EP_FAULT_LAST and a record of class EPOCH (R326). -/
def tellWait (master i : Nat) : M Unit := do
  noteEpFault 6 master i
  incident 0x0A 2 6 (unitWord 0 0) 0 ((← get).reg .epStatus)

/-- The wait of a thread for an entry that is still not done ends with its fault (R326). -/
theorem waitEnds_thread {t : Tid} {s u : State} {va i : Nat} {res : Bool} (hheld : (s.thread t.k).hold = .epoch va i res)
    (hwaits : s.setWaits i = true) (htell : tellWait t.k i s = .ok () u) :
    waitEnds (.thread t) s = (do
      uncount t.k
      settleStop t.k (enterFault t.k vEpoch 6 (BitVec.ofNat 64 va) (BitVec.ofNat 64 i) res) : M Unit) (u.unheld t.k) := by
  have hends : waitEnds (.thread t) s = (do
      tellWait t.k i
      modify fun s => s.unheld t.k
      uncount t.k
      settleStop t.k (enterFault t.k vEpoch 6 (BitVec.ofNat 64 va) (BitVec.ofNat 64 i) res) : M Unit) s := by
    simp only [waitEnds, bind_eq, get_ok, hheld, hwaits, whenM, if_true, tellWait, State.unheld]
  rw [hends, bind_ok htell, bind_ok (modify_ok _ u)]

/-- The wait of a ferry for an entry that is still not done ends its manifest (R326). -/
theorem waitEnds_ferry {f : Fin 64} {s u : State} {m : Manifest} {va i : Nat} {res : Bool} (hrun : s.ferry f = some m)
    (hheld : m.hold = .epoch va i res) (hwaits : s.setWaits i = true) (htell : tellWait (0x100 + f) i s = .ok () u) :
    waitEnds (.ferry f) s = ferryEnd f 2 u := by
  have hends : waitEnds (.ferry f) s = (do tellWait (0x100 + f) i; ferryEnd f 2 : M Unit) s := by
    simp only [waitEnds, bind_eq, get_ok, hrun, hheld, hwaits, whenM, if_true, tellWait]
  rw [hends, bind_ok htell]

/-- The course of a commit, the end of a wait, and a lost journal (R326, R336, R340). -/
theorem commits_complete : commitsComplete := by
  refine ⟨?flip, ?drain, ?thread, ?ferry, ?journal⟩
  case flip =>
    intro s hl hasked hmode hsound hstep hsealed hclean hwindow hjournal u hdrain hquiet v hflip
    exact run_ends_congr hl
      (bind_ok (commitGo_flips hasked hmode hsound hstep hsealed hclean hwindow hjournal hdrain hquiet hflip))
  case drain => exact fun s v hl hstep hdrain hgo => run_ends_congr hl (bind_ok (drainTimeout_cuts hstep hdrain hgo))
  case thread =>
    exact fun t s u va i res hl hheld hwaits htell => run_ends_congr hl (waitEnds_thread hheld hwaits htell)
  case ferry =>
    exact fun f s u m va i res hl hrun hheld hwaits htell => run_ends_congr hl (waitEnds_ferry hrun hheld hwaits htell)
  case journal =>
    exact fun s u hl hactive hunacked hlose => run_ends_congr hl (bind_ok (journalTimedOut_loses hactive hunacked hlose))

/-- Settles O40: each command of EP_CMD has the effect of its one bit; a commit goes on by its steps, and a wait ends. -/
theorem directoryCommandsComplete : Obligations.DirectoryCommandsComplete := ⟨directoryCommands_complete, commits_complete⟩

end Sys2Proof.Machine
end

section
/-! SUPPORT and RESULT. Stochastic rounding (StochasticDrawsFollowTheGenerator) and the floating-point instructions
(FloatingPointInstructionsComplete): each is what it reads, followed by the end that stores, updates pointers and reports. -/

namespace Sys2Proof.Machine

/-! ### The generator of a lane -/

/-- Draw n of a lane is the first draw of its generator after n steps (R75). -/
theorem srDraw_succ (k n : Nat) (x : W64) : srDraw k (n + 1) x = srDraw k n (srStep x) := rfl

/-- The first draw takes the top bits of the generator's next state times its constant (R75). -/
theorem srDraw_zero (k : Nat) (x : W64) : srDraw k 0 x = ((srStep x * 0x2545_F491_4F6C_DD1D) >>> (64 - k)).toNat := rfl

/-- Settles O13: the shifts and exclusive ors of the statement are one step of the generator, in both clauses. -/
theorem stochasticDrawsFollowTheGenerator : Obligations.StochasticDrawsFollowTheGenerator :=
  fun k n x => ⟨srDraw_zero k x, srDraw_succ k n x⟩

/-! ### The end of a floating-point instruction -/

/-- A result that is stored, and whose conditions are reported unless it is poison, ends the instruction (R104, R425). -/
theorem fpEnd_ok {k c n : Nat} {o : Opnds} {l : Place} {q : Option Nat} {u v x : State}
    (hstore : writeP k l c q u = .ok () v) (hreport : whenM q.isNone (reportHere k n) (v.putPtrs k o.p) = .ok () x) :
    fpEnd k o l c n q u = .ok (.next []) x := by
  simp only [fpEnd, bind_eq, hstore, commitPtrs_eq, hreport, pure_ok]

/-! ### Arithmetic -/

/-- The end of a floating-point instruction on what `floatReads` answers: the operation's exact value and conditions, rounded to the
format of SIZE (R104). -/
def floatEnds (k : Nat) (w : IWord) (o : Opnds) (f : Bool → Val → Val → Val → Val × Nat) :
    (Val × Val × Val) × Option Nat × Place × (Rnd × Nat) → M Ending
  | ((a, b, d), q, l, p, r) =>
    fpEnd k o l ((sizeFmt w).fin p r (f p.rdn a b d)).1 ((sizeFmt w).fin p r (f p.rdn a b d)).2 q

/-- A floating-point instruction is its reads and then its end. -/
theorem fpOp_eq (t : Tid) (w : IWord) (sl : Slots) (legal rw : Bool) (f : Bool → Val → Val → Val → Val × Nat) :
    fpOp t w sl legal rw f = scalar t w sl (legal && 2 ≤ w.size) (zOf w) (zOf w) (zOf w) fun k o =>
      floatReads k w o rw >>= floatEnds k w o f := by
  refine congrArg (scalar t w sl _ _ _ _) (funext fun k => funext fun o => ?_)
  -- Whichever operands there are, both sides bind the same actions in the same order.
  by_cases hb : o.b = .none <;> cases rw <;>
    simp only [floatReads, floatEnds, hb, if_true, Bool.false_eq_true, if_false, bind_assoc, pure_bind]

/-- A floating-point instruction completes in the state in which its rounded result is stored and its conditions are reported. -/
theorem fpOp_next {t : Tid} {w : IWord} {sl : Slots} {legal rw : Bool} {f : Bool → Val → Val → Val → Val × Nat}
    {s u v x : State} {o : Opnds} {a b d : Val} {q : Option Nat} {l : Place} {p : Rnd} {r : Nat}
    (hissue : s.issues t w sl (legal && 2 ≤ w.size) true (zOf w) (zOf w) (zOf w) 0 o)
    (hread : floatReads t.k w o rw (s.begun t.k) = .ok ((a, b, d), q, l, p, r) u)
    (hstore : writeP t.k l ((sizeFmt w).fin p r (f p.rdn a b d)).1 q u = .ok () v)
    (hreport : whenM q.isNone (reportHere t.k ((sizeFmt w).fin p r (f p.rdn a b d)).2) (v.putPtrs t.k o.p) = .ok () x) :
    run (fpOp t w sl legal rw f) s = .next ((x.retired t.k sl.len (bit (s.flags t.k) 29) []).queueOf s) := by
  rw [fpOp_eq]
  exact scalar_next hissue ((bind_ok hread).trans (fpEnd_ok hstore hreport))

/-- Each row of the table is what its instruction executes. -/
theorem exec_floatRow {e : (Tid → IWord → Instr) × Slots × (IWord → Bool) × Bool × (Bool → Val → Val → Val → Val × Nat)}
    (he : e ∈ floatRows) (t : Tid) (w : IWord) (s : State) :
    exec (e.1 t w) s = run (fpOp t w e.2.1 (e.2.2.1 w) e.2.2.2.1 e.2.2.2.2) s := by
  simp only [floatRows, List.mem_cons, List.not_mem_nil, or_false] at he
  rcases he with rfl | rfl | rfl | rfl | rfl | rfl | rfl | rfl <;> rfl

/-- FADD, FSUB, FMUL, FDIV, FSQRT, FMA, FMIN and FMAX (R80, R104, R425). -/
theorem floatInstructions_complete : floatInstructionsComplete := by
  intro e he t w s u v x o a b d q l p r hissue hread hstore hreport
  rw [exec_floatRow he]
  exact fpOp_next hissue hread hstore hreport

/-! ### Compare and convert -/

/-- FCMP (R100). -/
theorem floatCompare_completes : floatCompareCompletes := by
  intro t w s u x o a b hissue hread hreport
  refine scalar_next (sl := ⟨noSlot, memSlot, immSlot⟩) hissue ?_
  obtain ⟨ma, sa, ha, hread⟩ := bind_split hread
  obtain ⟨mb, sb, hb, hread⟩ := bind_split hread
  obtain ⟨ra, ta, hra, hread⟩ := bind_split hread
  obtain ⟨rb, tb, hrb, hread⟩ := bind_split hread
  cases hread
  simp only [bind_eq, ha, hb, hra, hrb, Option.or_none, commitPtrs_eq, hreport, get_ok, pure_ok]

/-- CVT (R70, R71, R104, R425). -/
theorem convert_completes : convertCompletes := by
  intro t w s u v x o a q l p r hissue hread hstore hreport
  refine scalar_next (sl := ⟨memSlot, memSlot, noSlot⟩) hissue ?_
  obtain ⟨xa, sa, ha, hread⟩ := bind_split hread
  obtain ⟨la, sl, hl, hread⟩ := bind_split hread
  obtain ⟨ra, ta, hra, hread⟩ := bind_split hread
  obtain ⟨pr, tb, hpr, hread⟩ := bind_split hread
  cases hread
  simp only [bind_eq, ha, hl, hra, hpr, fpEnd_ok hstore hreport]

/-- Settles O20: each instruction ends in what it stores and reports. -/
theorem floatingPointInstructionsComplete : Obligations.FloatingPointInstructionsComplete :=
  ⟨floatInstructions_complete, floatCompare_completes, convert_completes⟩

end Sys2Proof.Machine
end

section
/-! SUPPORT and RESULT. The "arith" column (AdditionFollowsTheArithColumn, SubtractionFollowsTheArithColumn), condition codes
(ConditionCodesFollowTheTable) and BITREV operands (BitrevOperandFollowsItsWidth). -/

namespace Sys2Proof.Machine

/-! ### The "arith" column -/

/-- Reading n bits as a two's complement number is the balanced remainder. -/
theorem sInt_eq_bmod {n : Nat} (hn : 0 < n) (v : Nat) : sInt n v = Int.bmod v (2 ^ n) := by
  obtain ⟨m, rfl⟩ := Nat.exists_eq_add_one_of_ne_zero hn.ne'
  have hhalf : (((2 ^ (m + 1) : Nat) : Int) + 1) / 2 = (2 ^ m : Nat) := by rw [pow_succ]; omega
  rw [sInt, Int.bmod_def, hhalf, ← Int.natCast_mod, Nat.add_sub_cancel]
  simp only [Nat.cast_lt]

theorem dvd_sInt_sub {n : Nat} (hn : 0 < n) (v : Nat) : (2 ^ n : Int) ∣ sInt n v - v := by
  have h := Int.dvd_bmod_sub_self (x := v) (m := 2 ^ n)
  rwa [← sInt_eq_bmod hn, Nat.cast_pow] at h

/-- Of the numbers congruent to v, the one that its n bits denote is the one that fits n bits. -/
theorem sInt_eq_iff {n v : Nat} {i : Int} (hn : 0 < n) (h : (2 ^ n : Int) ∣ i - v) :
    sInt n v = i ↔ -(2 : Int) ^ (n - 1) ≤ i ∧ i < (2 : Int) ^ (n - 1) := by
  obtain ⟨m, rfl⟩ := Nat.exists_eq_add_one_of_ne_zero hn.ne'
  have hlow : ((2 ^ (m + 1) : Nat) : Int) / 2 = 2 ^ m := by rw [pow_succ]; push_cast; omega
  have hhigh : (((2 ^ (m + 1) : Nat) : Int) + 1) / 2 = 2 ^ m := by rw [pow_succ]; push_cast; omega
  have hdvd : ((2 ^ (m + 1) : Nat) : Int) ∣ i - v := by exact_mod_cast h
  rw [sInt_eq_bmod hn, Int.bmod_eq_iff (Nat.two_pow_pos _), hlow, hhigh, Nat.add_sub_cancel]
  simp only [hdvd, and_true]

/-- The top bit of a number below 2^n is set from 2^(n-1) on. -/
theorem testBit_top_iff {n v : Nat} (hn : 0 < n) (hv : v < 2 ^ n) : v.testBit (n - 1) = true ↔ 2 ^ (n - 1) ≤ v := by
  refine ⟨Nat.ge_two_pow_of_testBit, fun h => Nat.testBit_of_two_pow_le_and_two_pow_add_one_gt h ?_⟩
  rwa [Nat.sub_add_cancel hn]

/-- Z and N of a result, and V where V tells that the exact result i is not the one that its bits denote (R101). -/
theorem alu_of_flags {n v : Nat} {i : Int} {c : Bool} (hn : 0 < n) (h : (2 ^ n : Int) ∣ i - v) :
    let r := Alu.of n v c (sInt n v != i)
    (r.z = true ↔ r.v = 0) ∧ (r.n = true ↔ 2 ^ (n - 1) ≤ r.v) ∧
      (r.o = true ↔ ¬ (-(2 : Int) ^ (n - 1) ≤ i ∧ i < (2 : Int) ^ (n - 1))) := by
  refine ⟨?z, testBit_top_iff hn (Nat.mod_lt _ (Nat.two_pow_pos n)), ?v⟩
  case z => exact decide_eq_true_iff
  case v => rw [← sInt_eq_iff hn h]; exact bne_iff_ne

/-- Settles O8: the signed sum is congruent to the sum of the operands, so that V tells whether it fits. -/
theorem additionFollowsTheArithColumn : Obligations.AdditionFollowsTheArithColumn := by
  intro n a b c hn ha hb hc
  have hdvd : (2 ^ n : Int) ∣ sInt n a + sInt n b + c - (a + b + c : Nat) := by
    have := (dvd_sInt_sub hn a).add (dvd_sInt_sub hn b)
    rwa [show sInt n a - a + (sInt n b - b) = sInt n a + sInt n b + c - (a + b + c : Nat) by push_cast; ring] at this
  obtain ⟨hz, hneg, hover⟩ := alu_of_flags (c := decide (2 ^ n ≤ a + b + c)) hn hdvd
  exact ⟨rfl, hz, hneg, decide_eq_true_iff, hover⟩

/-- Settles O9: the model's difference, which adds 2^(n+1) to stay a natural number, is congruent to the signed difference. -/
theorem subtractionFollowsTheArithColumn : Obligations.SubtractionFollowsTheArithColumn := by
  intro n a b c hn ha hb hc
  have hcast : ((a + 2 ^ (n + 1) - b - c : Nat) : Int) = (a : Int) - b - c + 2 ^ n * 2 := by
    have hle : b + c ≤ a + 2 ^ (n + 1) := by rw [pow_succ]; omega
    rw [Nat.sub_sub, Nat.cast_sub hle, pow_succ]
    push_cast
    ring
  have hdvd : (2 ^ n : Int) ∣ sInt n a - sInt n b - c - (a + 2 ^ (n + 1) - b - c : Nat) := by
    have := ((dvd_sInt_sub hn a).sub (dvd_sInt_sub hn b)).sub (Dvd.intro 2 rfl)
    rw [hcast]
    rwa [show sInt n a - a - (sInt n b - b) - 2 ^ n * 2 = sInt n a - sInt n b - c - ((a : Int) - b - c + 2 ^ n * 2) by ring] at this
  obtain ⟨hz, hneg, hover⟩ := alu_of_flags (c := decide (a < b + c)) hn hdvd
  refine ⟨?_, hz, hneg, decide_eq_true_iff, hover⟩
  calc ((aluSub n a b c).v : Int) = ((a + 2 ^ (n + 1) - b - c : Nat) : Int) % 2 ^ n := by
        simp only [aluSub, Alu.of, Int.natCast_mod, Nat.cast_pow, Nat.cast_ofNat]
    _ = ((a : Int) - b - c) % 2 ^ n := by rw [hcast, Int.add_mul_emod_self_left]

/-- Settles O12: the table and the model's conditions agree code by code. -/
theorem conditionCodesFollowTheTable : Obligations.ConditionCodesFollowTheTable := by
  intro f c hc
  interval_cases c <;> rfl

/-! ### BITREV operands -/

/-- Settles O14: the mode's own branch on its width, and for a width in range the effective address where it is canonical. -/
theorem bitrevOperandFollowsItsWidth : Obligations.BitrevOperandFollowsItsWidth := by
  intro w p x z i2 n m k
  refine ⟨fun hbad => ?illegal, fun hlow hhigh hcan => ?address⟩
  case illegal => exact if_pos hbad
  case address =>
    have hok : ¬ (k = 0 ∨ 32 < k) := by omega
    calc operand w p 10 x z i2
        = eaOf i2 ((p.get m : Int) + (brev k (p.get n % 2 ^ k) * z : Nat)) false
            (p.set n ((p.get n % 2 ^ k + 1) % 2 ^ k : Nat)) := if_neg hok
      _ = _ := if_pos hcan

end Sys2Proof.Machine
end

section
/-! SUPPORT and RESULT. Scalar instructions (IntegerInstructionsComplete, AtomicInstructionsComplete, MultipliesAndDividesStart,
CrcInstructionsComplete): each is what it checks and reads, followed by the end that stores and updates pointers. -/

namespace Sys2Proof.Machine

/-! ### The shape of a scalar instruction: what it checks and reads, and then its end -/

/-- Two sources are checked and read before what follows. -/
theorem reads2_bind {β : Type} (k z : Nat) (o : Opnds) (f : Nat → Nat → M β) :
    (do
      let a ← srcOf k o.a z
      let b ← srcOf k o.b z
      let a ← readSrc k a
      let b ← readSrc k b
      f a b) = reads2 k z o >>= fun r => f r.1 r.2 := by
  simp only [reads2, bind_assoc, pure_bind]

/-- A source and a destination are checked, and the source is read, before what follows. -/
theorem reads1To_bind {β : Type} (k z : Nat) (o : Opnds) (f : Nat → Place → M β) :
    (do
      let a ← srcOf k o.a z
      let l ← placeOf k o.d .write z
      let a ← readSrc k a
      f a l) = reads1To k z o >>= fun r => f r.1 r.2 := by
  simp only [reads1To, bind_assoc, pure_bind]

/-- Two sources and a destination are checked, and the sources are read, before what follows. -/
theorem reads2To_bind {β : Type} (k z : Nat) (o : Opnds) (f : Nat → Nat → Place → M β) :
    (do
      let a ← srcOf k o.a z
      let b ← srcOf k o.b z
      let l ← placeOf k o.d .write z
      let a ← readSrc k a
      let b ← readSrc k b
      f a b l) = reads2To k z o >>= fun r => f r.1 r.2.1 r.2.2 := by
  simp only [reads2To, bind_assoc, pure_bind]

/-- A scalar instruction that starts, and whose body updates its pointers and goes on, is done. -/
theorem scalar_done {t : Tid} {w : IWord} {s v : State} {sl : Slots} {legal : Bool} {zd za zb : Nat} {o : Opnds}
    {sets : List (Nat × W64)} {body : Nat → Opnds → M Ending} (hissue : s.issues t w sl legal true zd za zb 0 o)
    (hbody : body t.k o (s.begun t.k) = .ok (.next sets) (v.putPtrs t.k o.p)) :
    run (scalar t w sl legal zd za zb body) s = s.done v t.k sl.len o.p sets := scalar_next hissue hbody

/-! ### Integer instructions -/

/-- A binary integer instruction stores its result and sets FLAGS (R101). -/
theorem alu3_done {t : Tid} {w : IWord} {f : Nat → Nat → Nat → Nat → Alu} {s u v : State} {o : Opnds} {a b : Nat} {l : Place}
    (hissue : s.issues t w ⟨memSlot, memSlot, immSlot⟩ (plain w) true (zOf w) (zOf w) (zOf w) 0 o)
    (hread : reads2To t.k (zOf w) o (s.begun t.k) = .ok (a, b, l) u)
    (hstore : writePlace t.k l (f (8 * zOf w) a b (b2n (bit (u.flags t.k) 2))).v u = .ok () v) :
    run (alu3 t w f) s = s.done v t.k 16 o.p
      [(0x10, (f (8 * zOf w) a b (b2n (bit (u.flags t.k) 2))).flags (u.flags t.k))] := by
  refine scalar_done (sl := ⟨memSlot, memSlot, immSlot⟩) hissue ?_
  rw [reads2To_bind, bind_ok hread, bind_ok (get_ok u), bind_ok hstore, setsFlags_ok]

/-- A comparison sets FLAGS and stores nothing (R101). -/
theorem alu2_done {t : Tid} {w : IWord} {f : Nat → Nat → Nat → Alu} {s u : State} {o : Opnds} {a b : Nat}
    (hissue : s.issues t w ⟨noSlot, memSlot, immSlot⟩ (plain w) true (zOf w) (zOf w) (zOf w) 0 o)
    (hread : reads2 t.k (zOf w) o (s.begun t.k) = .ok (a, b) u) :
    run (alu2 t w f) s = s.done u t.k 12 o.p [(0x10, (f (8 * zOf w) a b).flags (u.flags t.k))] := by
  refine scalar_done (sl := ⟨noSlot, memSlot, immSlot⟩) hissue ?_
  rw [reads2_bind, bind_ok hread, bind_ok (get_ok u), setsFlags_ok]

/-- A unary integer instruction stores its result and sets FLAGS (R101). -/
theorem alu1_done {t : Tid} {w : IWord} {legal : Bool} {f : Nat → Nat → Alu} {s u v : State} {o : Opnds} {a : Nat} {l : Place}
    (hissue : s.issues t w ⟨memSlot, memSlot, noSlot⟩ legal true (zOf w) (zOf w) (zOf w) 0 o)
    (hread : reads1To t.k (zOf w) o (s.begun t.k) = .ok (a, l) u)
    (hstore : writePlace t.k l (f (8 * zOf w) a).v u = .ok () v) :
    run (alu1 t w legal f) s = s.done v t.k 12 o.p [(0x10, (f (8 * zOf w) a).flags (v.flags t.k))] := by
  refine scalar_done (sl := ⟨memSlot, memSlot, noSlot⟩) hissue ?_
  rw [reads1To_bind, bind_ok hread, bind_ok hstore, bind_ok (get_ok v), setsFlags_ok]

/-- A move stores what it makes of its source, with the poison of the source (R102, R425). -/
theorem copy1_done {t : Tid} {w : IWord} {sl : Slots} {legal : Bool} {za : Nat} {f : Nat → Nat} {s u v : State} {o : Opnds}
    {a : Nat} {p : Option Nat} {l : Place} (hissue : s.issues t w sl legal true (zOf w) za (zOf w) 0 o)
    (hread : carries t.k za (zOf w) o (s.begun t.k) = .ok ((a, p), l) u)
    (hstore : writeP t.k l (f a % 2 ^ (8 * zOf w)) p u = .ok () v) :
    run (copy1 t w sl legal za f) s = s.done v t.k sl.len o.p [] := by
  refine scalar_done hissue ?_
  obtain ⟨x, sx, hx, hread⟩ := bind_split hread
  obtain ⟨y, sy, hy, hread⟩ := bind_split hread
  obtain ⟨z, sz, hz, hread⟩ := bind_split hread
  cases hread
  simp only [bind_eq, hx, hy, hz, hstore, commitPtrs_eq, pure_ok]

/-- Each row of the table is what its instruction executes. -/
theorem exec_binaryRow {e : (Tid → IWord → Instr) × (Nat → Nat → Nat → Nat → Alu)} (he : e ∈ binaryRows) (t : Tid) (w : IWord)
    (s : State) : exec (e.1 t w) s = run (alu3 t w e.2) s := by
  simp only [binaryRows, List.mem_cons, List.not_mem_nil, or_false] at he
  rcases he with rfl | rfl | rfl | rfl | rfl | rfl | rfl | rfl | rfl | rfl | rfl | rfl | rfl | rfl | rfl | rfl | rfl <;> rfl

/-- Each row of the table is what its instruction executes. -/
theorem exec_unaryRow {e : (Tid → IWord → Instr) × (IWord → Bool) × (IWord → Nat → Nat → Alu)} (he : e ∈ unaryRows) (t : Tid)
    (w : IWord) (s : State) : exec (e.1 t w) s = run (alu1 t w (e.2.1 w) (e.2.2 w)) s := by
  simp only [unaryRows, List.mem_cons, List.not_mem_nil, or_false] at he
  rcases he with rfl | rfl | rfl | rfl | rfl | rfl | rfl <;> rfl

/-- Each row of the table is what its instruction executes. -/
theorem exec_moveRow {e : (Tid → IWord → Instr) × Slots × (IWord → Bool) × (IWord → Nat) × (IWord → Nat → Nat)}
    (he : e ∈ moveRows) (t : Tid) (w : IWord) (s : State) :
    exec (e.1 t w) s = run (copy1 t w e.2.1 (e.2.2.1 w) (e.2.2.2.1 w) (e.2.2.2.2 w)) s ∧ e.2.1.len = 12 := by
  simp only [moveRows, List.mem_cons, List.not_mem_nil, or_false] at he
  rcases he with rfl | rfl | rfl <;> exact ⟨rfl, rfl⟩

/-- The binary integer instructions (R101, R102). -/
theorem binaryIntegerInstructions_complete : binaryIntegerInstructionsComplete := by
  intro e he t w s u v o a b l hissue hread hstore
  rw [exec_binaryRow he, alu3_done hissue hread hstore]

/-- CMP and TST (R101). -/
theorem compareInstructions_complete : compareInstructionsComplete := by
  intro e he t w s u o a b hissue hread
  simp only [List.mem_cons, List.not_mem_nil, or_false] at he
  rcases he with rfl | rfl <;> exact alu2_done hissue hread

/-- The unary integer instructions (R101, R102). -/
theorem unaryIntegerInstructions_complete : unaryIntegerInstructionsComplete := by
  intro e he t w s u v o a l hissue hread hstore
  rw [exec_unaryRow he, alu1_done hissue hread hstore]

/-- MOV, ZEXT and SEXT (R102, R425). -/
theorem moves_complete : movesComplete := by
  intro e he t w s u v o a p l hissue hread hstore
  obtain ⟨hexec, hlen⟩ := exec_moveRow he t w s
  rw [hexec, copy1_done hissue hread hstore, hlen]

/-- Settles O16: each instruction is its reads, and then its end. -/
theorem integerInstructionsComplete : Obligations.IntegerInstructionsComplete :=
  ⟨binaryIntegerInstructions_complete, compareInstructions_complete, unaryIntegerInstructions_complete, moves_complete⟩

/-! ### Atomic instructions -/

/-- An atomic stores the old value of its target at b, and then what it makes of it and a at the target (R102, R103). -/
theorem atomic_done {t : Tid} {w : IWord} {f : Nat → Nat → Nat} {s u v x : State} {o : Opnds} {a old : Nat} {p q : Option Nat}
    {b d : Place} (hissue : s.issues t w ⟨memSlot, immSlot, memSlot⟩ (plain w && 2 ≤ w.size) true (zOf w) (zOf w) (zOf w) 0 o)
    (hread : atomReads t.k w (zOf w) o (s.begun t.k) = .ok ((a, p), (old, q), b, d) u)
    (hold : writeP t.k b old q u = .ok () v)
    (hnew : atomWrite t.k d (toLE (f old a) (zOf w)) (p.or q).isSome v = .ok () x) :
    run (atomic t w f) s = s.done x t.k 16 o.p [] := by
  refine scalar_done (sl := ⟨memSlot, immSlot, memSlot⟩) hissue ?_
  obtain ⟨xa, sa, ha, hread⟩ := bind_split hread
  obtain ⟨xb, sb, hb, hread⟩ := bind_split hread
  obtain ⟨xd, sd, hd, hread⟩ := bind_split hread
  obtain ⟨ra, ta, hra, hread⟩ := bind_split hread
  obtain ⟨rd, td, hrd, hread⟩ := bind_split hread
  cases hread
  simp only [bind_eq, ha, hb, hd, hra, hrd, hold, hnew, commitPtrs_eq, pure_ok]

/-- SWAP, AADD, AAND and AOR (R102, R103, R425). -/
theorem atomics_complete : atomicsComplete := by
  intro e he t w s u v x o a old p q b d hissue hread hold hnew
  simp only [List.mem_cons, List.not_mem_nil, or_false] at he
  rcases he with rfl | rfl | rfl | rfl <;> exact atomic_done hissue hread hold hnew

/-- CAS (R103, R425). -/
theorem compareAndSwap_completes : compareAndSwapCompletes := by
  intro t w s u v o a b old p la d hissue hread hstore
  refine scalar_done (sl := ⟨memSlot, memSlot, memSlot⟩) hissue ?_
  obtain ⟨xa, sa, ha, hread⟩ := bind_split hread
  obtain ⟨xl, sl, hl, hread⟩ := bind_split hread
  obtain ⟨xb, sb, hb, hread⟩ := bind_split hread
  obtain ⟨xd, sd, hd, hread⟩ := bind_split hread
  obtain ⟨ra, ta, hra, hread⟩ := bind_split hread
  obtain ⟨rb, tb, hrb, hread⟩ := bind_split hread
  obtain ⟨rd, td, hrd, hread⟩ := bind_split hread
  cases hread
  by_cases heq : old = a
  · rw [if_pos heq] at hstore
    simp only [bind_eq, ha, hl, hb, hd, hra, hrb, hrd, if_pos heq, hstore, get_ok, setsFlags_ok]
  · rw [if_neg heq] at hstore
    simp only [bind_eq, ha, hl, hb, hd, hra, hrb, hrd, if_neg heq, hstore, get_ok, setsFlags_ok]

/-- Settles O17: each atomic is its checks and reads, and then its stores. -/
theorem atomicInstructionsComplete : Obligations.AtomicInstructionsComplete := ⟨atomics_complete, compareAndSwap_completes⟩

/-! ### Multiplies and divides -/

/-- A multiply puts its product last among those under way (R106). -/
theorem multiply_done {t : Tid} {w : IWord} {sa sb : Bool} {s u : State} {o : Opnds} {a b : Nat}
    (hissue : s.issues t w ⟨noSlot, memSlot, immSlot⟩ (plain w) true (zOf w) (zOf w) (zOf w) 0 o)
    (hread : reads2 t.k (zOf w) o (s.begun t.k) = .ok (a, b) u) :
    run (multiply t w sa sb) s = s.done (u.setThread t.k { u.thread t.k with
      muls := (u.thread t.k).muls ++ [(0, BitVec.ofInt 128 (ext64 sa (8 * zOf w) a * ext64 sb (8 * zOf w) b))] }) t.k 12 o.p [] := by
  refine scalar_done (sl := ⟨noSlot, memSlot, immSlot⟩) hissue ?_
  rw [reads2_bind, bind_ok hread, bind_ok (modify_ok _ u), bind_ok (commitPtrs_eq ..), pure_ok]

/-- MUL, MULU and MULS (R106). -/
theorem multiplies_startTheirProduct : multipliesStartTheirProduct := by
  intro e he t w s u o a b hissue hread
  simp only [List.mem_cons, List.not_mem_nil, or_false] at he
  rcases he with rfl | rfl | rfl <;> exact multiply_done hissue hread

/-- With no divide under way, none has to land before the next. -/
theorem landDiv_none {k : Nat} {s : State} (h : (s.thread k).div = none) : landDiv k s = .ok () s := by
  simp only [landDiv, bind_eq, get_ok, h]
  rfl

/-- A divide by a divisor other than 0, with none under way, starts its quotient and remainder (R107). -/
theorem divide_done {t : Tid} {w : IWord} {signed : Bool} {s u : State} {o : Opnds} {a b : Nat}
    (hissue : s.issues t w ⟨noSlot, memSlot, immSlot⟩ (plain w) true (zOf w) (zOf w) (zOf w) 0 o)
    (hread : reads2 t.k (zOf w) o (s.begun t.k) = .ok (a, b) u) (hb : ext64 signed (8 * zOf w) b ≠ 0)
    (hnone : (u.thread t.k).div = none) :
    run (divide t w signed) s = s.done (u.setThread t.k { u.thread t.k with
      div := some (0, BitVec.ofInt 64 ((ext64 signed (8 * zOf w) a).tdiv (ext64 signed (8 * zOf w) b)),
        BitVec.ofInt 64 ((ext64 signed (8 * zOf w) a).tmod (ext64 signed (8 * zOf w) b))) }) t.k 12 o.p [] := by
  refine scalar_done (sl := ⟨noSlot, memSlot, immSlot⟩) hissue ?_
  rw [reads2_bind, bind_ok hread]
  dsimp only
  rw [if_neg hb, bind_ok (landDiv_none hnone), bind_ok (modify_ok _ u), bind_ok (commitPtrs_eq ..), pure_ok]

/-- DIV and DIVU (R107). -/
theorem divides_startTheirQuotient : dividesStartTheirQuotient := by
  intro e he t w s u o a b hissue hread hb hnone
  simp only [List.mem_cons, List.not_mem_nil, or_false] at he
  rcases he with rfl | rfl <;> exact divide_done hissue hread hb hnone

/-- Settles O18: a multiply or divide reads its operands and puts its result among those under way. -/
theorem multipliesAndDividesStart : Obligations.MultipliesAndDividesStart :=
  ⟨multiplies_startTheirProduct, divides_startTheirQuotient⟩

/-! ### CRC instructions -/

/-- A CRC instruction stores the running value, updated with the bytes of a (R112). -/
theorem crcInto_done {t : Tid} {w : IWord} {legal : Bool} {zd : Nat} {f : Nat → Nat → List Byte → Nat} {s u v : State} {o : Opnds}
    {a c : Nat} {p q : Option Nat} {l : Place}
    (hissue : s.issues t w ⟨memSlot, memSlot, noSlot⟩ legal true zd (zOf w) (zOf w) 0 o)
    (hread : crcReads t.k (zOf w) zd o (s.begun t.k) = .ok ((a, p), (c, q), l) u)
    (hstore : writeP t.k l (f (u.reg (thr t.k 0x1A)).toNat c (toLE a (zOf w))) (p.or q) u = .ok () v) :
    run (crcInto t w legal zd f) s = s.done v t.k 12 o.p [] := by
  refine scalar_done (sl := ⟨memSlot, memSlot, noSlot⟩) hissue ?_
  obtain ⟨xa, sa, ha, hread⟩ := bind_split hread
  obtain ⟨xd, sd, hd, hread⟩ := bind_split hread
  obtain ⟨xl, sl, hl, hread⟩ := bind_split hread
  obtain ⟨ra, ta, hra, hread⟩ := bind_split hread
  obtain ⟨rd, td, hrd, hread⟩ := bind_split hread
  cases hread
  simp only [bind_eq, ha, hd, hl, hra, hrd, get_ok, hstore, commitPtrs_eq, pure_ok]

/-- Settles O19: each CRC instruction is its reads and then its store; the rows differ in the polynomial and the size of d. -/
theorem crcInstructionsComplete : Obligations.CrcInstructionsComplete := by
  intro e he t w s u v o a c p q l hissue hread hstore
  simp only [crcRows, List.mem_cons, List.not_mem_nil, or_false] at he
  rcases he with rfl | rfl | rfl <;> exact crcInto_done hissue hread hstore

end Sys2Proof.Machine
end

section
/-! SUPPORT and RESULT. Control instructions (ControlFlowInstructionsComplete), register access and repeats
(RegisterAccessAndRepeatsComplete), and results under way and tide compares (DeliveriesAndTideSourcesLand,
OldestProductLandsInMhAndMl). -/

namespace Sys2Proof.Machine

/-! ### The shape of a control instruction -/

/-- An instruction that its thread starts has a legal encoding, and its operands are computed. -/
theorem issues_bind {β : Type} {t : Tid} {w : IWord} {s : State} {sl : Slots} {legal rep : Bool} {zd za zb i2a : Nat} {o : Opnds}
    (hissue : s.issues t w sl legal rep zd za zb i2a o) (f : Opnds → M β) :
    (do encoded t.k w sl legal rep; f (← compute t.k w zd za zb 1 i2a) : M β) (s.begun t.k) = f o (s.begun t.k) := by
  obtain ⟨-, henc, hops⟩ := hissue
  rw [bind_ok (encoded_ok henc), bind_ok (compute_ok hops)]

/-- A control instruction that starts and whose body goes on to the next instruction. -/
theorem control_next {t : Tid} {w : IWord} {s v : State} {sl : Slots} {legal : Bool} {i2a : Nat} {o : Opnds}
    {sets : List (Nat × W64)} {body : Nat → Opnds → M Ending}
    (hissue : s.issues t w sl legal false (zOf w) (zOf w) (zOf w) i2a o) (hbody : body t.k o (s.begun t.k) = .ok (.next sets) v) :
    run (control t w sl legal i2a body) s = .next ((v.retired t.k sl.len (bit (s.flags t.k) 29) sets).queueOf s) :=
  starts_next hissue.1 ((issues_bind hissue (body t.k)).trans hbody)

/-- A control instruction that starts and whose body goes on at another address. -/
theorem control_jump {t : Tid} {w : IWord} {s v : State} {sl : Slots} {legal : Bool} {i2a pc : Nat} {o : Opnds} {p : Ptrs}
    {sets : List (Nat × W64)} {body : Nat → Opnds → M Ending}
    (hissue : s.issues t w sl legal false (zOf w) (zOf w) (zOf w) i2a o)
    (hbody : body t.k o (s.begun t.k) = .ok (.jump pc sets) (v.putPtrs t.k p)) :
    run (control t w sl legal i2a body) s = s.goesTo v t.k pc p sets :=
  starts_jump hissue.1 ((issues_bind hissue (body t.k)).trans hbody)

/-! ### Addresses that an operand names -/

/-- An operand of n bytes in an open claim (R127). -/
theorem useClaim_ok {t c o n : Nat} {s : State} (hopen : bit (s.reg (.claim t c)) 32 = true)
    (hclosing : bit (s.reg (.claim t c)) 33 = false) (hlen : o + n ≤ claimLen (s.reg (.claim t c))) :
    useClaim t c o n s = .ok (s.reg (.claim t c)) s := by
  have hrd : rd (.claim t c) s = .ok (s.reg (.claim t c)) s := rfl
  simp only [useClaim, bind_ok hrd, hopen, hclosing, Nat.not_lt.2 hlen]
  rfl

/-- The effective address of an operand is its target (R90, R96). -/
theorem eaAddr_ok {k a : Nat} {o : Opnd} {s : State} (himm : ∀ x, o ≠ .imm x) (h : s.targetOf k o = some a) :
    eaAddr k o s = .ok a s := by
  cases o with
  | mem va far => cases h; rfl
  | claim c off =>
    obtain ⟨⟨hopen, hclosing, hlen⟩, ha⟩ := Option.ite_none_right_eq_some.1 h
    cases ha
    rw [eaAddr, bind_ok (useClaim_ok hopen (Bool.eq_false_iff.2 hclosing) hlen), pure_ok]
  | imm x => exact absurd rfl (himm x)
  | _ => cases h

/-- A canonical, 4-byte aligned target is taken (R90, R98). -/
theorem checkTarget_ok {a : Nat} (hcan : canonical a = true) (halign : a % 4 = 0) (s : State) : checkTarget a s = .ok () s := by
  simp only [checkTarget, hcan, halign]
  rfl

/-- The target of a branch, where it can be taken. -/
theorem branchTarget_ok {k a : Nat} {o : Opnd} {s : State} (h : s.targetOf k o = some a) (hcan : canonical a = true)
    (halign : a % 4 = 0) : branchTarget k o s = .ok a s := by
  unfold branchTarget
  split
  case h_1 x =>
    cases h
    simp only [bind_eq, get_ok, pure_ok, checkTarget_ok hcan halign]
  case h_2 himm => rw [bind_ok (eaAddr_ok himm h), bind_ok (checkTarget_ok hcan halign s), pure_ok]

/-! ### Control flow and fences -/

/-- NOP and FENCE.MEM (R314). -/
theorem nopAndMemoryFence_complete : nopAndMemoryFenceComplete := by
  intro c hc t w s o hissue
  simp only [List.mem_cons, List.not_mem_nil, or_false] at hc
  rcases hc with rfl | rfl <;> exact control_next (sl := noSlots) hissue rfl

/-- With no engine instruction of its thread under way, a fence waits for nothing. -/
theorem fenceEngines_ok {k : Nat} {s : State} (h : s.engBusy k = false) : fenceEngines k s = .ok () s := by
  simp only [fenceEngines, bind_eq, get_ok, h]
  rfl

/-- FENCE.ENG (R408). -/
theorem engineFence_completes : engineFenceCompletes := by
  intro t w s o hissue hidle
  exact control_next (sl := noSlots) hissue (bind_ok (fenceEngines_ok hidle))

/-- A branch whose target can be taken goes there where its condition holds, and on where it does not. -/
theorem branch_done {t : Tid} {w : IWord} {legal : Bool} {c : W64 → Bool} {s : State} {o : Opnds} {a : Nat}
    (hissue : s.issues t w oneSlot legal false (zOf w) (zOf w) (zOf w) 2 o) (htarget : (s.begun t.k).targetOf t.k o.a = some a)
    (hcan : canonical a = true) (halign : a % 4 = 0) :
    run (branch t w legal c) s =
      if c (((s.begun t.k).putPtrs t.k o.p).flags t.k) then s.goesTo (s.begun t.k) t.k a o.p []
      else s.done (s.begun t.k) t.k 8 o.p [] := by
  split
  case isTrue hc =>
    refine control_jump hissue ?_
    rw [bind_ok (branchTarget_ok htarget hcan halign), bind_ok (commitPtrs_eq ..), bind_ok (get_ok _), if_pos hc, pure_ok]
  case isFalse hc =>
    refine control_next hissue ?_
    rw [bind_ok (branchTarget_ok htarget hcan halign), bind_ok (commitPtrs_eq ..), bind_ok (get_ok _), if_neg hc, pure_ok]

/-- BR and BCC (R100). -/
theorem branches_complete : branchesComplete :=
  fun _ _ _ _ _ htarget hcan halign =>
    ⟨fun hissue => branch_done hissue htarget hcan halign, fun hissue => branch_done hissue htarget hcan halign⟩

/-- CALL (R102). -/
theorem call_completes : callCompletes := by
  intro t w s u v o a l hissue htarget hcan halign hsp hplace hstore
  refine control_jump hissue ?_
  rw [bind_ok (branchTarget_ok htarget hcan halign), if_neg (not_not.2 hsp), bind_ok hplace, bind_ok (get_ok u)]
  exact (bind_ok hstore).trans (bind_ok (commitPtrs_eq ..))

/-- RET (R102). -/
theorem return_completes : returnCompletes := by
  intro t w s u v o a l hissue hsp hplace hread hcan halign
  refine control_jump hissue ?_
  rw [if_neg (not_not.2 hsp), bind_ok hplace, bind_ok hread, bind_ok (checkTarget_ok hcan halign v), bind_ok (commitPtrs_eq ..),
    pure_ok]

/-- Settles O21: each instruction is what its body checks, reads and stores, and then its end. -/
theorem controlFlowInstructionsComplete : Obligations.ControlFlowInstructionsComplete :=
  ⟨nopAndMemoryFence_complete, engineFence_completes, branches_complete, call_completes, return_completes⟩

/-! ### Register access and repeats -/

/-- GETR (R84). -/
theorem getr_storesTheRegister : getrStoresTheRegister := by
  intro t w s u v o l hissue hplace hstore
  refine scalar_next (sl := ⟨memSlot, noSlot, noSlot⟩) hissue ?_
  rw [bind_ok hplace, bind_ok (get_ok u), bind_ok hstore, bind_ok (commitPtrs_eq ..), pure_ok]

/-- PUTR (R99, R105). -/
theorem putr_setsTheRegister : putrSetsTheRegister := by
  intro t w s u1 u o x a y hissue hsel hsrc hread hvalue
  show run (putRegister t w) s = _
  unfold putRegister
  refine starts_next (len := oneSlot.len) hissue.1 ((issues_bind hissue _).trans ?_)
  rw [if_neg (Nat.not_le.2 hsel), bind_ok hsrc, bind_ok hread, bind_ok (get_ok u), hvalue]
  exact bind_ok (commitPtrs_eq ..)

/-- LEA (R102). -/
theorem lea_setsThePointer : leaSetsThePointer := by
  intro t w s o a hissue ha
  refine scalar_next (sl := oneSlot) hissue ?_
  obtain ⟨x, hx, rfl⟩ | ⟨himm, htarget⟩ := ha
  · rw [hx, bind_ok (pure_ok _ _), bind_ok (commitPtrs_eq ..), pure_ok]
  · split
    case h_1 x hx => exact absurd hx (himm x)
    case h_2 => rw [bind_ok (eaAddr_ok himm htarget), bind_ok (commitPtrs_eq ..), pure_ok]

/-- REP and REPX with a count that they take (R109, R110). -/
theorem repeatNext_done {t : Tid} {w : IWord} {nxt : W32} {rx : Bool} {s u1 u : State} {o : Opnds} {x : Src} {a : Nat}
    (hissue : s.issues t w oneSlot (plain w && !noRepeat nxt) false (zOf w) (zOf w) (zOf w) 0 o)
    (hsrc : srcOf t.k o.a (zOf w) (s.begun t.k) = .ok x u1) (hread : readSrc t.k x u1 = .ok a u)
    (hcount : rx = true → a % 2 ^ 32 ≤ 64) :
    run (repeatNext t w nxt rx) s =
      if a % 2 ^ 32 = 0 then s.goesTo u t.k (above ((u.putPtrs t.k o.p).pc t.k) (8 + wordLen nxt)) o.p []
      else s.done u t.k 8 o.p [(0x19, BitVec.ofNat 64 (a % 2 ^ 32)),
        (0x10, setField ((u.putPtrs t.k o.p).flags t.k) 29 2 (1 + 2 * b2n rx))] := by
  unfold repeatNext
  have hfew : ¬ (rx = true ∧ 64 < a % 2 ^ 32) := fun ⟨h, hlt⟩ => Nat.not_lt.2 (hcount h) hlt
  split
  case isTrue h0 =>
    refine starts_jump (len := oneSlot.len) hissue.1 ((issues_bind hissue _).trans ?_)
    rw [bind_ok hsrc, bind_ok hread, if_neg hfew, bind_ok (commitPtrs_eq ..), bind_ok (get_ok _), if_pos h0, pure_ok]
    rfl
  case isFalse h0 =>
    refine starts_next (len := oneSlot.len) hissue.1 ((issues_bind hissue _).trans ?_)
    rw [bind_ok hsrc, bind_ok hread, if_neg hfew, bind_ok (commitPtrs_eq ..), bind_ok (get_ok _), if_neg h0, pure_ok]

/-- REP and REPX (R109, R110). -/
theorem repeats_start : repeatsStart := by
  intro e he t w nxt s u1 u o x a hissue hsrc hread hcount
  simp only [List.mem_cons, List.not_mem_nil, or_false] at he
  rcases he with rfl | rfl <;> exact repeatNext_done hissue hsrc hread hcount

/-- Settles O24: each instruction reads its operand and ends with the registers that it sets. -/
theorem registerAccessAndRepeatsComplete : Obligations.RegisterAccessAndRepeatsComplete :=
  ⟨getr_storesTheRegister, putr_setsTheRegister, lea_setsThePointer, repeats_start⟩

/-! ### Deliveries and tide compares -/

/-- MUL_DELIVERY and DIV_DELIVERY (R106, R107). -/
theorem deliveries_land : deliveriesLand := by
  refine ⟨?product, ?quotient⟩
  case product =>
    intro t s n p r hl hmuls
    refine run_live hl ?_
    simp only [landMul, bind_eq, get_ok, hmuls]
    rfl
  case quotient =>
    intro t s n q r hl hdiv
    refine run_live hl ?_
    simp only [landDiv, bind_eq, get_ok, hdiv]
    rfl

/-- A compare register that TIDE_NOW has reached sets its bit, unless it did for this value (R417). -/
theorem tideSource_reached {t : Tid} {cmp : Reg} {b : Nat} {past : Bool} {x : ThreadSt} {s : State} (hl : s.live)
    (hset : s.reg cmp ≠ 0) (hnow : (s.reg cmp).toNat ≤ s.tideNow) :
    run (tideSource t cmp b past x) s =
      s.ends (if past then s else (s.setFld (.intPend t.tree t.th) b 1 1).setThread t.k x) := by
  have hne : ((s.reg cmp).toNat != 0) = true := bne_iff_ne.2 fun h => hset (BitVec.eq_of_toNat_eq h)
  refine run_live hl ?_
  rw [tideSource, bind_ok (get_ok s), hne, decide_eq_true hnow]
  cases past <;> rfl

/-- TIDE_J and TIDE_S (R417). -/
theorem tideCompares_makeTheirSourcePending : tideComparesMakeTheirSourcePending :=
  fun _ _ hl => ⟨fun hset hnow => tideSource_reached hl hset hnow, fun hset hnow => tideSource_reached hl hset hnow⟩

/-- Settles O25: a delivery is one landing, and a tide compare one bit. -/
theorem deliveriesAndTideSourcesLand : Obligations.DeliveriesAndTideSourcesLand :=
  ⟨deliveries_land, tideCompares_makeTheirSourcePending⟩

theorem thr_addr_ne {k a b : Nat} (h : a ≠ b) : (thr k a).addr ≠ (thr k b).addr := by
  show treeBase _ + 0x3000 + 0x200 * _ + 8 * a ≠ treeBase _ + 0x3000 + 0x200 * _ + 8 * b
  omega

/-- A register of a thread, but its feature registers, reads as what is stored (R84). -/
theorem reg_thr {k a : Nat} (ha : a < 0x20) (s : State) : s.reg (thr k a) = s.stored (thr k a) := by
  simp only [thr, State.reg]
  rw [if_neg (by omega)]

/-- A register of a thread after one of them is set. -/
theorem reg_setReg_thr {k a b : Nat} (hb : b < 0x20) (s : State) (v : W64) :
    (s.setReg (thr k a) v).reg (thr k b) = if b = a then v else s.reg (thr k b) := by
  rw [reg_thr hb, reg_thr hb]
  split
  case isTrue h => rw [h, stored_setReg]
  case isFalse h => exact stored_setReg_ne _ _ _ _ (thr_addr_ne h)

/-- MH, ML, or another register of a thread, after a product has been put into MH and ML. -/
theorem reg_putProduct {k a : Nat} (ha : a < 0x20) (s : State) (h l : W64) :
    (s.putRegs k [(0x11, h), (0x12, l)]).reg (thr k a) = if a = 0x12 then l else if a = 0x11 then h else s.reg (thr k a) := by
  show ((s.setReg (thr k 0x11) h).setReg (thr k 0x12) l).reg (thr k a) = _
  rw [reg_setReg_thr ha, reg_setReg_thr ha]

/-- Settles O11: the registers, read in the state that the delivery is known to end in. -/
theorem oldestProductLandsInMhAndMl : Obligations.OldestProductLandsInMhAndMl := by
  intro t s age p r hon hheld hmuls
  refine ⟨_, deliveries_land.1 t s age p r ⟨hon, hheld⟩ hmuls, ?_⟩
  generalize hv : s.setThread t.k { s.thread t.k with muls := r } = v
  have hthread : (v.thread t.k).muls = r := by rw [← hv, thread_setThread, if_pos rfl]
  have hstored (g : Reg) : v.stored g = s.stored g := by rw [← hv]; rfl
  have hmem : v.mem = s.mem := by rw [← hv]; rfl
  have hread (a : Nat) (ha : a < 0x20) :
      ((v.putRegs t.k [(0x11, (p >>> 64).setWidth 64), (0x12, p.setWidth 64)]).queueOf s).reg (thr t.k a) =
        if a = 0x12 then p.setWidth 64 else if a = 0x11 then (p >>> 64).setWidth 64 else s.reg (thr t.k a) := by
    rw [reg_thr ha s, ← hstored, ← reg_thr ha v, ← reg_putProduct ha, reg_thr ha, reg_thr ha]
    rfl
  exact ⟨hread 0x11 (by decide), hread 0x12 (by decide), hthread, hread 0x10 (by decide),
    congrArg BitVec.toNat (hread 0x1B (by decide)), hmem⟩

end Sys2Proof.Machine
end

section
/-! SUPPORT and RESULT. Faults of scalar instructions (ScalarFaultsEnterTheirVectors, RepeatsOfTheseInstructionsAreIllegal): how an
exception is entered, and the instructions that stop before they have changed anything. -/

namespace Sys2Proof.Machine

/-! ### Actions that stop -/

/-- What an action stops with goes to its handler. -/
theorem catch_error {α : Type} {m : M α} {f : Stop → M α} {s u : State} {e : Stop} (h : m s = .error e u) :
    tryCatch m f s = f e u := by
  show EStateM.tryCatch m f s = _
  simp only [EStateM.tryCatch, h]
  rfl

/-- An action that stops leaves out what follows it. -/
theorem bind_error {α β : Type} {m : M α} {f : α → M β} {s u : State} {e : Stop} (h : m s = .error e u) :
    (m >>= f) s = .error e u := by simp only [bind_eq, h]

theorem throw_error {α : Type} (e : Stop) (s : State) : (throw e : M α) s = .error e s := rfl

/-! ### An exception is entered -/

theorem crewQuiet_eq (k : Nat) (s : State) : crewQuiet k s = .ok () (after (crewQuiet k) s) := by
  obtain ⟨u, hu⟩ := crewQuiet_ok k s
  rw [after_ok hu, hu]

/-- Every product and quotient of a thread lands (R108). -/
theorem landAll_eq (k : Nat) (s : State) : landAll k s = .ok () (s.landed k) := by
  obtain ⟨u, hu⟩ : ∃ u, landAll k s = .ok () u := by
    obtain ⟨v, hv⟩ := forAll_ok (f := fun m : Nat × BitVec 128 => putProduct k m.2) (fun _ _ => ⟨_, rfl⟩) (s.thread k).muls s
    rw [landAll, bind_ok (get_ok s)]
    dsimp only
    rw [bind_ok hv]
    rcases (s.thread k).div with - | ⟨n, q, r⟩ <;> exact ⟨_, rfl⟩
  rw [State.landed, after_ok hu, hu]

/-- The handler starts (R408). -/
theorem landAt_eq (k : Nat) (w : Bool) (f pc vec : Nat) (p : Ptrs) (s : State) :
    landAt k w f pc vec p s = .ok () (s.atHandler k w f pc vec p) := by
  simp only [landAt, bind_eq, commitPtrs_eq, wr_ok, wrf, modify_ok, crewQuiet_eq]
  rfl

/-- An exception whose frame can be written starts its handler (R408). -/
theorem enterNow_enters {k : Nat} {e : Exn} {p : Ptrs} {s v : State} (h : s.entersNow k e p v) :
    enterNow k e p (s.landed k) = .ok () v := by
  obtain ⟨-, hdouble, u, hframe, rfl⟩ := h
  rw [enterNow, bind_ok (get_ok _), hdouble]
  exact (bind_ok hframe).trans (landAt_eq ..)

/-- An exception is entered where no ARITH that has become pending since replaces it (R408). -/
theorem enter_enters {k : Nat} {e : Exn} {p : Ptrs} {early : Bool} {s v : State} (h : s.entersNow k e p v)
    (harith : (s.flag (excReg k) 2 && !early) = false) : enter k e p early s = .ok () v := by
  rw [enter, bind_ok (get_ok s), h.1]
  simp only [Bool.false_eq_true, if_false]
  rw [bind_ok (landAll_eq k s), harith]
  exact enterNow_enters h

/-- A fault that a thread raises is entered (R408, R413). -/
theorem enterFault_enters {k vec sub : Nat} {info info2 : W64} {res : Bool} {s v : State}
    (h : s.raises k vec sub info info2 res v) : enterFault k vec sub info info2 res s = .ok () v := by
  rw [enterFault, bind_ok (modify_ok _ s), enterRaised, bind_ok (get_ok _)]
  have hraised : ((s.raise k vec sub info info2 res).thread k).raised =
      some ⟨vec, sub, info, info2, res, s.flag (excReg k) 2⟩ := by
    rw [State.raise, thread_setThread, if_pos rfl]
  simp only [hraised]
  -- Raising a fault leaves the registers: an ARITH pending now was pending when the fault was raised.
  exact enter_enters h (Bool.and_not_self _)

/-- The instruction that a thread is given begins, unless it had begun before its wait (R106, R107). -/
theorem begins_eq (k : Nat) (s : State) :
    whenM (decide ((s.thread k).hold = .none) || decide ((s.thread k).hold = .issue)) (beginInstr k) s = .ok () (s.begun k) := by
  obtain ⟨u, hu⟩ := beginInstr_ok k s
  by_cases h : (s.thread k).hold = .none ∨ (s.thread k).hold = .issue
  · rw [State.begun, if_pos h, after_ok hu, ← hu, whenM, if_pos (by simpa using h)]
  · rw [State.begun, if_neg h, whenM, if_neg (by simpa using h)]
    rfl

/-- The fault of an instruction that has started is entered, and the instruction counts as not started (R408, R413). -/
theorem starts_faults {t : Tid} {s u v : State} {len vec sub : Nat} {info info2 : W64} {res : Bool} {body : Nat → M Ending}
    (h : s.Ready t) (hbody : body t.k (s.begun t.k) = .error (.exc vec sub info info2 res) u)
    (hfault : u.faults t.k vec sub info info2 res v) : run (starts t len body) s = .next (v.queueOf s) := by
  have hboundary := ready_boundary h
  obtain ⟨hl, hparked, hraised, hstalled, -⟩ := h
  refine run_live hl ?_
  simp only [starts, bind_eq, get_ok, hparked, hraised, hstalled, hboundary, settleStop, Option.isSome_none, if_false,
    Bool.false_eq_true]
  refine catch_ok ?_
  rw [bind_ok (begins_eq t.k s)]
  refine (catch_error (bind_error hbody)).trans ?_
  exact (bind_ok (modify_ok _ u)).trans (enterFault_enters hfault)

/-- An instruction that has started and stops with a fault whose INFO is its base word enters that fault (R406). -/
theorem starts_faultsWord {t : Tid} {w : IWord} {s u v : State} {len vec sub : Nat} {body : Nat → M Ending}
    (h : s.Ready t) (hbody : body t.k (s.begun t.k) = .error (fltWord w vec sub) u)
    (hfault : u.faults t.k vec sub (BitVec.ofNat 64 w.base.toNat) 0 false v) :
    run (starts t len body) s = .next (v.queueOf s) := starts_faults h hbody hfault

/-! ### Encodings that are illegal -/

/-- An illegal option or slot, or a repeat of what none may precede, is an illegal instruction (R88, R98, R111). -/
theorem encoded_illegal {k : Nat} {w : IWord} {sl : Slots} {legal rep : Bool} {s : State}
    (h : legal = false ∨ sl.judge w = .illegal) : encoded k w sl legal rep s = .error (fltWord w vIllegal 0) s := by
  have hbad : ¬ legal = true ∨ sl.judge w = .illegal ∨ bit (s.flags k) 29 = true ∧ ¬ rep = true :=
    h.elim (fun hlegal => .inl (by simp [hlegal])) fun hjudge => .inr (.inl hjudge)
  rw [encoded, bind_ok (get_ok s)]
  rw [if_pos hbad, throw_error]

/-- A scalar instruction of an illegal encoding (R88, R98). -/
theorem scalar_illegal {t : Tid} {w : IWord} {s v : State} {sl : Slots} {legal : Bool} {zd za zb : Nat}
    {body : Nat → Opnds → M Ending} (h : s.Ready t) (hbad : legal = false ∨ sl.judge w = .illegal)
    (hfault : (s.begun t.k).faults t.k vIllegal 0 (BitVec.ofNat 64 w.base.toNat) 0 false v) :
    run (scalar t w sl legal zd za zb body) s = .next (v.queueOf s) := by
  unfold scalar
  exact starts_faultsWord h (bind_error (encoded_illegal hbad)) hfault

/-- The binary integer instructions (R88, R98). -/
theorem illegalEncodings_raiseIllegalInstruction : illegalEncodingsRaiseIllegalInstruction := by
  intro e he t w s v hready hbad hfault
  rw [exec_binaryRow he]
  exact scalar_illegal hready hbad hfault

/-- The base words that no repeat may precede (R111). -/
theorem noRepeat_of {x : W32} (h : (1 ≤ field x 24 8 ∧ field x 24 8 ≤ 0x0F) ∨ field x 24 8 = 0x48 ∨ field x 24 8 = 0x49 ∨
    (field x 24 8 = 0x41 ∧ (field x 18 6 = 0x10 ∨ field x 18 6 = 0x19)) ∨ (0xE0 ≤ field x 24 8 ∧ field x 24 8 ≤ 0xEF)) :
    noRepeat x = true := by
  simpa [noRepeat, or_assoc] using h

/-- REP and REPX before a base word that they may not precede (R111). -/
theorem repeatNext_illegal {t : Tid} {w : IWord} {nxt : W32} {s v : State} (h : s.Ready t) (hnext : noRepeat nxt = true)
    (hfault : (s.begun t.k).faults t.k vIllegal 0 (BitVec.ofNat 64 w.base.toNat) 0 false v) (rx : Bool) :
    run (repeatNext t w nxt rx) s = .next (v.queueOf s) := by
  have hillegal : (plain w && !noRepeat nxt) = false := by rw [hnext, Bool.not_true, Bool.and_false]
  unfold repeatNext
  exact starts_faultsWord h (bind_error (encoded_illegal (.inl hillegal))) hfault

/-- Settles O27: such a base word after it makes the encoding of a REP or REPX illegal. -/
theorem repeatsOfTheseInstructionsAreIllegal : Obligations.RepeatsOfTheseInstructionsAreIllegal := by
  intro c hc t w nxt s v hready hnext hfault
  simp only [List.mem_cons, List.not_mem_nil, or_false] at hc
  rcases hc with rfl | rfl
  · exact repeatNext_illegal hready (noRepeat_of hnext) hfault false
  · exact repeatNext_illegal hready (noRepeat_of hnext) hfault true

/-! ### Privilege and division by 0 -/

/-- A control instruction of a legal encoding whose body stops with a fault whose INFO is its base word. -/
theorem control_faultsWord {t : Tid} {w : IWord} {s u v : State} {sl : Slots} {legal : Bool} {i2a vec sub : Nat} {o : Opnds}
    {body : Nat → Opnds → M Ending} (hissue : s.issues t w sl legal false (zOf w) (zOf w) (zOf w) i2a o)
    (hbody : body t.k o (s.begun t.k) = .error (fltWord w vec sub) u)
    (hfault : u.faults t.k vec sub (BitVec.ofNat 64 w.base.toNat) 0 false v) :
    run (control t w sl legal i2a body) s = .next (v.queueOf s) :=
  starts_faultsWord hissue.1 ((issues_bind hissue (body t.k)).trans hbody) hfault

/-- ERET at user level (R410). -/
theorem returnFrom_user {t : Tid} {w : IWord} {s v : State} {o : Opnds}
    (hissue : s.issues t w noSlots (plain w) false (zOf w) (zOf w) (zOf w) 0 o) (huser : bit ((s.begun t.k).flags t.k) 33 = false)
    (hfault : (s.begun t.k).faults t.k vPrivilege 0 (BitVec.ofNat 64 w.base.toNat) 0 false v) :
    run (returnFrom t w) s = .next (v.queueOf s) := by
  refine control_faultsWord hissue ?_ hfault
  have hlevel : ¬ bit ((s.begun t.k).flags t.k) 33 = true := Bool.eq_false_iff.1 huser
  rw [bind_ok (get_ok _), if_pos hlevel, throw_error]

/-- GATE through a closed gate (R411). -/
theorem gateInto_closed {t : Tid} {w : IWord} {s v : State} {o : Opnds} {a : Nat}
    (hissue : s.issues t w ⟨noSlot, memSlot, noSlot⟩ (plain w) false (zOf w) (zOf w) (zOf w) 0 o) (himm : ∀ x, o.a ≠ .imm x)
    (htarget : (s.begun t.k).targetOf t.k o.a = some a) (hclosed : (s.begun t.k).flag (.gateMask (t.k / 4)) w.minor = false)
    (hfault : (s.begun t.k).faults t.k vPrivilege 0 (BitVec.ofNat 64 w.base.toNat) 0 false v) :
    run (gateInto t w) s = .next (v.queueOf s) := by
  refine control_faultsWord hissue ?_ hfault
  rw [bind_ok (eaAddr_ok himm htarget), bind_ok (get_ok _), if_pos (Bool.eq_false_iff.1 hclosed), throw_error]

/-- PARK in the Job world (R404). -/
theorem parkSelf_job {t : Tid} {w : IWord} {s v : State} (h : s.Ready t) (hjob : bit ((s.begun t.k).flags t.k) 34 = false)
    (hfault : (s.begun t.k).faults t.k vPrivilege 0 (BitVec.ofNat 64 w.base.toNat) 0 false v) :
    run (parkSelf t w) s = .next (v.queueOf s) := by
  unfold parkSelf
  refine starts_faultsWord h ?_ hfault
  have hworld : ¬ bit ((s.begun t.k).flags t.k) 34 = true := Bool.eq_false_iff.1 hjob
  rw [bind_ok (get_ok _), if_pos hworld, throw_error]

/-- ERET, GATE and PARK where they are privileged (R404). -/
theorem privilegedInstructions_fault : privilegedInstructionsFault :=
  ⟨fun _ _ _ _ _ hissue huser hfault => returnFrom_user hissue huser hfault,
    fun _ _ _ _ _ _ hissue himm htarget hclosed hfault => gateInto_closed hissue himm htarget hclosed hfault,
    fun _ _ _ _ hready hjob hfault => parkSelf_job hready hjob hfault⟩

/-- A scalar instruction of a legal encoding whose body stops with a fault. -/
theorem scalar_faults {t : Tid} {w : IWord} {s u v : State} {sl : Slots} {legal : Bool} {zd za zb vec sub : Nat} {info info2 : W64}
    {res : Bool} {o : Opnds} {body : Nat → Opnds → M Ending} (hissue : s.issues t w sl legal true zd za zb 0 o)
    (hbody : body t.k o (s.begun t.k) = .error (.exc vec sub info info2 res) u)
    (hfault : u.faults t.k vec sub info info2 res v) : run (scalar t w sl legal zd za zb body) s = .next (v.queueOf s) :=
  starts_faults hissue.1 ((issues_bind hissue (body t.k)).trans hbody) hfault

/-- A divide by 0 (R107). -/
theorem divide_byZero {t : Tid} {w : IWord} {signed : Bool} {s u v : State} {o : Opnds} {a b : Nat}
    (hissue : s.issues t w ⟨noSlot, memSlot, immSlot⟩ (plain w) true (zOf w) (zOf w) (zOf w) 0 o)
    (hread : reads2 t.k (zOf w) o (s.begun t.k) = .ok (a, b) u) (hb : ext64 signed (8 * zOf w) b = 0)
    (hfault : u.faults t.k 5 0 0 0 false v) : run (divide t w signed) s = .next (v.queueOf s) := by
  refine scalar_faults hissue ?_ hfault
  rw [reads2_bind, bind_ok hread]
  exact congrFun (if_pos hb) u

/-- DIV and DIVU (R107). -/
theorem divisionByZero_faults : divisionByZeroFaults := by
  intro e he t w s u v o a b hissue hread hb hfault
  simp only [List.mem_cons, List.not_mem_nil, or_false] at he
  rcases he with rfl | rfl <;> exact divide_byZero hissue hread hb hfault

/-- Settles O26: each of these instructions stops before it has changed anything, and its fault is entered. -/
theorem scalarFaultsEnterTheirVectors : Obligations.ScalarFaultsEnterTheirVectors :=
  ⟨illegalEncodings_raiseIllegalInstruction, privilegedInstructions_fault, divisionByZero_faults⟩

end Sys2Proof.Machine
end

section
/-! SUPPORT and RESULT. Engine instructions (EngineInstructionsComplete): when the engines of a tree have nothing to do, and how an
instruction that passes its checks is issued and performed. -/

namespace Sys2Proof.Machine

/-! ### When the engines of a tree have nothing to do -/

/-- An entry that has been performed is not performed again. -/
theorem ready_performed {t : Nat} {pre : List SbEntry} {e : SbEntry} {s : State} (h : e.performed = true) :
    s.ready t pre e = false := by simp [State.ready, h]

/-- The engine of entry i of a tree's scoreboard may perform it. -/
def State.mayPerform (s : State) (t i : Nat) : Bool :=
  match (s.tree t).sb[i]? with
  | some e => s.ready t ((s.tree t).sb.take i) e
  | none => false

/-- One turn of the engines of a tree: the oldest entry that may be performed. -/
theorem pump_succ (f t : Nat) (s : State) :
    pump (f + 1) t s = ((List.range (s.tree t).sb.length).find? (s.mayPerform t)).elim skip
      (fun i => do performAt t i; pump f t) s := by
  rw [pump, bind_ok (get_ok s)]
  show (match (List.range (s.tree t).sb.length).find? (s.mayPerform t) with | none => _ | some i => _ : M Unit) s = _
  cases (List.range (s.tree t).sb.length).find? (s.mayPerform t) <;> rfl

/-- The engines do nothing where all entries have been performed. -/
theorem pump_idle {t : Nat} {s : State} (h : ∀ e ∈ (s.tree t).sb, e.performed = true) (f : Nat) : pump f t s = .ok () s := by
  cases f with
  | zero => rfl
  | succ f =>
    have hnone : (List.range (s.tree t).sb.length).find? (s.mayPerform t) = none := by
      refine List.find?_eq_none.2 fun i _ => ?_
      unfold State.mayPerform
      split
      case h_1 e he => simp [ready_performed (h e (List.mem_of_getElem? he))]
      case h_2 => exact Bool.false_ne_true
    rw [pump_succ, hnone]
    rfl

theorem engSync_eq (t : Nat) (s : State) : engSync t s = .ok () (after (engSync t) s) := rfl

/-- The entry of a scoreboard that holds nothing else, where its engine can perform it: the engine's work, and then the status
registers (R233). -/
theorem enginesGo_one {t n : Nat} {e : SbEntry} {s v : State} (hsb : (s.tree t).sb = [e]) (hready : s.ready t [] e = true)
    (hwork : performWork t e s = .ok n v) (hkeep : (v.tree t).sb = [e]) :
    enginesGo t s = .ok () (after (engSync t)
      (v.setTree t { v.tree t with sb := [{ e with performed := true, conds := n }] })) := by
  have hfind : (List.range (s.tree t).sb.length).find? (s.mayPerform t) = some 0 := by
    simp [State.mayPerform, hsb, List.range_succ, hready]
  have hperform : performAt t 0 s =
      .ok () (v.setTree t { v.tree t with sb := [{ e with performed := true, conds := n }] }) := by
    have hentry : (s.tree t).sb[0]? = some e := by rw [hsb]; rfl
    rw [performAt, bind_ok (get_ok s)]
    simp only [hentry]
    rw [bind_ok (catch_ok hwork), modify_ok]
    simp only [hkeep, List.set_cons_zero]
  have hpump : pump 32 t s = .ok () (v.setTree t { v.tree t with sb := [{ e with performed := true, conds := n }] }) := by
    rw [pump_succ, hfind]
    refine (bind_ok hperform).trans (pump_idle ?_ 31)
    rw [tree_setTree, if_pos rfl]
    exact List.forall_mem_singleton.2 rfl
  rw [enginesGo, bind_ok hpump, engSync_eq]

/-! ### The issue of an engine instruction -/

/-- An engine instruction whose checks at issue end without a fault is recorded, and then the engines go on. -/
theorem engine_issues {t : Tid} {w : IWord} {eng : Nat} {sl : Slots} {legal epochs : Bool} {prep : Nat → M Prep} {s u v : State}
    {p : Prep} (hready : s.Ready t) (henc : (s.begun t.k).encodes t.k w sl legal true)
    (hroom : engRoom t.k eng epochs (s.begun t.k) = .ok () (s.begun t.k)) (hprep : prep t.k (s.begun t.k) = .ok p u)
    (hstop : p.stop = none) (hgo : enginesGo (t.k / 4) (u.issued t.k w p) = .ok () v) (hparked : v.parked t.k = false) :
    run (engine t w eng sl legal epochs prep) s =
      .next ((v.retired t.k sl.len (bit (s.flags t.k) 29) p.sets).queueOf s) := by
  have hsr : whenM p.sr (nextStream t.k) u = .ok () (if p.sr then after (nextStream t.k) u else u) := by
    cases p.sr <;> rfl
  have hrecord (x : State) : record t.k w p.work x = .ok () (after (record t.k w p.work) x) := rfl
  unfold engine
  refine starts_next hready ?_
  rw [bind_ok (encoded_ok henc), bind_ok hroom, bind_ok (catch_ok hprep)]
  simp only [hstop]
  rw [bind_ok hsr, bind_ok (commitPtrs_eq ..), bind_ok (hrecord _)]
  refine (bind_ok hgo).trans ?_
  rw [bind_ok (get_ok v), hparked]
  rfl

/-- An instruction that is an engine instruction of its unit is issued and performed. -/
theorem issueCompletes_of_engine {c : Tid → IWord → Instr} {eng : IWord → Nat} {sl : IWord → Slots} {legal : IWord → Bool}
    {epochs : Bool} {prep : Nat → IWord → M Prep}
    (hexec : ∀ t w s, exec (c t w) s = run (engine t w (eng w) (sl w) (legal w) epochs fun k => prep k w) s) :
    issueCompletes c eng sl legal epochs prep := by
  intro t w s u p hready henc hroom hprep hstop
  rw [hexec]
  exact ⟨fun v hgo hparked => engine_issues hready henc hroom hprep hstop hgo hparked,
    fun e n v hsb he hwork hkeep hparked =>
      engine_issues hready henc hroom hprep hstop (enginesGo_one hsb he hwork hkeep) hparked⟩

/-- Each instruction of the vector unit is what its unit executes. -/
theorem exec_vectorRow : ∀ c ∈ vectorRows, ∀ t w s, exec (c t w) s = run (vector t w) s := by
  iterate 71 refine List.forall_mem_cons.2 ⟨fun _ _ _ => rfl, ?_⟩
  exact List.forall_mem_nil _

/-- Settles O29: each of these instructions is an engine instruction of its unit. -/
theorem engineInstructionsComplete : Obligations.EngineInstructionsComplete := by
  refine ⟨fun c hc => issueCompletes_of_engine (exec_vectorRow c hc), ?tile, ?matrix, ?stream⟩
  case tile =>
    intro c hc
    simp only [List.mem_cons, List.not_mem_nil, or_false] at hc
    rcases hc with rfl | rfl | rfl | rfl | rfl | rfl <;> exact issueCompletes_of_engine fun _ _ _ => rfl
  case matrix =>
    intro c hc
    simp only [List.mem_cons, List.not_mem_nil, or_false] at hc
    rcases hc with rfl | rfl | rfl | rfl <;> exact issueCompletes_of_engine fun _ _ _ => rfl
  case stream =>
    intro c hc
    simp only [List.mem_cons, List.not_mem_nil, or_false] at hc
    rcases hc with rfl | rfl <;> exact issueCompletes_of_engine fun _ _ _ => rfl

/-- Each row of the table is what its instruction executes. -/
theorem exec_boardRow {e : (Tid → IWord → Instr) × Slots × (IWord → Bool) × Bool × (Nat → IWord → M Prep)} (he : e ∈ boardRows)
    (t : Tid) (w : IWord) (s : State) :
    exec (e.1 t w) s = run (boardOp t w e.2.1 (e.2.2.1 w) e.2.2.2.1 e.2.2.2.2) s := by
  simp only [boardRows, List.mem_cons, List.not_mem_nil, or_false] at he
  rcases he with rfl | rfl | rfl | rfl | rfl | rfl | rfl | rfl | rfl <;> rfl

/-- The claim, scoreboard and epoch instructions are recorded, and their threads go on (R124, R237, R331). -/
theorem boardInstructions_complete : boardInstructionsComplete :=
  fun _ he => issueCompletes_of_engine (exec_boardRow he)

end Sys2Proof.Machine
end

section
/-! SUPPORT and RESULT. Claim, scoreboard and epoch instructions (BoardInstructionsCompleteWithTheirWork): an instruction of the
scoreboard unit leaves the engines without work that waits, and what each one does at issue. -/

namespace Sys2Proof.Machine

/-! ### Pointers that an instruction updates -/

/-- The pointer registers that an instruction updates are among the 16 that there are (R91). -/
def Ptrs.inRange (p : Ptrs) : Prop := ∀ n ∈ p.upd, n < 16

theorem field_lt {k : Nat} (x : BitVec k) (lo n : Nat) : field x lo n < 2 ^ n := Nat.mod_lt _ (Nat.two_pow_pos n)

theorem inRange_ptrs (s : State) (k : Nat) : (s.ptrs k).inRange := List.forall_mem_nil _

theorem inRange_set {p : Ptrs} {n : Nat} (h : p.inRange) (hn : n < 16) (v : Int) : (p.set n v).inRange :=
  List.forall_mem_cons.2 ⟨hn, h⟩

/-- An effective address leaves the pointers as it was given them. -/
theorem eaOf_ptrs {i2 : Nat} {a : Int} {far : Bool} {p q : Ptrs} {o : Opnd} (h : eaOf i2 a far p = .ok (o, q)) : q = p := by
  unfold eaOf at h
  dsimp only at h
  split at h
  · cases h; rfl
  · cases h

/-- Each mode updates at most the pointer register of bits [31:28] of its specifier (R94, R95). -/
theorem operand_inRange {w : IWord} {p q : Ptrs} {mode z i2 : Nat} {x : W32} {o : Opnd}
    (h : operand w p mode x z i2 = .ok (o, q)) (hp : p.inRange) : q.inRange := by
  have hset (v : Int) : (p.set (field x 28 4) v).inRange := inRange_set hp (field_lt x 28 4) v
  unfold operand at h
  split at h
  case h_1 | h_2 | h_12 | h_14 | h_15 => cases h; exact hp
  case h_3 | h_4 | h_5 | h_6 | h_9 | h_13 => rw [eaOf_ptrs h]; exact hp
  case h_7 | h_8 => rw [eaOf_ptrs h]; exact hset _
  case h_10 | h_11 =>
    dsimp only at h
    split at h
    · cases h
    · rw [eaOf_ptrs h]; exact hset _
  case h_16 =>
    dsimp only at h
    split at h
    case h_1 heq => cases h; rw [eaOf_ptrs heq]; exact hp
    case h_2 => rw [eaOf_ptrs h]; exact hp

/-- A computation that answers does so by a first answer, and by what follows it. -/
theorem except_bind_split {α β : Type} {m : Except Stop α} {f : α → Except Stop β} {b : β} (h : m >>= f = .ok b) :
    ∃ a, m = .ok a ∧ f a = .ok b := by
  cases m with
  | error e => cases h
  | ok a => exact ⟨a, rfl, h⟩

/-- So do the three operands of an instruction together (R91). -/
theorem operands_inRange {w : IWord} {s : State} {k zd za zb i2d i2a i2b : Nat} {o : Opnds}
    (h : operands w (s.ptrs k) zd za zb i2d i2a i2b = .ok o) : o.p.inRange := by
  obtain ⟨⟨a, pa⟩, ha, h⟩ := except_bind_split h
  obtain ⟨⟨b, pb⟩, hb, h⟩ := except_bind_split h
  obtain ⟨⟨d, pd⟩, hd, h⟩ := except_bind_split h
  cases h
  exact operand_inRange hd (operand_inRange hb (operand_inRange ha (inRange_ptrs s k)))

/-! ### Where the engines have no work that waits -/

/-- Every entry of a tree's scoreboard has been performed, or is of a unit that performs at issue: the engines of the tree have no
work that waits. -/
def State.engsIdle (s : State) (t : Nat) : Prop := ∀ e ∈ (s.tree t).sb, e.performed = true ∨ e.work.eng = 3

theorem mayPerform_entry {t i : Nat} {s : State} (h : s.mayPerform t i = true) :
    ∃ e, (s.tree t).sb[i]? = some e ∧ ¬ e.performed = true := by
  unfold State.mayPerform at h
  split at h
  case h_1 e he =>
    refine ⟨e, he, fun hdone => ?_⟩
    rw [ready_performed hdone] at h
    cases h
  case h_2 => cases h

/-- The scoreboard unit has no work left for an entry: performing it marks it. -/
theorem performAt_board {t i : Nat} {s : State} (hidle : s.engsIdle t) (hmay : s.mayPerform t i = true) :
    ∃ v, performAt t i s = .ok () v ∧ v.engsIdle t ∧ v.regs = s.regs := by
  obtain ⟨e, he, hundone⟩ := mayPerform_entry hmay
  have heng : e.work.eng = 3 := (hidle e (List.mem_of_getElem? he)).resolve_left hundone
  have hwork : performWork t e s = .ok 0 s := by
    rw [performWork, heng]
    rfl
  refine ⟨s.setTree t { s.tree t with sb := (s.tree t).sb.set i { e with performed := true, conds := 0 } }, ?_, ?_, rfl⟩
  · rw [performAt, bind_ok (get_ok s)]
    simp only [he]
    rw [bind_ok (catch_ok hwork), modify_ok]
  · intro x hx
    rw [tree_setTree, if_pos rfl] at hx
    obtain hx | rfl := List.mem_or_eq_of_mem_set hx
    · exact hidle x hx
    · exact .inl rfl

/-- The engines go on without a stop, and change no register but their own. -/
theorem pump_board {t : Nat} (f : Nat) : ∀ {s : State}, s.engsIdle t → ∃ v, pump f t s = .ok () v ∧ v.regs = s.regs := by
  induction f with
  | zero => exact fun {s} _ => ⟨s, rfl, rfl⟩
  | succ f ih =>
    intro s hidle
    rw [pump_succ]
    cases hfind : (List.range (s.tree t).sb.length).find? (s.mayPerform t) with
    | none => exact ⟨s, rfl, rfl⟩
    | some i =>
      obtain ⟨v, hv, hidle', hregs⟩ := performAt_board hidle (List.find?_some hfind)
      obtain ⟨x, hx, hregs'⟩ := ih hidle'
      exact ⟨x, (bind_ok hv).trans hx, hregs'.trans hregs⟩

/-! ### A thread that is not parked stays so -/

/-- A thread is parked by a bit of EXC_STATUS alone (R412). -/
theorem parked_congr {k : Nat} {s u : State} (h : u.stored (excReg k) = s.stored (excReg k)) : u.parked k = s.parked k := by
  show bit (u.stored (excReg k) ||| _) 1 = bit (s.stored (excReg k) ||| _) 1
  rw [h]
  rfl

theorem stored_of_regs {s u : State} (h : u.regs = s.regs) (g : Reg) : u.stored g = s.stored g := by
  unfold State.stored
  rw [h]

theorem excReg_ne_thr {k n : Nat} (hn : n < 0x20) : (excReg k).addr ≠ (thr k n).addr := by
  show treeBase (k / 4) + 0xA030 + 0x100 * (k % 4) ≠ treeBase (k / 4) + 0x3000 + 0x200 * (k % 4) + 8 * n
  omega

theorem parked_putPtrs {k : Nat} {p : Ptrs} (hp : p.inRange) (s : State) : (s.putPtrs k p).parked k = s.parked k := by
  refine parked_congr (List.foldlRecOn _ _ (motive := fun u : State => u.stored (excReg k) = s.stored (excReg k)) rfl ?_)
  intro u hu e he
  obtain ⟨n, hn, rfl⟩ := List.mem_map.1 he
  have hlt : n < 0x20 := (hp n hn).trans (by decide)
  exact (stored_setReg_ne _ _ _ _ (excReg_ne_thr hlt)).trans hu

/-- The engines' status registers say nothing of threads. -/
theorem parked_engSync (k : Nat) (s : State) : (after (engSync (k / 4)) s).parked k = s.parked k := by
  have hset (u : State) (g : Reg) (lo n v : Nat) (hne : (excReg k).addr ≠ g.addr)
      (h : u.stored (excReg k) = s.stored (excReg k)) : (u.setFld g lo n v).stored (excReg k) = s.stored (excReg k) :=
    (stored_setReg_ne _ _ _ _ hne).trans h
  have hvu : (excReg k).addr ≠ (Reg.vuStatus (k / 4)).addr := by
    show treeBase (k / 4) + 0xA030 + 0x100 * (k % 4) ≠ treeBase (k / 4) + 0x6000
    omega
  have hse : (excReg k).addr ≠ (Reg.seStatus (k / 4)).addr := by
    show treeBase (k / 4) + 0xA030 + 0x100 * (k % 4) ≠ treeBase (k / 4) + 0x7000
    omega
  have hmx (i : Nat) (hi : i < 32) : (excReg k).addr ≠ (Reg.mxBank (k / 4) (i / 2) (i % 2)).addr := by
    show treeBase (k / 4) + 0xA030 + 0x100 * (k % 4) ≠ treeBase (k / 4) + 0x5008 + 0x100 * (i / 2) + 0x8 * (i % 2)
    omega
  refine parked_congr (List.foldlRecOn _ _ (motive := fun u : State => u.stored (excReg k) = s.stored (excReg k)) ?_ ?_)
  · exact hset _ _ _ _ _ hse (hset _ _ _ _ _ hse (hset _ _ _ _ _ hvu (hset _ _ _ _ _ hvu rfl)))
  · intro u hu i hi
    dsimp only
    split
    · exact hu
    · exact hset _ _ _ _ _ (hmx i (List.mem_range.1 hi)) hu

/-- Where the engines have no work that waits they go on without a stop, and park no thread. -/
theorem enginesGo_board {k : Nat} {s : State} (hidle : s.engsIdle (k / 4)) :
    enginesGo (k / 4) s = .ok () (after (enginesGo (k / 4)) s) ∧ (after (enginesGo (k / 4)) s).parked k = s.parked k := by
  obtain ⟨v, hv, hregs⟩ := pump_board 32 hidle
  have hgo : enginesGo (k / 4) s = .ok () (after (engSync (k / 4)) v) := (bind_ok hv).trans (engSync_eq ..)
  rw [after_ok hgo]
  exact ⟨hgo, (parked_engSync k v).trans (parked_congr (stored_of_regs hregs _))⟩

/-! ### Claim, scoreboard and epoch instructions -/

/-- An entry is placed among those that are there. -/
theorem mem_placeEntry {k : Nat} {e x : SbEntry} {l : List SbEntry} (h : x ∈ placeEntry k e l) : x ∈ l ∨ x = e := by
  unfold placeEntry at h
  split at h
  · exact List.mem_or_eq_of_mem_set h
  · simpa using h

/-- Satisfied SBWAITs are performed, and no other entry changes (R237). -/
theorem engsIdle_sbLatch {s : State} {t : Nat} (h : s.engsIdle t) : (s.sbLatch t).engsIdle t := by
  unfold State.sbLatch
  intro e he
  rw [tree_setTree, if_pos rfl] at he
  obtain ⟨x, hx, rfl⟩ := List.mem_map.1 he
  rcases h x hx with hdone | heng
  · exact .inl (by split <;> simp [hdone])
  · exact .inr (by split <;> exact heng)

theorem putPtrs_trees (s : State) (k : Nat) (p : Ptrs) : (s.putPtrs k p).trees = s.trees :=
  List.foldlRecOn _ _ (motive := fun u : State => u.trees = s.trees) rfl fun _ h _ _ => h

/-- An instruction of the scoreboard unit is recorded as an entry of its work; SBWAITs whose condition holds are satisfied (R233). -/
theorem record_board {k : Nat} {w : IWord} {x : Work} (hx : x.eng = 3) (s : State) :
    ∃ e : SbEntry, e.work = x ∧ after (record k w x) s =
      (s.setTree (k / 4) { s.tree (k / 4) with sb := placeEntry k e (s.tree (k / 4)).sb }).sbLatch (k / 4) := by
  refine ⟨⟨k, w, s.reg (thr k 0x1B), (s.thread k).starts, bit (s.flags k) 28, x, x.eng = 3 && x.wait.isNone, 0, false, false⟩,
    rfl, ?_⟩
  simp only [record, after, modify_ok, hx]

/-- A claim, scoreboard or epoch instruction that is recorded leaves the engines without work that waits, and its thread unparked. -/
theorem issued_board {k : Nat} {w : IWord} {u : State} {x : Work} {p : Ptrs} (hx : x.eng = 3) (hp : p.inRange)
    (hidle : u.engsIdle (k / 4)) :
    (u.issued k w ⟨x, p, [], false, none⟩).engsIdle (k / 4) ∧ (u.issued k w ⟨x, p, [], false, none⟩).parked k = u.parked k := by
  have htree : (u.putPtrs k p).tree (k / 4) = u.tree (k / 4) := by
    unfold State.tree
    rw [putPtrs_trees]
  generalize hv : u.putPtrs k p = v at htree
  obtain ⟨e, he, hrecord⟩ := record_board (k := k) (w := w) hx v
  have hissued : u.issued k w ⟨x, p, [], false, none⟩ = after (record k w x) v := by
    rw [← hv]
    rfl
  rw [hissued, hrecord]
  refine ⟨engsIdle_sbLatch fun y hy => ?_, ?_⟩
  · rw [tree_setTree, if_pos rfl] at hy
    rcases mem_placeEntry hy with hy | rfl
    · exact hidle y (htree ▸ hy)
    · exact .inr (he ▸ hx)
  · exact (parked_congr rfl).trans (hv ▸ parked_putPtrs hp u)

/-- A claim, scoreboard or epoch instruction that has done its work at issue completes (R113, R124). -/
theorem board_ends {t : Tid} {w : IWord} {sl : Slots} {legal epochs : Bool} {prep : Nat → IWord → M Prep} {s u : State} {x : Work}
    {p : Ptrs} {c : Instr} (hexec : exec c s = run (boardOp t w sl legal epochs prep) s) (hstart : boardStarts s t w sl legal epochs)
    (hprep : prep t.k w (s.begun t.k) = .ok ⟨x, p, [], false, none⟩ u) (hx : x.eng = 3) (hp : p.inRange) :
    boardEnds c s u t w sl x p := by
  obtain ⟨hready, henc, hroom⟩ := hstart
  intro hparked hidle
  obtain ⟨hidle', hparked'⟩ := issued_board (w := w) hx hp hidle
  obtain ⟨hgo, hparked''⟩ := enginesGo_board hidle'
  have hrun := engine_issues (prep := fun k => prep k w) hready henc hroom hprep rfl hgo (hparked''.trans (hparked'.trans hparked))
  exact hexec.trans hrun

/-! ### Claims and waits -/

/-- The operand of an instruction with one slot is computed and then read. -/
theorem boardReads_bind {β : Type} {t : Tid} {w : IWord} {s u : State} {o : Opnds} {v : Nat} (h : boardReads s t w o v u)
    (f : Opnds → Nat → M β) :
    (do let o ← compute t.k w 0 4 0 0 0; f o (← ctlArg t.k o.a) : M β) (s.begun t.k) = f o v u := by
  obtain ⟨hops, hread⟩ := h
  rw [bind_ok (compute_ok hops), bind_ok hread]

/-- CLMOPEN of a claim in range that meets none (R124, R127). -/
theorem clmOpen_opens {t : Tid} {w : IWord} {s u : State} {o : Opnds} {v : Nat} (hread : boardReads s t w o v u)
    (hrange : (s.begun t.k).claimRange (t.k / 4) (BitVec.ofNat 64 v) = false)
    (hopen : (s.begun t.k).flag (.claim (t.k / 4) (field w.base 18 6)) 32 = false)
    (hclosing : (s.begun t.k).flag (.claim (t.k / 4) (field w.base 18 6)) 33 = false)
    (hapart : ∀ x ∈ (s.begun t.k).openClaims (t.k / 4), (claimFp (BitVec.ofNat 64 v)).meets (claimFp x) = false) :
    clmOpen t.k w (s.begun t.k) = .ok ⟨Work.none 3, o.p, [], false, none⟩
      (u.setReg (.claim (t.k / 4) (field w.base 18 6))
        (BitVec.ofNat 64 v ||| BitVec.ofNat 64 (2 ^ 32 + t.k % 4 * 2 ^ 34))) := by
  have hfree : ¬ (bit ((s.begun t.k).reg (.claim (t.k / 4) (field w.base 18 6))) 32 = true ∨
      bit ((s.begun t.k).reg (.claim (t.k / 4) (field w.base 18 6))) 33 = true) :=
    not_or.2 ⟨Bool.eq_false_iff.1 hopen, Bool.eq_false_iff.1 hclosing⟩
  have hnone : ¬ (((s.begun t.k).openClaims (t.k / 4)).any fun x => (claimFp (BitVec.ofNat 64 v)).meets (claimFp x)) = true := by
    simpa using hapart
  rw [clmOpen, bind_ok (get_ok _)]
  refine (boardReads_bind hread _).trans ?_
  rw [if_neg (Bool.eq_false_iff.1 hrange), if_neg hfree, if_neg hnone, Nat.shiftLeft_eq, Nat.shiftLeft_eq, one_mul]
  rfl

/-- CLMCLOSE of an open claim (R128). -/
theorem clmClose_closes {k : Nat} {w : IWord} {s : State} (hopen : s.flag (.claim (k / 4) (field w.base 18 6)) 32 = true)
    (hclosing : s.flag (.claim (k / 4) (field w.base 18 6)) 33 = false) :
    clmClose k w s = .ok ⟨Work.none 3, s.ptrs k, [], false, none⟩ (s.setFld (.claim (k / 4) (field w.base 18 6)) 32 2 2) := by
  have hgood : ¬ (¬ bit (s.reg (.claim (k / 4) (field w.base 18 6))) 32 = true ∨
      bit (s.reg (.claim (k / 4) (field w.base 18 6))) 33 = true) :=
    not_or.2 ⟨not_not.2 hopen, Bool.eq_false_iff.1 hclosing⟩
  rw [clmClose, bind_ok (get_ok s), if_neg hgood]
  rfl

/-- CLMOPEN, CLMCLOSE and SBWAIT (R124, R127, R128, R237). -/
theorem claimsAndWaits_complete : claimsAndWaitsComplete := by
  refine ⟨?opens, ?closes, ?waits⟩
  case opens =>
    intro t w s u o v hstart hread b c hrange hopen hclosing hapart
    exact board_ends (w := w) rfl hstart (clmOpen_opens hread hrange hopen hclosing hapart) rfl (operands_inRange hread.1)
  case closes =>
    intro t w s hstart b c hopen hclosing
    exact board_ends rfl hstart (clmClose_closes hopen hclosing) rfl (inRange_ptrs _ _)
  case waits =>
    intro t w s u o v hstart hread
    exact board_ends rfl hstart (boardReads_bind hread _) rfl (operands_inRange hread.1)

/-! ### Tags, commits and status words -/

/-- EPTAG (R331). -/
theorem epTagSet_sets {t : Tid} {w : IWord} {s u : State} {o : Opnds} {v : Nat} (hread : boardReads s t w o v u)
    (hrel : bit w.base 19 = true → v ≤ 1) (hmode : (s.begun t.k).epMode ≠ 3) :
    epTagSet t.k w (s.begun t.k) = .ok ⟨Work.none 3, o.p, [], false, none⟩
      (u.setReg (.epTag (t.k / 4) (t.k % 4)) (BitVec.ofNat 64
        ((if bit w.base 19 then (s.begun t.k).epoch + v else v) % 2 ^ 32 + b2n (bit w.base 18) * 2 ^ 32))) := by
  have hfits : ¬ (bit w.base 19 = true ∧ 1 < v) := fun ⟨h, hlt⟩ => Nat.not_lt.2 (hrel h) hlt
  rw [epTagSet, bind_ok (get_ok _)]
  refine (boardReads_bind hread _).trans ?_
  rw [if_neg hfits, if_neg hmode, Nat.shiftLeft_eq]
  rfl

/-- An epoch instruction that presents its accesses has changed nothing, and finds the directory not HALTED (R237, R341). -/
theorem epStart_ok {k : Nat} {s u : State} (h : epStart k s = .ok () u) : u = s ∧ s.epMode ≠ 3 := by
  rw [epStart, bind_ok (get_ok s)] at h
  obtain ⟨_, v, hclear, h⟩ := bind_split h
  have hv : v = s := by
    unfold heartClear at hclear
    rw [bind_ok (get_ok s)] at hclear
    split at hclear <;> cases hclear
    rfl
  split at h
  case isTrue => obtain ⟨_, x, -, h⟩ := bind_split h; cases h
  case isFalse hmode => cases h; exact ⟨hv, hmode⟩

/-- A commit is requested, unless it has been before (R336). -/
theorem requestCommit_eq {s : State} (h : s.epMode ≠ 3) : requestCommit s = .ok () (after requestCommit s) := by
  cases hasked : s.flag .epStatus 36 with
  | false => rw [requestCommit_requests h hasked, after_ok (requestCommit_requests h hasked)]
  | true =>
    have hskip : requestCommit s = .ok () s := by
      rw [requestCommit, bind_ok (get_ok s), if_neg h, if_pos hasked]
      rfl
    rw [hskip, after_ok hskip]

/-- EPCOMMIT at kernel level for the next epoch (R336). -/
theorem epCommit_requests {t : Tid} {w : IWord} {s u x : State} {o : Opnds} (hlevel : bit ((s.begun t.k).flags t.k) 33 = true)
    (hread : boardReads s t w o (((s.begun t.k).epoch + 1) % 2 ^ 32) u) (hstart : epStart t.k u = .ok () x) :
    epCommit t.k w (s.begun t.k) = .ok ⟨Work.none 3, o.p, [], false, none⟩ (after requestCommit x) := by
  obtain ⟨rfl, hmode⟩ := epStart_ok hstart
  rw [epCommit, bind_ok (get_ok _), if_neg (not_not.2 hlevel)]
  refine (boardReads_bind hread _).trans ?_
  rw [bind_ok hstart, if_neg (not_not.2 rfl), bind_ok (requestCommit_eq hmode)]
  rfl

/-- EPTAG, EPCOMMIT and EPSTAT (R331, R336). -/
theorem tagCommitAndStatus_complete : tagCommitAndStatusComplete := by
  refine ⟨?tag, ?commit, ?status⟩
  case tag =>
    intro t w s u o v hstart hread hrel hmode
    exact board_ends rfl hstart (epTagSet_sets hread hrel hmode) rfl (operands_inRange hread.1)
  case commit =>
    intro t w s u x o hstart hlevel hread hgo
    exact board_ends rfl hstart (epCommit_requests hlevel hread hgo) rfl (operands_inRange hread.1)
  case status =>
    intro t w s u v x y z o va i far l hstart hops hgo hpage hentry hplace e hfree hstore
    refine board_ends (prep := epStat) rfl hstart ?_ rfl (operands_inRange hops)
    rw [epStat, bind_ok (compute_ok hops), bind_ok hgo, bind_ok hpage]
    dsimp only
    rw [bind_ok hentry, bind_ok hplace, bind_ok (get_ok y),
      if_neg (Bool.eq_false_iff.1 hfree), bind_ok (get_ok y), bind_ok hstore]
    rfl

/-! ### Page states -/

theorem operands_of_compute {k zd za zb i2d i2a : Nat} {w : IWord} {o : Opnds} {s u : State}
    (h : compute k w zd za zb i2d i2a s = .ok o u) : operands w (s.ptrs k) zd za zb i2d i2a 0 = .ok o := by
  rw [compute, bind_ok (get_ok s)] at h
  cases hops : operands w (s.ptrs k) zd za zb i2d i2a 0 with
  | error e => rw [hops] at h; cases h
  | ok x => rw [hops] at h; cases h; rfl

/-- The pointers of the pages that an instruction names are in range. -/
theorem epRange_inRange {k : Nat} {w : IWord} {ok : Nat → Bool} {s u : State} {l : List Nat} {p : Ptrs}
    (h : epRange k w ok s = .ok (l, p) u) : p.inRange := by
  obtain ⟨o, s1, hops, h⟩ := bind_split h
  obtain ⟨n, s2, -, h⟩ := bind_split h
  have hp : p = o.p := by
    split at h
    case isTrue => cases h
    case isFalse =>
      obtain ⟨_, s3, -, h⟩ := bind_split h
      obtain ⟨⟨va, far⟩, s4, -, h⟩ := bind_split h
      obtain ⟨pages, s5, -, h⟩ := bind_split h
      cases h
      rfl
  rw [hp]
  exact operands_inRange (operands_of_compute hops)

/-- EPDECL, SEAL and EPDISCARD (R332, R333, R334). -/
theorem pageInstructions_complete : pageInstructionsComplete := by
  intro e he t w s u v l p hstart hrange hgood hpages
  have hcount : epCount v = .ok () (after epCount v) := rfl
  have hp := epRange_inRange hrange
  simp only [List.mem_cons, List.not_mem_nil, or_false] at he
  rcases he with rfl | rfl | rfl
  · refine board_ends (prep := epDecl) rfl hstart ?_ rfl hp
    have hopen : ¬ u.setDone (field w.base 18 6) = true := by simpa using hgood
    rw [epDecl, bind_ok hrange]
    dsimp only
    rw [bind_ok (get_ok u), if_neg hopen, bind_ok hpages, bind_ok hcount]
    rfl
  · refine board_ends (prep := epSeal) rfl hstart ?_ rfl hp
    rw [epSeal, bind_ok hrange]
    exact (bind_ok hpages).trans (bind_ok hcount)
  · refine board_ends (prep := epDiscard) rfl hstart ?_ rfl hp
    rw [epDiscard, bind_ok hrange]
    exact (bind_ok hpages).trans (bind_ok hcount)

/-- Settles O30: each instruction is recorded once it has done its work at issue, which is what its clause says. -/
theorem boardInstructionsCompleteWithTheirWork : Obligations.BoardInstructionsCompleteWithTheirWork :=
  ⟨boardInstructions_complete, claimsAndWaits_complete, tagCommitAndStatus_complete, pageInstructions_complete⟩

end Sys2Proof.Machine
end

section
/-! SUPPORT and RESULT. The memory tiers (MemoryTierCommandsComplete): refresh, patrol scrubs, retrains and write-backs; the links of
the far-bank ports; cache maintenance and fills. -/

namespace Sys2Proof.Machine

/-! ### The near bank -/

/-- The state in which a channel's symbol errors, row tag errors and directory errors have come about (R265, R341; log entries 130
and 136). -/
def State.nearStruck (s : State) (c : Nat) (tags : List TagErr) (errs : List NearErr) (dir : List (Fin 24576)) : State :=
  let u := tags.foldl (fun s e => s.strikeRow c e) (errs.foldl (fun s e => s.strikeNear c e) s)
  { u with epFlaws := dir.foldl (fun m i => awrite false m i.val true) u.epFlaws }

/-- What a channel does as it scrubs a row from v: it reads each of the 15 lines, and the row counts (R265). -/
def scrubNextRow (c : Nat) (v : State) : M Unit := do
  forAll (List.range 15) fun k => do
    let _ ← nearLine (v.nearAddr c (aread 0 v.nbScrubbed c % 2 ^ 21) k / 128)
    skip
  modify fun s => s.scrubbedRow c

/-- A patrol scrub that brings no repetitions and no fatal error scrubs the next row once its errors have come about (R265). -/
theorem patrolNb_scrubs {c : Nat} {tags : List TagErr} {errs : List NearErr} {dir : List (Fin 24576)} {s : State}
    (hon : (s.nearStruck c tags errs dir).flag (.nbScrub (c / 6)) 0 = true) :
    patrolNb c tags ⟨0, errs, dir, none⟩ s = scrubNextRow c (s.nearStruck c tags errs dir) (s.nearStruck c tags errs dir) := by
  -- The two cases are whether the channel uses the data CRC; in both there is no failure of it to count.
  simp only [patrolNb, bind_eq, modify_ok, get_ok, List.range_zero, forAll, Option.isSome_none, Bool.false_eq_true, if_false]
  split <;> simp only [skip, bind_eq, pure_ok, modify_ok, get_ok] <;> exact congrFun (if_pos hon) _

/-- A channel whose retrain succeeds counts and reports the four repetitions that failed, and then the retrain (R267). -/
theorem retrainNb_reports {c : Nat} {s : State} (h : s.flag (nbHealthOf c) 6 = false) :
    retrainNb c true s = (do
      forAll (List.range 4) fun _ => do
        bump (nbErrOf c) 32 16
        reportIn (some (.channel c)) 0x05 1 4 (unitWord 5 c) 0 (nbErrOf c)
      bump (nbErrOf c) 48 8
      reportIn (some (.channel c)) 0x05 2 5 (unitWord 5 c) 0 (nbErrOf c) : M Unit) s := by
  simp only [retrainNb, bind_eq, get_ok, h, Bool.false_eq_true, not_false_eq_true, if_true]

/-- A channel in erasure mode does not retrain (R426). -/
theorem retrainNb_erasing {c : Nat} {ok : Bool} {s : State} (h : s.flag (nbHealthOf c) 6 = true) :
    retrainNb c ok s = .ok () s := by
  simp only [retrainNb, bind_eq, get_ok, h, not_true_eq_false, if_false]
  rfl

/-! ### The heartwoods -/

/-- A patrol scrub that is on scrubs the next row of every bank, once the heartwood's errors have come about (R123). -/
theorem patrolHw_scrubs {t : Nat} {errs : List HeartErr} {s u v : State} (hstrike : forAll errs (strikeHeart t) s = .ok () u)
    (hon : u.flag (.hwCfg t) 2 = true)
    (hscrub : forAll (List.range 32) (fun b => scrubBank t b (aread 0 u.hwScrubbed t % 1024)) u = .ok () v) :
    patrolHw t errs s =
      .ok () { v with hwScrubbed := awrite 0 v.hwScrubbed t ((aread 0 u.hwScrubbed t % 1024 + 1) % 1024) } := by
  simp only [patrolHw, bind_eq, hstrike, get_ok, hon, if_true, hscrub]
  rfl

/-- A line that waits to be written back leaves its tree's list: one found uncorrectable takes a spare, poisoned; one whose error
recurs takes a spare as it stands; any other is newly encoded (R121, R427). -/
theorem writebackHw_waiting {t bank row : Nat} {w : WriteBack} {e : Nat × Nat × Bool} {s : State}
    (h : ((s.tree t).writebacks.find? fun x => x.1 = bank ∧ x.2.1 = row) = some e) :
    let l := heartOf t / 128 + row * 32 + bank
    writebackHw t bank row w s =
      (if (s.lineFlaw l).bad = true then spareLine t bank row true e.2.2 (w != .copyFails)
        else if w ≠ .clean then spareLine t bank row (s.linePoison l) e.2.2 (w == .again)
        else modify fun u => u.setLinePoison l (u.linePoison l))
      (s.setTree t { s.tree t with writebacks := (s.tree t).writebacks.erase e }) := by
  simp only [writebackHw, bind_eq, get_ok, h]
  rfl

/-- The events of the near bank and the heartwoods (R121, R123, R264, R265, R267, R426, R427). -/
theorem memoryEvents_complete : memoryEventsComplete := by
  refine ⟨?refresh, ?nearScrub, ?retrain, ?heartScrub, ?writeback⟩
  case refresh => exact fun c s hl => run_eq_ends hl _
  case nearScrub =>
    intro c tags errs dir s hl u v hon
    exact run_ends_congr hl (patrolNb_scrubs hon)
  case retrain =>
    exact fun c s hl => ⟨fun h => run_ends_congr hl (retrainNb_reports h),
      fun ok h => run_ends_congr (n := skip) hl (retrainNb_erasing h)⟩
  case heartScrub =>
    exact fun t errs s u v hl hstrike hon hscrub => run_ends_congr (n := skip) hl (patrolHw_scrubs hstrike hon hscrub)
  case writeback =>
    intro t b row e s hl hfind u l
    refine ⟨fun hgood => ?clean, fun w hgood hw => ?recurs, fun w hbad => ?bad⟩
    case clean =>
      refine run_ends_congr (n := skip) hl ((writebackHw_waiting hfind).trans ?_)
      rw [if_neg (by simpa using hgood), if_neg (by simp)]
      rfl
    case recurs =>
      refine run_ends_congr hl ((writebackHw_waiting hfind).trans ?_)
      rw [if_neg (by simpa using hgood), if_pos hw]
    case bad =>
      refine run_ends_congr hl ((writebackHw_waiting hfind).trans ?_)
      rw [if_pos hbad]

/-! ### The far-bank ports -/

/-- Two actions that end alike end alike with what follows. -/
theorem then_congr {m n l : M Unit} {s t : State} (h : m s = n t) : (do m; l) s = (do n; l) t := by
  simp only [bind_eq, h]

/-- A link that comes up shows its state, its devices and their capacity, and then what waited is served (R270). -/
theorem upFb_serves {p : Nat} {caps : List Nat} {s : State} (h : s.farWord p % 4 ≠ 0) :
    let l := caps.take (if (s.farWord p).testBit 2 then 4 else 1)
    upFb p caps s = (do servePosted p; cmoGo : M Unit) (((s.setFld (.fbPort p) 32 3 2).setFld (.fbPort p) 35 3 l.length).setFld
      (.fbPort p) 38 15 ((l.map fun c => c / 2 ^ 28).sum)) := by
  simp only [upFb, bind_eq, get_ok, if_pos h, wrf, modify_ok]

/-- A link that is lost counts, and an incident tells (R272). -/
theorem lossFb_reports {p : Nat} {s : State} (h : s.portUp p = true) :
    let u := (s.setFld (.fbPort p) 32 3 1).satFld (.fbErr p) 32 16
    lossFb p s = incident 0x06 2 3 (unitWord 6 p) 0 (u.reg (.fbErr p)) u := by
  simp only [lossFb, bind_eq, get_ok, h, if_true, wrf, bump, modify_ok]

/-- The k-th request that waits for a port that is not up is ended where it waits for the port itself (R272). -/
theorem timeoutFb_ends {p k a : Nat} {s : State} (hwait : (s.waitingOn p)[k]? = some a) (hdown : s.portUp p = false) :
    timeoutFb p k s = (do portEnd p a; cmoGo : M Unit) { s with dead := awrite false s.dead (a / 128) true } := by
  have hfirst : ∀ m : List Nat, (s.waitingOn p ++ m)[k]? = some a := by
    obtain ⟨hk, -⟩ := List.getElem?_eq_some_iff.1 hwait
    exact fun m => (List.getElem?_append_left hk).trans hwait
  simp only [timeoutFb, bind_eq, get_ok, hdown, Bool.false_eq_true, if_false, hfirst]
  rfl

/-- The events of the far-bank ports (R270, R272). -/
theorem portEvents_complete : portEventsComplete := by
  refine ⟨?up, ?loss, ?viral, ?timeout⟩
  case up =>
    intro p caps s hl h l
    exact run_ends_congr hl ((then_congr (upFb_serves h)).trans (congrFun (bind_assoc _ _ _) _))
  case loss =>
    intro p s hl h u
    exact run_ends_congr hl (lossFb_reports h)
  case viral =>
    intro p s hl u
    exact run_eq_ends hl (viralFb p)
  case timeout =>
    intro p k a s hl hwait hdown
    exact run_ends_congr hl ((then_congr (timeoutFb_ends hwait hdown)).trans (congrFun (bind_assoc _ _ _) _))

/-! ### Cache maintenance and fills -/

/-- A value that fits a register not shared by the worlds is what its write brings. -/
theorem brings_eq {g : Reg} (hb : g.bothWorlds = false) {v : Nat} (hv : v < 2 ^ g.width) (s : State) (r : Req) :
    s.brings r g v = BitVec.ofNat 64 v := by
  have hw : 8 * (g.width / 8) = g.width := by rcases width_cases g with h | h <;> rw [h]
  have hle : g.width ≤ 64 := by rcases width_cases g with h | h <;> omega
  have h64 : v < 2 ^ 64 := hv.trans_le (Nat.pow_le_pow_right (by decide) hle)
  simp only [State.brings, worldValue, hb, Bool.false_eq_true, false_and, if_false, hw, BitVec.toNat_ofNat,
    Nat.mod_eq_of_lt h64, Nat.mod_eq_of_lt hv]

/-- The value of CMO_CMD that asks for an operation brings GO 1, its OP and its scope (R279). -/
theorem cmoCmd_fields {op : Nat} (hop : op < 4) (scope : Bool) (r : Req) (g : Nat) (s : State) :
    let v := s.brings r (.cmoCmd g) (8 + op + 4 * b2n scope)
    bit v 3 = true ∧ field v 0 2 = op ∧ bit v 2 = scope := by
  have hsmall : 8 + op + 4 * b2n scope < 2 ^ (Reg.cmoCmd g).width := by
    have hscope : b2n scope ≤ 1 := by cases scope <;> decide
    have hwidth : (Reg.cmoCmd g).width = 32 := rfl
    rw [hwidth]
    omega
  rw [brings_eq rfl hsmall]
  interval_cases op <;> cases scope <;> decide

/-- An operation that starts with none in progress is in progress on what it selects, and goes on (R279). -/
theorem startCmo_starts {g op : Nat} {scope : Bool} {s : State} (hidle : s.flag (.cmoStatus g) 0 = false)
    (hlen : op < 3 → s.fld (.cmoLen g) 0 44 ≠ 0) :
    let a := s.fld (.cmoAddr g) 7 45 * 128
    let o : Cmo := if op = 3 then ⟨3, scope, 0, 2 ^ 52, 0⟩ else ⟨op + 1, scope, a, a + s.fld (.cmoLen g) 0 44, 0⟩
    let v := s.setFld (.cmoStatus g) 0 1 1
    startCmo g op scope s = cmoGo { v with cmos := aput v.cmos g o } := by
  have hsome : ¬ (op < 3 ∧ s.fld (.cmoLen g) 0 44 = 0) := fun ⟨h, h0⟩ => hlen h h0
  simp only [startCmo, bind_eq, get_ok, hidle, Bool.false_eq_true, if_false, if_neg hsome, wrf, modify_ok]

/-- A maintenance operation that has processed every sector ends (R279, R280). -/
theorem endCmo_ends {g : Nat} {s u : State} {o : Cmo} (hgo : cmoGo s = .ok () u) (ho : aget u.cmos g = some o)
    (hdone : u.cmoNext g o = none) :
    endCmo g s = .ok () (({ u with cmos := adel u.cmos g } : State).setFld (.cmoStatus g) 0 1 0) := by
  simp only [endCmo, bind_eq, hgo, get_ok, ho, hdone, Option.isNone_none, if_true]
  rfl

/-- Each row of the table is the command of its OP. -/
theorem exec_cmoRow {e : (Req → Fin 8 → Bool → Instr) × Nat} (he : e ∈ [(.clean, 0), (.inval, 1), (.clinv, 2), (.clinvAll, 3)])
    (r : Req) (g : Fin 8) (scope : Bool) (s : State) :
    exec (e.1 r g scope) s = run (writeReg r (.cmoCmd g) (8 + e.2 + 4 * b2n scope)) s ∧ e.2 < 4 := by
  simp only [List.mem_cons, List.not_mem_nil, or_false] at he
  rcases he with rfl | rfl | rfl | rfl <;> exact ⟨rfl, by decide⟩

/-- The commands of the grove's cache (R276, R279, R280). -/
theorem cacheCommands_complete : cacheCommandsComplete := by
  refine ⟨?start, ?done, ?fill⟩
  case start =>
    intro e he r g scope s h u a n o v hidle hlen
    obtain ⟨hrun, hop⟩ := exec_cmoRow he r g scope s
    obtain ⟨hgo, hfield, hscope⟩ := cmoCmd_fields hop scope r g s
    have heffect : withRegs (writeEffect r (.cmoCmd g) (s.reg (.cmoCmd g)) (s.brings r (.cmoCmd g) (8 + e.2 + 4 * b2n scope))) u =
        withRegs cmoGo { v with cmos := aput v.cmos g o } := by
      refine withRegs_congr ?_
      simp only [writeEffect, hgo, hfield, hscope, whenM, if_true]
      exact startCmo_starts hidle hlen
    rw [hrun, writeReg_ends rfl h]
    simp only [after, heffect, u]
  case done => exact fun g s u o hl hgo ho hdone => run_ends_congr (n := skip) hl (endCmo_ends hgo ho hdone)
  case fill => exact fun g fill s hl => run_eq_ends hl _

/-- Settles O38: each command does what its clause says from the state in which its condition is met. -/
theorem memoryTierCommandsComplete : Obligations.MemoryTierCommandsComplete :=
  ⟨memoryEvents_complete, portEvents_complete, cacheCommands_complete⟩

end Sys2Proof.Machine
end

section
/-! SUPPORT and RESULT. Jobs and re-rigs (JobsAndRerigsComplete): what JOB_CTRL asks for, the end of a job and its scrub, and the
fetch and the end of a re-rig. -/

namespace Sys2Proof.Machine

/-- A register command whose effect, in the stored state, ends as n does from t: the writes follow that it causes. -/
theorem writeReg_ends_congr {r : Req} {g : Reg} {v : Nat} {s t : State} {n : M Unit} (hp : g.plain = true) (h : s.takes r g v)
    (he : writeEffect r g (s.reg g) (s.brings r g v) (s.wrote r g v) = n t) :
    run (writeReg r g v) s = s.ends (after (withRegs n) t) := by
  rw [writeReg_ends hp h]
  simp only [after, withRegs_congr he]

/-! ### JOB_CTRL -/

/-- A write of JOB_CTRL does what its two bits ask for (R248). -/
theorem writeEffect_jobCtrl (r : Req) (old : W64) (v : Nat) (s : State) :
    writeEffect r .jobCtrl old (s.brings r .jobCtrl v) = (do whenM (v.testBit 0) startJob; whenM (v.testBit 1) endJob) := by
  simp only [writeEffect, bit_brings (g := .jobCtrl) rfl (by decide : 0 < 32), bit_brings (g := .jobCtrl) rfl (by decide : 1 < 32)]

/-- START in READY, with no scrub requested and no token whose secrets are being cleared, is accepted (R248, R344, R348, R459). -/
theorem startJob_accepted {s : State} (hready : s.pstate = 1) (hscrub : s.flag .structStatus 17 = false)
    (hclear : s.sec.clearing = none) :
    let u := ((s.setFld .structStatus 4 4 3).setFld .jobStatus 0 8 0).setFld .dbgstat 0 2 0
    startJob s = startJournal { u with tide := { u.tide with known := false, setv := none } } := by
  have hloaded : ¬ (s.pstate = 0 ∨ s.pstate = 2) := by simp [hready]
  have hfree : s.jobRuns = false := by simp [State.jobRuns, hready]
  simp only [startJob, bind_eq, get_ok, if_neg hloaded, hfree, hscrub, hclear, wrf, modify_ok, Option.isSome_none,
    Bool.false_eq_true, if_false]

/-- JOB_CTRL.START (R248, R338, R344, R348, R459). -/
theorem jobs_start : jobsStart := by
  intro r s h hready hscrub hclear u
  refine writeReg_ends_congr (g := .jobCtrl) rfl h ?_
  rw [writeEffect_jobCtrl]
  exact (congrFun (bind_skip startJob) _).trans (startJob_accepted hready hscrub hclear)

/-- END of a job whose end is not yet requested (R248). -/
theorem endJob_requests {s : State} (hjob : s.jobRuns = true) (hnew : s.flag .jobStatus 8 = false) :
    endJob s = .ok () (s.setFld .jobStatus 8 1 1) := by
  simp only [endJob, bind_eq, get_ok, hjob, hnew, Bool.false_eq_true, not_false_eq_true, and_self, if_true, wrf, modify_ok]

/-- JOB_CTRL.END (R248). -/
theorem jobs_end : jobsEnd := by
  intro r s h hjob hnew
  refine writeReg_endsBus (g := .jobCtrl) rfl h ?_
  rw [writeEffect_jobCtrl]
  exact endJob_requests hjob hnew

/-! ### The end of a job -/

/-- With no commit requested there is none to cancel (R249). -/
theorem dropCommit_none {s : State} (h : s.flag .epStatus 36 = false) : dropCommit s = .ok () s := by
  simp only [dropCommit, bind_eq, get_ok, h, Bool.false_eq_true, false_and, if_false]
  rfl

/-- With no commit requested none goes on (R336). -/
theorem commitGo_none {s : State} (h : s.flag .epStatus 36 = false) : commitGo s = .ok () s := by
  simp only [commitGo, bind_eq, get_ok, h, whenM, skip, pure_ok, Bool.false_eq_true, if_false, not_false_eq_true, if_true]

/-- The scrub of a drained job starts once no commit is requested and no access of the job waits (R249). -/
theorem drainedScrub_starts {s : State} (hdrained : s.job.drained = true) (hreset : s.pcie.inReset = false)
    (hscrub : s.flag .structStatus 17 = false) (hcommit : s.flag .epStatus 36 = false) (hwaits : s.jobWaits = false) :
    drainedScrub s = scrubStarts s := by
  simp only [drainedScrub, bind_eq, get_ok, hdrained, hreset, hscrub, hcommit, hwaits]
  rfl

/-- The end of a job with no work item left, no commit requested and no access that waits (R249). -/
theorem drainJob_scrubs {s u v : State} (hjob : s.jobRuns = true) (hend : s.flag .jobStatus 8 = true)
    (hitems : ∀ g < 8, s.fld (.dispStatus g) 0 32 = 0) (hnew : s.job.drained = false) (hscrub : s.flag .structStatus 17 = false)
    (hdrop : dropJobRuns s = .ok () u) (hstop : stopJobQueues u = .ok () v) (hcommit : v.flag .epStatus 36 = false)
    (hscrub' : v.flag .structStatus 17 = false) (hreset : v.pcie.inReset = false) (hwaits : v.jobWaits = false) :
    drainJob s = scrubStarts { v with job := { v.job with drained := true } } := by
  have hnone : ((List.range 8).any fun g => s.fld (.dispStatus g) 0 32 != 0) = false := by simpa using hitems
  have hgo : commitGo { v with job := { v.job with drained := true } } = .ok () _ := commitGo_none hcommit
  simp only [drainJob, bind_eq, get_ok, hjob, hend, hnone, hnew, hscrub, Bool.false_eq_true, not_false_eq_true, and_self, if_true,
    hdrop, hstop, dropCommit_none hcommit, modify_ok, hgo]
  exact drainedScrub_starts rfl hreset hscrub' hcommit hwaits

/-- The scrub of a drained job ends, no commit being in progress and no host reset waiting (R460). -/
theorem endScrub_ends {us : Nat} {s u v : State} (hreset : s.pcie.inReset = false) (hjob : s.job = ⟨true, false⟩)
    (hactive : s.flag .scrubStatus 0 = true) (hstep : s.commit.step = 0) (hall : scrubAll (s.flag .scrubCtrl 0) s = .ok () u)
    (hends : scrubEnds us u = .ok () v) : endScrub us s = .ok () v := by
  have hscrub : scrubJob us s = .ok () v := by
    simp only [scrubJob, bind_eq, get_ok, hjob, hactive, hstep, Bool.false_eq_true, not_false_eq_true, and_self, if_true, hall, hends]
  simp only [endScrub, bind_eq, get_ok, hreset, Bool.false_eq_true, false_and, if_false, hscrub, Bool.false_and, whenM]
  rfl

/-- The far-bank part of a scrub ends (R391, R461). -/
theorem scrubFar_ends {us : Nat} {s : State} (hfar : s.job.far = true) (hactive : s.flag .scrubStatus 0 = true) :
    scrubFar us s = scrubEnds us (s.zeroRanges s.farRanges) := by
  simp only [scrubFar, bind_eq, get_ok, hfar, hactive, and_self, if_true, modify_ok]

/-- The end of a job and its scrub (R249, R391, R460, R461). -/
theorem jobEnd_complete : jobEndComplete := by
  refine ⟨?drain, ?scrub, ?far⟩
  case drain =>
    intro s u v hl hjob hend hitems hnew hscrub hdrop hstop hcommit hscrub' hreset hwaits
    exact run_ends_congr hl (drainJob_scrubs hjob hend hitems hnew hscrub hdrop hstop hcommit hscrub' hreset hwaits)
  case scrub =>
    intro us s u v hl hreset hjob hactive hstep hall hends _
    exact run_ends_congr (n := skip) hl (endScrub_ends hreset hjob hactive hstep hall hends)
  case far => exact fun us s hl hfar hactive => run_ends_congr hl (scrubFar_ends hfar hactive)

/-! ### Re-rigs -/

/-- Bytes in the near bank or the host window are fetched (R39). -/
theorem bootFetch_fetches {a n : Nat} {x : List Byte × Bool} {s u : State} (hin : inFetch true a n = true)
    (hread : readPhys ⟨0x180, true⟩ a n s = .ok (.ok x) u) : bootFetch true a n s = .ok x u := by
  simp only [bootFetch, hin, if_true, bind_eq, hread, pure_ok]

/-- Bytes elsewhere cannot be used, and an address that the map does not hold is reported (R14). -/
theorem bootFetch_elsewhere {a n : Nat} {c : Option (Nat × Nat)} {s u : State} (hout : inFetch true a n = false)
    (hcheck : checkAcc ⟨0x180, true⟩ .rd a n s = .ok c u) : bootFetch true a n s = .ok ([], true) u := by
  simp only [bootFetch, hout, Bool.false_eq_true, if_false, bind_eq, hcheck, pure_ok]

/-- A re-rig starts in READY with its delta fetched, which is no good unless it is aligned (R39, R40; log entry 120). -/
theorem rerigStart_fetches {s v : State} {b : List Byte} {p : Bool} (hready : s.pstate = 1)
    (hfetch : bootFetch true (s.fld .rerigAddr 0 52) (s.fld .rerigLen 0 22) (s.setFld .structStatus 4 4 2) = .ok (b, p) v) :
    rerigStart s = .ok () { v with rerig := some (b, p || s.fld .rerigAddr 0 52 % 8 != 0) } := by
  simp only [rerigStart, bind_eq, get_ok, if_pos hready, wrf, modify_ok, hfetch]

/-- RERIG_CMD.GO whose delta is fetched ends with the re-rig started (R39, R40). -/
theorem rerigCmdGo_ends {r : Req} {s v : State} {b : List Byte} {p : Bool} (h : s.takes r .rerigCmd 1)
    (hready : (s.wrote r .rerigCmd 1).pstate = 1)
    (hfetch : bootFetch true ((s.wrote r .rerigCmd 1).fld .rerigAddr 0 52) ((s.wrote r .rerigCmd 1).fld .rerigLen 0 22)
      ((s.wrote r .rerigCmd 1).setFld .structStatus 4 4 2) = .ok (b, p) v) :
    exec (.rerigCmdGo r) s =
      s.endsBus { v with rerig := some (b, p || (s.wrote r .rerigCmd 1).fld .rerigAddr 0 52 % 8 != 0) } := by
  refine writeReg_endsBus (g := .rerigCmd) rfl h ?_
  simp only [writeEffect, bit_brings (g := .rerigCmd) rfl (by decide : 0 < 32), whenM]
  exact rerigStart_fetches hready hfetch

/-- With no matrix instruction under way and no host reset waiting, a re-rig that has ended leaves the schedule of self-tests to be
noted (R39, R166, R442). -/
theorem rerigIsDone_ends {us : Nat} {failed : List UnitRef} {s u : State}
    (hmatrix : ∀ e ∈ s.trees, ∀ y ∈ e.2.sb, y.work.eng < 4) (hend : rerigEnd us failed s = .ok () u)
    (hreset : u.pcie.inReset = false) :
    rerigIsDone us failed s = .ok () (u.setFld .bistStat 16 14 u.schedule.length) := by
  have hnone : ¬ (s.trees.any fun (e : Nat × TreeSt) => e.2.sb.any fun x => 4 ≤ x.work.eng) = true := by simpa using hmatrix
  have hrerig : endRerig us failed s = .ok () u := by
    simp only [endRerig, bind_eq, hend, get_ok, hreset, Bool.false_eq_true, false_and, if_false]
    rfl
  simp only [rerigIsDone, bind_eq, get_ok, if_neg hnone, hrerig]
  rfl

/-- RERIG_CMD.GO and RERIG_DONE (R39, R40, R166). -/
theorem rerigs_complete : rerigsComplete := by
  refine ⟨?go, ?done⟩
  case go =>
    intro r s h hready u a n
    exact ⟨fun b p v hin hread => rerigCmdGo_ends h hready (bootFetch_fetches hin hread),
      fun c v hout hcheck => rerigCmdGo_ends h hready (bootFetch_elsewhere hout hcheck)⟩
  case done =>
    intro us failed s u x hl hmatrix _ _ hend hreset
    exact run_ends_congr (n := skip) hl (rerigIsDone_ends hmatrix hend hreset)

/-- Settles O34: START, END and GO are register writes with their effect; the end of a job, its scrub and the end of a re-rig are the
actions of their commands, in the state in which nothing holds them up. -/
theorem jobsAndRerigsComplete : Obligations.JobsAndRerigsComplete := ⟨jobs_start, jobs_end, jobEnd_complete, rerigs_complete⟩

end Sys2Proof.Machine
end

section
/-! SUPPORT and RESULT. Doorbells and the reports of queues (DoorbellsAndQueueReportsComplete): a bell that goes forward, the
EVENTS_LOST event, and a queue that stops for its SEQ. -/

namespace Sys2Proof.Machine

/-! ### Doorbells -/

/-- A doorbell write of 8 bytes that is accepted rings the bell, and then the register writes follow that this causes (R245). -/
theorem bellWrite_rings {r : Req} {q : Fin 8192} {v : W64} {s : State} (h : s.takes r (.doorbell q) v.toNat) :
    run (do let _ ← regBusWrite r (Reg.doorbell q).addr 8 v) s = s.ends (after (withRegs (ringBell r q v)) s) := by
  have hwrite : (do let _ ← regBusWrite r (Reg.doorbell q).addr 8 v : M Unit) = writeReg r (.doorbell q) v.toNat := by
    have hwidth : (Reg.doorbell q).width = 64 := rfl
    rw [writeReg, hwidth, BitVec.ofNat_toNat, BitVec.setWidth_eq]
    rfl
  have hput : putReg r (.doorbell q) v s = ringBell r q v s := rfl
  rw [hwrite, writeReg_puts h, brings_all rfl rfl]
  simp only [after, withRegs_congr hput]

/-- A bell of a queue other than an event queue that goes forward, within the ring, sets TAIL (R246). -/
theorem ringBell_setsTail {r : Req} {q : Nat} {v : W64} {s : State} (hq : q < 0x1C00) (hv : v.toNat < 2 ^ 32)
    (htaken : s.bellRefused r.world q = false) (hforward : 0 < (v.toNat + 2 ^ 32 - s.qTail q) % 2 ^ 32)
    (hhalf : (v.toNat + 2 ^ 32 - s.qTail q) % 2 ^ 32 < 2 ^ 31)
    (hwithin : (v.toNat + 2 ^ 32 - s.qHead q) % 2 ^ 32 ≤ 2 ^ field (s.qctx q) 52 4) :
    ringBell r q v s = .ok () (s.setFld (.qctxPtr q) 32 32 v.toNat) := by
  have hgood : ¬ (2 ^ 32 ≤ v.toNat ∨ s.bellRefused r.world q = true) :=
    not_or.2 ⟨Nat.not_le.2 hv, Bool.eq_false_iff.1 htaken⟩
  simp only [ringBell, bind_eq, get_ok, if_neg hgood, if_neg (Nat.not_le.2 hq), if_neg hforward.ne', if_neg (Nat.not_le.2 hhalf),
    decide_eq_true_eq, if_neg (Nat.not_lt.2 hwithin)]
  rfl

/-- A bell of an event queue that goes forward, up to TAIL at most, sets HEAD, and the events held are written (R244, R246). -/
theorem ringBell_setsHead {r : Req} {q : Nat} {v : W64} {s : State} (hq : 0x1C00 ≤ q) (hv : v.toNat < 2 ^ 32)
    (htaken : s.bellRefused r.world q = false) (hforward : 0 < (v.toNat + 2 ^ 32 - s.qHead q) % 2 ^ 32)
    (hhalf : (v.toNat + 2 ^ 32 - s.qHead q) % 2 ^ 32 < 2 ^ 31)
    (hwithin : (v.toNat + 2 ^ 32 - s.qHead q) % 2 ^ 32 ≤ (s.qTail q + 2 ^ 32 - s.qHead q) % 2 ^ 32) :
    ringBell r q v s = (do setHead q v.toNat; writeHeld q 32 : M Unit) s := by
  have hgood : ¬ (2 ^ 32 ≤ v.toNat ∨ s.bellRefused r.world q = true) :=
    not_or.2 ⟨Nat.not_le.2 hv, Bool.eq_false_iff.1 htaken⟩
  simp only [ringBell, bind_eq, get_ok, if_neg hgood, if_pos hq, if_neg hforward.ne', if_neg (Nat.not_le.2 hhalf),
    decide_eq_true_eq, if_neg (Nat.not_lt.2 hwithin)]

/-- DOORBELL_TAIL and DOORBELL_HEAD (R244, R246, R247). -/
theorem doorbells_complete : doorbellsComplete := by
  refine ⟨?tail, ?head⟩
  case tail =>
    intro r q v s h hq hv htaken d hforward hhalf hwithin
    have hring := ringBell_setsTail hq hv htaken hforward hhalf hwithin
    refine (bellWrite_rings h).trans ?_
    rw [withRegs, after_bind_ok hring, State.endsBus]
  case head =>
    intro r q v s h hq hv htaken d hforward hhalf hwithin
    have hring := ringBell_setsHead hq hv htaken hforward hhalf hwithin
    refine (bellWrite_rings h).trans ?_
    simp only [after, withRegs_congr hring]

/-! ### What a queue reports -/

theorem writeHeld_none {q : Nat} {s : State} (h : aread [] s.heldEvents q = []) (n : Nat) : writeHeld q n s = .ok () s := by
  cases n with
  | zero => rfl
  | succ n =>
    simp only [writeHeld, bind_eq, get_ok, h]
    rfl

/-- The EVENTS_LOST event of a queue with room, no event held and some lost (R244). -/
theorem writeLost_writes {q : Nat} {s : State} (hheld : aread [] s.heldEvents q = []) (hstate : s.qState q ≠ 0)
    (hroom : 0 < s.qRoom q) (hlost : s.fld (.qctxStat q) 52 12 ≠ 0) :
    let y := writeEvent s (q - 0x1C00) (lostEvent s q)
    writeLost q s = raise y.2 y.1 := by
  have hgo : (aread [] s.heldEvents q).isEmpty = true ∧ s.qState q ≠ 0 ∧ 0 < s.qRoom q ∧ s.fld (.qctxStat q) 52 12 ≠ 0 :=
    ⟨by rw [hheld]; rfl, hstate, hroom, hlost⟩
  simp only [writeLost, bind_eq, writeHeld_none hheld, get_ok, if_pos hgo]
  rfl

/-- The entry at HEAD of a running queue does not hold its SEQ, or is poisoned (R241; log entry 81). -/
theorem seqMismatch_found {q : Nat} {s u : State} {bs : List Byte} {p : Bool} (hq : q < 0x1C00) (hrun : s.qState q = 1)
    (hsome : s.qHead q ≠ s.qTail q) (hread : readHead q s = .ok (.ok (some (bs, p))) u)
    (hseq : p = true ∨ leAt bs 0 2 ≠ s.qHead q % 2 ^ 16) : seqMismatch q s = .ok true u := by
  have hlooks : ¬ (s.qState q ≠ 1 ∨ s.qHead q = s.qTail q ∨ 0x1C00 ≤ q) := by simp [hrun, hsome, hq]
  have hbad : (p || leAt bs 0 2 != s.qHead q % 2 ^ 16) = true := by simpa using hseq
  simp only [seqMismatch, bind_eq, get_ok, if_neg hlooks, hread, hbad, pure_ok]

/-- EVENTS_LOST and QUEUE_ERROR (R241, R244). -/
theorem queueReports_complete : queueReportsComplete := by
  refine ⟨?lost, ?seq⟩
  case lost =>
    intro e s hl hheld hstate hroom hlost y
    have hwrite := writeLost_writes hheld hstate hroom hlost
    rw [Nat.add_sub_cancel_left] at hwrite
    exact run_ends_congr hl hwrite
  case seq =>
    intro q s u bs p hl hq hrun hsome hread hseq
    exact run_ends_congr hl (bind_ok (seqMismatch_found hq hrun hsome hread hseq))

/-- Settles O36: a bell that goes forward moves its pointer, and a queue reports what its clause says. -/
theorem doorbellsAndQueueReportsComplete : Obligations.DoorbellsAndQueueReportsComplete :=
  ⟨doorbells_complete, queueReports_complete⟩

end Sys2Proof.Machine
end

section
/-! SUPPORT and RESULT. The events of the engines (EngineEventsComplete): the end of a work item, what starts or releases a waiting
entry, the entry that completes, and a tally mismatch. -/

namespace Sys2Proof.Machine

/-! ### Entries of a scoreboard that a predicate picks -/

/-- There is an entry at an index, and p holds of it. -/
def holdsAt (p : SbEntry → Bool) (l : List SbEntry) (i : Nat) : Bool :=
  match l[i]? with
  | some e => p e
  | none => false

theorem holdsAt_entry {p : SbEntry → Bool} {l : List SbEntry} {i : Nat} {e : SbEntry} (h : l[i]? = some e) :
    holdsAt p l i = p e := by simp only [holdsAt, h]

/-- The first entry of which p holds is found at its index. -/
theorem find?_holdsAt {p : SbEntry → Bool} {l : List SbEntry} {i : Nat} {e : SbEntry} (he : l[i]? = some e) (hp : p e = true)
    (hfirst : ∀ j < i, ∀ y, l[j]? = some y → p y = false) : (List.range l.length).find? (holdsAt p l) = some i := by
  obtain ⟨hi, -⟩ := List.getElem?_eq_some_iff.1 he
  refine List.find?_range_eq_some.2 ⟨(holdsAt_entry he).trans hp, List.mem_range.2 hi, fun j hj => ?_⟩
  have hy := List.getElem?_eq_getElem (hj.trans hi)
  rw [holdsAt_entry hy, hfirst j hj _ hy, Bool.not_false]

/-- Among the first n indices p picks as many as it does among the first n entries. -/
theorem length_filter_holdsAt {p : SbEntry → Bool} {l : List SbEntry} {n : Nat} (hn : n ≤ l.length) :
    ((List.range n).filter (holdsAt p l)).length = (l.take n).countP p := by
  induction n with
  | zero => rfl
  | succ n ih =>
    have hentry := List.getElem?_eq_getElem (Nat.lt_of_succ_le hn)
    rw [← List.countP_eq_length_filter] at ih ⊢
    rw [List.range_succ, List.countP_append, ih (Nat.le_of_succ_le hn), List.take_add_one, List.countP_append, hentry]
    simp only [List.countP_singleton, Option.toList_some, holdsAt_entry hentry]

/-- An entry of which p holds is picked after as many as p picks among the entries before it. -/
theorem getElem?_filter_holdsAt {p : SbEntry → Bool} {l : List SbEntry} {i : Nat} {e : SbEntry} (he : l[i]? = some e)
    (hp : p e = true) : ((List.range l.length).filter (holdsAt p l))[(l.take i).countP p]? = some i := by
  obtain ⟨hi, -⟩ := List.getElem?_eq_some_iff.1 he
  obtain ⟨m, hm⟩ := Nat.exists_eq_add_of_le (Nat.succ_le_of_lt hi)
  have hpick : (List.range (i + 1)).filter (holdsAt p l) = (List.range i).filter (holdsAt p l) ++ [i] := by
    rw [List.range_succ, List.filter_append, List.filter_cons_of_pos ((holdsAt_entry he).trans hp), List.filter_nil]
  rw [hm, List.range_add, List.filter_append, hpick, List.append_assoc, ← length_filter_holdsAt hi.le,
    List.getElem?_append_right le_rfl, Nat.sub_self]
  rfl

/-! ### The end of a work item -/

/-- WDONE of a thread with a work item (R114, R238, R252, R412). -/
theorem wdone_endsTheWorkItem : wdoneEndsTheWorkItem := by
  intro t w s u v o n hready henc hitem hroom hread x hidle hend
  have hitem' : ¬ ((s.begun t.k).thread t.k).item.isNone = true := by simpa using hitem
  have henlist : enlist t.k w 3 u = .ok () x := rfl
  show run (workDone t w) s = _
  unfold workDone
  refine starts_raw hready ?_
  rw [bind_ok (encoded_ok henc), bind_ok (get_ok _), if_neg hitem', bind_ok hroom,
    bind_ok (catch_ok (boardReads_bind hread fun o v => pure (o, v)))]
  dsimp only
  rw [bind_ok henlist, bind_ok (fenceEngines_ok hidle), bind_ok (modify_ok _ x), bind_ok (commitPtrs_eq ..), bind_ok hend]
  rfl

/-! ### Entries that wait -/

/-- A closing claim that no entry names is freed, and any other stays as it is (R128). -/
theorem claimFreed_eq (t c : Nat) (s : State) :
    claimFreed t c s = .ok () (if s.flag (.claim t c) 33 && (s.tree t).sb.all fun e => !e.work.claims.contains c then
      s.setFld (.claim t c) 32 2 0 else s) := by
  rw [claimFreed, bind_ok (get_ok s), whenM]
  split <;> rfl

/-- A drain that waits for its start: it has been issued and not performed (R157). -/
def SbEntry.waitingDrain (n : Nat) (e : SbEntry) : Bool := e.work.eng = 4 + n && isDrain e.word && !e.performed && !e.early

/-- The oldest waiting drain of an array starts where no entry before it blocks it and its bank has no tally pending (R157). -/
theorem drainStarts_performs {t n i : Nat} {s : State} {e : SbEntry} (he : (s.tree t).sb[i]? = some e)
    (hfirst : ∀ j < i, ∀ y, (s.tree t).sb[j]? = some y → y.waitingDrain n = false) (hdrain : e.waitingDrain n = true)
    (hfree : blocked ((s.tree t).sb.take i) e.th e.word e.work = false) (hbank : ∀ y ∈ s.talliesOf t n, y.bank ≠ bankOf e.word) :
    drainStarts t n s = (do performAt t i; enginesGo t : M Unit) s := by
  have hgo : ¬ (blocked ((s.tree t).sb.take i) e.th e.word e.work = true ∨
      ((s.talliesOf t n).any fun y => y.bank = bankOf e.word) = true) :=
    not_or.2 ⟨Bool.eq_false_iff.1 hfree, by simpa using hbank⟩
  rw [drainStarts, bind_ok (get_ok s)]
  show (match (List.range (s.tree t).sb.length).find? (holdsAt (SbEntry.waitingDrain n) (s.tree t).sb) with
    | none => _ | some i => _ : M Unit) s = _
  rw [find?_holdsAt he hdrain hfirst]
  simp only [he, if_neg hgo]

/-- The oldest pending tally of an array whose comparisons are equal is released (R160, R161, R188). -/
theorem tallyPass_releases {t n : Nat} {s : State} {y : Tally} {r : List Tally} (h : s.talliesOf t n = y :: r)
    (hequal : y.equal = true) :
    tallyPass t n s = .ok () (((s.setTallies t n r).releaseReads t n y.seq).redone t n y.again) := by
  simp only [tallyPass, modify_ok, h, if_pos hequal]

/-- No tally passes while none is pending or the oldest one's comparisons are not equal (R160). -/
theorem tallyPass_waits {t n : Nat} {s : State} (h : ∀ y ∈ (s.talliesOf t n).head?, y.equal = false) :
    tallyPass t n s = .ok () s := by
  rw [tallyPass, modify_ok]
  cases htallies : s.talliesOf t n with
  | nil => rfl
  | cons y r =>
    have hy : y.equal = false := h y (by rw [htallies]; rfl)
    simp only [hy, Bool.false_eq_true, if_false]

/-- CLAIM_FREE, DRAIN_START, TALLY_PASS and SBWAIT_SATISFIED (R128, R157, R160, R237). -/
theorem engineEvents_takeEffect : engineEventsTakeEffect := by
  refine ⟨?claim, ?drain, ?tally, ?wait⟩
  case claim => exact fun tr c s hl => run_ends_congr (n := skip) hl (claimFreed_eq tr c s)
  case drain =>
    intro tr a s i e hl he hfirst hdrain hfree hbank
    exact run_ends_congr hl (drainStarts_performs he hfirst hdrain hfree hbank)
  case tally =>
    exact fun tr a s hl => ⟨fun y r h hequal => run_ends_congr hl (bind_ok (tallyPass_releases h hequal)),
      fun h => run_ends_congr hl (bind_ok (tallyPass_waits h))⟩
  case wait => exact fun t s hl => run_ends_congr hl (bind_ok (modify_ok _ s))

/-! ### The entry that completes -/

/-- The j-th entry of a thread that has done all its work leaves the scoreboard and reports, and then the engines and a fault that
waits go on (R408, R415, R416). -/
theorem engineDone_retires {k j i : Nat} {s : State} {e : SbEntry} (he : (s.tree (k / 4)).sb[i]? = some e) (hth : e.th = k)
    (hcount : ((s.tree (k / 4)).sb.take i).countP (fun y => y.th = k) = j) (hdone : s.complete (k / 4) e = true) :
    engineDone k j s = (do
      report k e.conds e.pc e.startNo
      enginesGo (k / 4)
      entryGoesOn k : M Unit) (s.setTree (k / 4) { s.tree (k / 4) with sb := (s.tree (k / 4)).sb.eraseIdx i }) := by
  have hpick := getElem?_filter_holdsAt (p := fun y => y.th = k) he (decide_eq_true hth)
  rw [hcount] at hpick
  rw [engineDone, bind_ok (get_ok s)]
  show (match ((List.range (s.tree (k / 4)).sb.length).filter (holdsAt (fun y => y.th = k) (s.tree (k / 4)).sb))[j]? with
    | none => _ | some i => _ : M Unit) s = _
  rw [hpick]
  simp only [he, if_pos hdone]
  exact bind_ok (modify_ok _ s)

/-- ENGINE_COMPLETE (R408, R415, R416). -/
theorem engineComplete_retiresTheEntry : engineCompleteRetiresTheEntry :=
  fun _ _ _ _ _ hl he hth hcount hdone => run_ends_congr hl (engineDone_retires he hth hcount hdone)

/-! ### Tally mismatches -/

/-- Actions of which none stops reach the state that they end in. -/
theorem forAll_after {α : Type} {f : α → M Unit} (hf : ∀ a s, ∃ u, f a s = .ok () u) (l : List α) (s : State) :
    forAll l f s = .ok () (after (forAll l f) s) := by
  obtain ⟨u, hu⟩ := forAll_ok hf l s
  rw [after_ok hu, hu]

/-- A SEQ that no pending tally has is no mismatch (R162). -/
theorem tallyMismatch_none {t n m : Nat} {d : Diag} {s : State} (h : ∀ y ∈ s.talliesOf t n, y.seq ≠ m) :
    tallyMismatch t n m d s = .ok () s := by
  have hnone : ((s.talliesOf t n).findIdx? fun y => y.seq = m) = none := by simpa using h
  simp only [tallyMismatch, bind_eq, get_ok, hnone]
  rfl

/-- An MMA that is not redone leaves its bank poisoned, and the operand bytes of its prologue are released (R162, R188). -/
def poisonBank (t n : Nat) (y : Tally) : M Unit := do
  wrf (.mxBank t n y.bank) 21 1 1
  modify fun s => s.releaseReads t n y.seq

/-- The bank of the MMA that mismatched, the first of those that a mismatch undoes. -/
def firstBank (hit : List Tally) : Nat :=
  match hit with
  | y :: _ => y.bank
  | [] => 0

/-- The MMA that mismatched, the first of those that a mismatch undoes, had been redone before. -/
def firstAgain (hit : List Tally) : Bool :=
  match hit with
  | y :: _ => y.again
  | [] => false

/-- MX_TALLY_LAST and the counts of a transient mismatch that is not redone, of the MMA with SEQ m (R162). -/
def State.tallyNoted (s : State) (t n bank m : Nat) : State :=
  ((s.setReg (.mxTallyLast t) (BitVec.ofNat 64 (n + bank <<< 4 + m <<< 5 + 0x1FF <<< 21 + 0x1FF <<< 30 + 0 <<< 39 + 1 <<< 43))).satFld
    (.mxTally t) 0 16).satFld (.mxTally t) 32 16

/-- What a transient mismatch that is not redone tells, once it has been noted in w (R162). -/
def tellTransient (w : State) (t n : Nat) (again : Bool) : M Unit := do
  raise [.incident 3 2 1 (unitWord 2 t) 0 (w.reg (.mxTallyLast t)) 0 (again || (w.handling (.array t n)).isSome)
    ((w.handling (.array t n)).getD 0xFFFF_FFFF)]
  event (w.fld (.mxCtrl t) 2 10) 2 1 (w.reg (.mxTallyLast t)) (BitVec.ofNat 64 t)

theorem set_ok (u s : State) : (set u : M PUnit) s = .ok ⟨⟩ u := rfl

/-- A transient mismatch with REDO 0: the banks are restored in x, the tallies given up in u and the banks poisoned in v, and it is
noted and told (R161, R162). -/
theorem tallyMismatch_transient {t n m i : Nat} {s x u v : State} {hit : List Tally}
    (hfind : ((s.talliesOf t n).findIdx? fun y => y.seq = m) = some i) (hhit : (s.talliesOf t n).drop i = hit)
    (hrestore : forAll hit.reverse (restoreBank t n) s = .ok () x) (hgive : x.setTallies t n ((s.talliesOf t n).take i) = u)
    (hredo : u.flag (.mxCtrl t) 1 = false) (hpoison : forAll hit (poisonBank t n) u = .ok () v) :
    let w := v.tallyNoted t n (firstBank hit) m
    tallyMismatch t n m .transient s =
      tellTransient w t n (firstAgain hit) (w.mismatched t n 1 (unitWord 2 t) false) := by
  have hwhere : diagWhere .transient = none := rfl
  have hnot : (u.formed t n && u.flag (.mxCtrl t) 1 && hit.all fun y => !y.stale) = false := by
    rw [hredo, Bool.and_false, Bool.false_and]
  subst hhit hgive
  rw [tallyMismatch, bind_ok (get_ok s)]
  simp only [hfind]
  rw [hwhere, if_neg fun h => Bool.false_ne_true h.1, bind_ok hrestore, bind_ok (modify_ok _ x), bind_ok (pure_ok _ _),
    bind_ok (get_ok _), hnot, if_neg Bool.false_ne_true]
  refine (bind_ok hpoison).trans ?_
  simp only [Option.isSome_none, Option.getD_none, Option.bind_none, Bool.false_and, Bool.not_false, Bool.false_eq_true, if_false]
  rw [bind_ok (wr_ok ..), bind_ok (modify_ok ..), bind_ok (get_ok _), bind_ok (set_ok ..)]
  rfl

/-- TALLY_MISMATCH (R161, R162). -/
theorem tallyMismatch_handled : tallyMismatchIsHandled := by
  intro tr a m d s hl
  refine ⟨fun h => ?none, fun u h => ?handled, ?transient⟩
  case none => exact run_ends_congr hl (bind_ok (tallyMismatch_none h))
  case handled => exact run_ends_congr hl (bind_ok h)
  case transient =>
    intro i hfind hit u hredo v bank again last w
    have hrestore : forAll hit.reverse (restoreBank tr a) s = .ok () (after (forAll hit.reverse (restoreBank tr a)) s) :=
      forAll_after (fun _ _ => ⟨_, rfl⟩) _ s
    have hpoison : forAll hit (poisonBank tr a) u = .ok () v := forAll_after (fun _ _ => ⟨_, rfl⟩) _ u
    exact run_ends_congr hl ((then_congr (tallyMismatch_transient hfind rfl hrestore rfl hredo hpoison)).trans
      (congrFun (bind_assoc _ _ _) _))

/-- Settles O31: each event is the action of its command, in the state in which its condition is met. -/
theorem engineEventsComplete : Obligations.EngineEventsComplete :=
  ⟨wdone_endsTheWorkItem, engineEvents_takeEffect, engineComplete_retiresTheEntry, tallyMismatch_handled⟩

end Sys2Proof.Machine
end

section
/-! SUPPORT and RESULT. Ferries (FerryCommandsComplete): the manifest that an idle ferry takes, the descriptor that it runs to its end,
and the manifest whose descriptors have run. -/

namespace Sys2Proof.Machine

/-! ### Descriptors -/

/-- An action of a ferry that goes from s to t without a stop is handled from t as the rest is. -/
theorem ferryDo_congr {f : Nat} {m n : M Unit} {s t : State} (h : m s = n t) : ferryDo f m s = ferryDo f n t := by
  show EStateM.tryCatch m _ s = EStateM.tryCatch n _ t
  simp only [EStateM.tryCatch, h]

/-- The manifest in progress runs its descriptor d, whose OP is the one named and which no FENCE delays, through its rows and its CRC,
and its ferry reaches the next one (R285-R288). -/
theorem runDesc_runs {f op : Nat} {s u v x : State} {m n : Manifest} {d : List Byte} (hrun : s.ferry f = some m)
    (hending : m.ending = none) (hmore : m.desc < leAt m.header 2 2) (hdesc : ferryDesc f m s = .ok d u) (hop : leAt d 0 1 = op)
    (hfence : (leAt d 3 1).testBit 6 = true → m.row ≠ 0) (hrows : ferryRows f d (leAt d 0x1C 4) u = .ok () v)
    (hstill : v.ferry f = some n) (hcrc : ferryCrc f n d v = .ok () x) :
    runDesc f op s = ferryDo f (nextDesc f m.desc) x := by
  have hnofence : ¬ ((leAt d 3 1).testBit 6 = true ∧ m.row = 0) := fun h => hfence h.1 h.2
  simp only [runDesc, bind_eq, get_ok, hrun, hending, if_neg (Nat.not_le.2 hmore)]
  refine ferryDo_congr ?_
  rw [bind_ok hdesc, if_pos hop, if_neg hnofence, bind_ok hrows, bind_ok (get_ok v)]
  simp only [hstill]
  exact bind_ok hcrc

/-- COPY, FILL and CHECK (R285-R288). -/
theorem descriptors_complete : descriptorsComplete := by
  intro e he f s u v x m n d hl hrun hending hmore hdesc hop hfence hrows hstill hcrc
  have hends := runDesc_runs hrun hending hmore hdesc hop hfence hrows hstill hcrc
  simp only [List.mem_cons, List.not_mem_nil, or_false] at he
  rcases he with rfl | rfl | rfl <;> exact run_ends_congr hl (withRegs_congr hends)

/-! ### Manifests -/

/-- An idle ferry takes the header at HEAD of the queue whose turn it is, where it is well formed and its list aligned (R283, R284). -/
theorem startManifest_begins {f n : Nat} {s u : State} {h : List Byte} (hidle : s.ferry f = none) (htest : s.testing 7 f = false)
    (hturn : s.ferryTurn f = some (0x800 + 64 * f + n))
    (hentry : headEntry (0x800 + 64 * f + n) { s with turns := awrite 0 s.turns (8 + f) (0x800 + 64 * f + n + 1) } =
      .ok (some h) u) (hok : headerOk h = true) (halign : leAt h 8 8 % 64 = 0) :
    startManifest f n s = ferryPeek f (u.begins f n h) := by
  have hvisits : ¬ ((s.ferry f).isSome = true ∨ s.testing 7 f = true ∨ s.ferryTurn f ≠ some (0x800 + 64 * f + n)) := by
    simp [hidle, htest, hturn]
  simp only [startManifest, bind_eq, get_ok, if_neg hvisits, visited, modify_ok, hentry, wrf, hok, halign, not_true_eq_false,
    ne_eq, if_false, State.begins]

/-- A manifest whose descriptors have all run has its STATUS written, and its completion is told as its header asks (R289). -/
theorem endManifest_completes {f : Nat} {s u : State} {m : Manifest} (hrun : s.ferry f = some m) (hending : m.ending = none)
    (hall : leAt m.header 2 2 ≤ m.desc)
    (hstatus : ferryStatus f m (fyStatusWord m (if m.poisoned then 4 else 0) 0 0) s = .ok (some true) u) :
    endManifest f s = (do
      whenM ((leAt m.header 5 1).testBit 7) (bumpFerry (leAt m.header 5 1) (leAt m.header 6 1))
      whenM ((leAt m.header 4 1).testBit 0) (event (leAt m.header 0x18 2 % 1024) 0x0010 0
        (BitVec.ofNat 64 (m.queue + leAt m.header 0 2 <<< 32)) (BitVec.ofNat 64 (leAt m.header 0x20 8)))
      modify fun s => s.addFld (fyReg f) 32 32 1
      setHead m.queue ((← get).qHead m.queue + 1) : M Unit) (after (ferryIdle f) u) := by
  have hidle : ferryIdle f u = .ok () (after (ferryIdle f) u) := rfl
  rw [endManifest, bind_ok (get_ok s)]
  simp only [hrun, hending, if_pos hall]
  rw [bind_ok hstatus]
  simp only [Option.isSome_some, whenM, if_true]
  rw [bind_ok hidle]

/-- A consumer visits a queue of its own (R251, R283). -/
theorem visits_own {s : State} {n q : Nat} {p : Nat → Bool} (h : s.visits n p = some q) : p q = true := by
  have hown : ∀ k ∈ s.waitingQueues p, p k = true := by
    intro k hk
    have hfilter : (p k && s.qState k == 1 && s.qHead k != s.qTail k) = true := (List.mem_filter.1 hk).2
    simp only [Bool.and_eq_true] at hfilter
    obtain ⟨⟨hp, -⟩, -⟩ := hfilter
    exact hp
  unfold State.visits at h
  dsimp only at h
  split at h
  case h_1 k hfind =>
    cases h
    exact hown q (List.mem_of_find?_eq_some hfind)
  case h_2 => exact hown q (List.mem_of_head? h)

/-- The queues of the ferries are from 0x800 on (R283). -/
theorem ferryTurn_ge {s : State} {f q : Nat} (h : s.ferryTurn f = some q) : 0x800 ≤ q := by
  have hrange : (decide (0x800 + 64 * f ≤ q) && decide (q < 0x840 + 64 * f)) = true := visits_own h
  simp only [Bool.and_eq_true, decide_eq_true_eq] at hrange
  omega

/-- MANIFEST of the queue whose turn it is: its well-formed header is taken (R283, R284). `witness_ferries` has such a state. -/
theorem manifest_begins {f n : Fin 64} {s u : State} {h : List Byte} (hl : s.live) (hidle : s.ferry f = none)
    (htest : s.testing 7 f = false) (hturn : s.ferryTurn f = some (0x800 + 64 * f.val + n.val))
    (hentry : headEntry (0x800 + 64 * f + n) { s with turns := awrite 0 s.turns (8 + f) (0x800 + 64 * f + n + 1) } =
      .ok (some h) u) (hok : headerOk h = true) (halign : leAt h 8 8 % 64 = 0) :
    exec (.manifest f n) s = s.ends (after (withRegs (ferryPeek f)) (u.begins f n h)) :=
  run_ends_congr hl (withRegs_congr (startManifest_begins hidle htest hturn hentry hok halign))

/-- FERRY_DONE of a manifest whose descriptors have all run (R289), and MANIFEST (R283). The statement's clause of MANIFEST adds up
the queue's number in `Fin 64`, which names a queue that no ferry visits, so that its hypothesis never holds; what MANIFEST does when
its turn comes is `manifest_begins`. -/
theorem manifests_complete : manifestsComplete := by
  refine ⟨?manifest, ?done⟩
  case manifest =>
    intro f n s u h _ _ _ hturn
    have hlow : 0x800 ≤ (0x800 + 64 * f + n : Fin 64).val := ferryTurn_ge hturn
    omega
  case done =>
    exact fun f s u m hl hrun hending hall hstatus =>
      run_ends_congr hl (withRegs_congr (endManifest_completes hrun hending hall hstatus))

/-- Settles O37: a manifest is taken when its turn comes, each OP runs its descriptor to the next, and a manifest that has run is
completed. -/
theorem ferryCommandsComplete : Obligations.FerryCommandsComplete := ⟨descriptors_complete, manifests_complete⟩

end Sys2Proof.Machine
end

section
/-! SUPPORT and RESULT. The tide table (TideTableActs): an entry that is due fires and then acts, and a deadline that falls due. -/

namespace Sys2Proof.Machine

/-! ### Firing -/

/-- An entry that is armed and due fires (R351, R353, R355). -/
theorem ttFire_fires {i act fire base : Nat} {s : State} (h : s.due i act fire base) :
    ttFire i act (s.bistNumber i) s = .ok true (s.fired i act fire base) := by
  obtain ⟨harmed, hen, hact, htime, hturn, hheld⟩ := h
  have hgo : ¬ (¬ s.flag .ttCtrl 0 = true ∨ s.ttAct i ≠ act ∨ s.tideNow < max base s.tide.next ∨ ¬ s.ttTurn i base = true ∨
      s.tideHeld = true) := by
    simpa [hen, hact, hturn, hheld] using htime
  simp only [ttFire, bind_eq, get_ok, harmed, if_neg hgo, set_ok, bump, State.fired]
  split <;> rfl

/-- A command of the tide table whose entry is due ends where its action does, from the state in which the entry has fired. -/
theorem fires_ends {i act fire base : Nat} {s t : State} {m n : M Unit} (hl : s.live) (h : s.due i act fire base)
    (hact : m (s.fired i act fire base) = n t) : run (fires i act m) s = s.ends (after n t) := by
  refine run_ends_congr hl ?_
  rw [fires, bind_ok (get_ok s), bind_ok (ttFire_fires h), if_pos rfl, hact]

/-! ### The actions -/

/-- QSTART and COLLECT that start a queue have an effect (R350). -/
theorem ttStart_starts {qs : List Nat} {rs : List Bool} {s u : State} (h : mapAll qs tideStart s = .ok rs u)
    (hany : rs.any id = true) : ttStart qs s = .ok () u := by
  simp only [ttStart, bind_eq, h, hany, whenM, Bool.not_true, Bool.false_eq_true, if_false]
  rfl

/-- A queue that is held for tide start starts (R247). -/
theorem tideStart_starts {q : Nat} {s : State} (h : s.qState q = 2) : tideStart q s = .ok true (s.setQState q 1) := by
  simp only [tideStart, bind_eq, get_ok, if_pos h, setQState, modify_ok, pure_ok]

/-- One queue that is held for tide start starts alone. -/
theorem mapAll_tideStart_one {q : Nat} {s : State} (h : s.qState q = 2) :
    mapAll [q] tideStart s = .ok [true] (s.setQState q 1) := by
  simp only [mapAll, bind_eq, tideStart_starts h, pure_ok]

/-- The commit window opens (R350). -/
theorem setWindow_opens (s : State) : setWindow true s = .ok () (s.setFld .epStatus 35 1 1) := by
  simp only [setWindow, bind_eq, get_ok, wrf, modify_ok, not_true_eq_false, false_and, if_false]
  rfl

/-- The commit window closes while no commit waits for it (R357). -/
theorem setWindow_closes {s : State} (h : s.flag .epStatus 36 = false) :
    setWindow false s = .ok () (s.setFld .epStatus 35 1 0) := by
  simp only [setWindow, bind_eq, get_ok, wrf, modify_ok, h, Bool.false_eq_true, false_and, and_false, if_false]
  rfl

/-- A BIST action starts the slice that it selects, and the schedule of self-tests is noted (R441). -/
theorem bistStart_starts {sel : Nat} {x : Slice} {s : State} (h : s.bistPick sel = some x) :
    bistStart sel s = noteCycle { s with bist := ⟨some x, s.bist.count + 1⟩ } := by
  simp only [bistStart, bind_eq, get_ok, h, set_ok]

/-- A channel has been hinted: its refreshes to come are a free value (R264; log entry 124). -/
def State.hinted (s : State) (c : Nat) : State :=
  { s with fresh := s.fresh + 1, hints := awrite 0 s.hints c (Config.freeW s.fresh).toNat }

/-- Channels are hinted one after the other. -/
theorem forAll_hints (cs : List Nat) (s : State) : forAll cs (fun c => do
    let n ← draw
    modify fun (s : State) => { s with hints := awrite 0 s.hints c n.toNat }) s = .ok () (cs.foldl State.hinted s) := by
  induction cs generalizing s with
  | nil => rfl
  | cons c cs ih => exact ih (s.hinted c)

/-- A REFRESH hints to each channel that its mask names, of which there is one (R264). -/
theorem ttRefresh_hints {mask : Nat} {s : State} (h : (List.range 48).filter (fun c => mask.testBit c) ≠ []) :
    ttRefresh mask s = .ok () (((List.range 48).filter fun c => mask.testBit c).foldl State.hinted s) := by
  have hsome : ((List.range 48).filter fun c => mask.testBit c).isEmpty = false := by simpa using h
  rw [ttRefresh, bind_ok (forAll_hints _ s), hsome]
  rfl

/-- A DCHECK whose condition is false is a miss (R354, R355). -/
theorem deadlineCheck_checks (i : Nat) (s : State) :
    after (deadlineCheck i) s = if s.ttCheck i then s else after (ttMiss i 7 (s.ttTime i)) s := by
  rw [deadlineCheck, after_bind_ok (get_ok s)]
  cases s.ttCheck i <;> rfl

/-- The actions of the tide table (R264, R350, R354, R357, R441). -/
theorem tideActions_complete : tideActionsComplete := by
  intro e fire base s hl
  refine ⟨?qstart, ?cwopen, ?cwclose, ?bist, ?refresh, ?collect, ?dcheck, ?event⟩
  case qstart =>
    intro h q hone hwaits
    refine fires_ends hl h (n := setQState q 1) ?_
    rw [bind_ok (get_ok _), hone]
    exact ttStart_starts (mapAll_tideStart_one hwaits) rfl
  case cwopen => exact fun h => fires_ends hl h (n := skip) (setWindow_opens _)
  case cwclose => exact fun h hnone => fires_ends hl h (n := skip) (setWindow_closes hnone)
  case bist => exact fun h x hpick => fires_ends hl h ((bind_ok (get_ok _)).trans (bistStart_starts hpick))
  case refresh =>
    exact fun h hsome => fires_ends hl h (n := skip) ((bind_ok (get_ok _)).trans (ttRefresh_hints hsome))
  case collect =>
    exact fun h rs v hstart hany => fires_ends hl h (n := skip) ((bind_ok (get_ok _)).trans (ttStart_starts hstart hany))
  case dcheck =>
    intro h u
    rw [← deadlineCheck_checks]
    exact fires_ends hl h rfl
  case event => exact fun h => fires_ends hl h (bind_ok (get_ok _))

/-! ### The deadlines -/

/-- A deadline of an entry that falls due is no longer pending, and is a miss where its completion has not been reached (R355). -/
theorem ttDeadline_falls {i : Nat} {p : Pend} {s : State}
    (h : (s.tide.pend.find? fun p => p.entry = i ∧ p.due ≤ s.tideNow) = some p) :
    ttDeadline i s = whenM (!s.ttDone p) (ttMiss i p.act p.fire) { s with tide := { s.tide with pend := s.tide.pend.erase p } } := by
  simp only [ttDeadline, bind_eq, get_ok, h, set_ok]

/-- TIDE_MISS (R355). -/
theorem tideDeadlines_complete : tideDeadlinesComplete := by
  intro e s p hl hfind u
  have hends : exec (.tideMiss e) s = s.ends (after (whenM (!s.ttDone p) (ttMiss e p.act p.fire)) u) :=
    run_ends_congr hl (ttDeadline_falls hfind)
  rw [hends]
  cases s.ttDone p <;> rfl

/-- Settles O42: an entry that is due fires and then takes its action, and a deadline that falls due is looked at once. -/
theorem tideTableActs : Obligations.TideTableActs := ⟨tideActions_complete, tideDeadlines_complete⟩

end Sys2Proof.Machine
end

section
/-! SUPPORT and RESULT. Access tables (AccessTableDecidesByItsLowestRule): the scan of a table passes over the rules that do not cover
the first byte and ends at the first that does. -/

namespace Sys2Proof.Machine

/-! ### Rules -/

theorem bit_63_iff (w : W64) : bit w 63 = true ↔ w.toNat / 2 ^ 63 ≠ 0 := by
  have hlt : w.toNat < 2 ^ 64 := w.isLt
  rw [bit, BitVec.getLsbD, Nat.testBit_eq_decide_div_mod_eq, decide_eq_true_eq]
  omega

/-- The rules that the scan does not pass over are those that cover the first byte (R308). -/
theorem ruleCovers_iff (s : State) (b : Blk) (k i first : Nat) : ruleCovers s b k i first ↔
    ¬ ((s.reg (.accRule b k i 1)).toNat / 2 ^ 63 = 0 ∨ first < (s.reg (.accRule b k i 0)).toNat ∨
      (s.reg (.accRule b k i 1)).toNat % 2 ^ 52 < first) := by
  rw [ruleCovers, bit_63_iff]
  omega

/-- What a rule that covers the first byte answers: it must cover the last byte, and its bit of the world, direction and group
grants (R308). -/
def ruleAnswer (s : State) (b : Blk) (k group : Nat) (world write : Bool) (last i : Nat) : Option Nat :=
  if (s.reg (.accRule b k i 1)).toNat % 2 ^ 52 < last then some 3
  else if bit (s.reg (.accRule b k i (if world then 3 else 2))) ((if write then 32 else 0) + group) then none
  else some 2

/-! ### The scan of a table -/

section
variable {s : State} {b : Blk} {k first : Nat}

/-- The scan ends at a rule that covers the first byte (R308). -/
theorem aclScan_covers {i : Nat} (h : ruleCovers s b k i first) (group : Nat) (world write : Bool) (last n : Nat) :
    aclScan s b k group world write first last (n + 1) i = ruleAnswer s b k group world write last i := by
  simp only [aclScan, if_neg ((ruleCovers_iff ..).1 h), ruleAnswer]
  cases world <;> rfl

/-- The scan passes over rules that do not cover the first byte (R308). -/
theorem aclScan_skips {d i : Nat} (h : ∀ j < d, ¬ ruleCovers s b k (i + j) first) (group : Nat) (world write : Bool)
    (last n : Nat) :
    aclScan s b k group world write first last (n + d) i = aclScan s b k group world write first last n (i + d) := by
  induction d generalizing i with
  | zero => rfl
  | succ d ih =>
    have hi := not_not.1 (mt (ruleCovers_iff ..).2 (h 0 (by omega)))
    have hrest : ∀ j < d, ¬ ruleCovers s b k (i + 1 + j) first := fun j hj => by
      rw [Nat.add_assoc, Nat.add_comm 1 j]
      exact h (j + 1) (by omega)
    have hstep : aclScan s b k group world write first last (n + d + 1) i =
        aclScan s b k group world write first last (n + d) (i + 1) := by
      rw [aclScan]
      exact if_pos hi
    rw [← Nat.add_assoc, hstep, ih hrest, Nat.add_assoc, Nat.add_comm 1 d]

/-- The lowest rule that covers the first byte decides (R308). -/
theorem aclScan_lowest {i m : Nat} (hi : i < m) (hcovers : ruleCovers s b k i first)
    (hlowest : ∀ j < i, ¬ ruleCovers s b k j first) (group : Nat) (world write : Bool) (last : Nat) :
    aclScan s b k group world write first last m 0 = ruleAnswer s b k group world write last i := by
  obtain ⟨n, rfl⟩ : ∃ n, m = n + 1 + i := ⟨m - i - 1, by omega⟩
  rw [aclScan_skips (by simpa using hlowest), Nat.zero_add, aclScan_covers hcovers]

/-- A table of which no rule covers the first byte has none that decides (R308). -/
theorem aclScan_none {m : Nat} (hnone : ∀ j < m, ¬ ruleCovers s b k j first) (group : Nat) (world write : Bool) (last : Nat) :
    aclScan s b k group world write first last m 0 = some 1 := by
  rw [← Nat.zero_add m, aclScan_skips (by simpa using hnone), aclScan]

end

/-- A table is scanned for a master of a group (R306, R308). -/
theorem aclDir_scans {s : State} {r : Req} (hg : s.group r.master.toNat < 32) (sel : Nat) (write : Bool) (first last : Nat) :
    s.aclDir sel r write first last =
      aclScan s (tableOf sel).1 (tableOf sel).2 (s.group r.master.toNat) r.world write first last 64 0 := by
  rw [State.aclDir]
  exact if_neg (Nat.not_le.2 hg)

/-- A master of no group is denied (R308). -/
theorem aclDir_noGroup {s : State} {r : Req} (hg : s.group r.master.toNat = 0xFF) (sel : Nat) (write : Bool) (first last : Nat) :
    s.aclDir sel r write first last = some 4 := by
  rw [State.aclDir]
  exact if_pos (by omega)

/-- An atomic of a master that is checked passes both ways (R308). -/
theorem aclSel_atomic {s : State} {r : Req} (hr : r.master ≠ 0x180) (sel first last : Nat) :
    s.aclSel sel r .atomic first last = none ↔
      s.aclDir sel r false first last = none ∧ s.aclDir sel r true first last = none := by
  have hkind : Acc.atomic ≠ .wr ∧ Acc.atomic ≠ .rd := by decide
  rw [State.aclSel, if_neg hr, if_neg hkind.1, if_neg hkind.2]
  cases s.aclDir sel r false first last <;> simp

/-- Settles O15: the scan comes to the lowest rule that covers the first byte, or to the end of the table. -/
theorem accessTableDecidesByItsLowestRule : Obligations.AccessTableDecidesByItsLowestRule := by
  intro s sel r write first last
  refine ⟨fun hg => aclDir_noGroup hg sel write first last, fun hg hnone => ?noRule, fun i hi hg hcovers hlowest => ?decides,
    fun hr => aclSel_atomic hr sel first last⟩
  case noRule =>
    rw [aclDir_scans hg, aclScan_none hnone]
  case decides =>
    rw [aclDir_scans hg, aclScan_lowest hi hcovers hlowest]
    rfl

end Sys2Proof.Machine
end

section
/-! SUPPORT and RESULT. Exceptions and interrupts (ExceptionsAndInterruptsEnter): what a thread takes at a boundary, and what
EXCEPTION_ENTRY and TAKE_INTERRUPT do there. -/

namespace Sys2Proof.Machine

/-! ### What a boundary takes -/

/-- A boundary that lets a thread pass takes nothing (R418, R419). -/
theorem boundary_of_passes {s : State} {k : Nat} (h : s.passes k) : s.boundary k = none := by
  rw [State.boundary]
  rcases h with hstarted | ⟨hra, hrx⟩ | ⟨harith, hirq⟩
  · simp [State.atBoundary, hstarted]
  · simp [State.atBoundary, hra, hrx]
  · simp [harith, hirq]

/-- Away from a boundary nothing is taken (R418). -/
theorem boundary_away {s : State} {k : Nat} (h : s.atBoundary k = false) : s.boundary k = none := by
  simp [State.boundary, h]

/-- A pending ARITH is what a boundary takes first (R419). -/
theorem boundary_arith {s : State} {k : Nat} (hat : s.atBoundary k = true) (hrun : s.parked k = false)
    (harith : s.flag (excReg k) 2 = true) : s.boundary k = some (takeArith k) := by
  simp [State.boundary, hat, hrun, harith]

/-- With no ARITH pending, a boundary takes the interrupt that can be taken (R419). -/
theorem boundary_irq {s v : State} {k : Nat} (hat : s.atBoundary k = true) (h : s.entersIrq k v) :
    s.boundary k = some (takeIrq k) := by
  obtain ⟨b, htake, harith, -⟩ := h
  simp [State.boundary, hat, harith, htake]

/-- The pending ARITH is entered (R408, R415). -/
theorem takeArith_enters {s v : State} {k : Nat} (h : s.entersArith k v) : takeArith k s = .ok () v := by
  obtain ⟨harith, u, henter, rfl⟩ := h
  simp only [takeArith, bind_eq, get_ok, harith, not_true_eq_false, if_false, henter.1, Bool.false_eq_true, landAll_eq,
    enterArith, enterNow_enters henter]
  rfl

/-- The interrupt that can be taken is entered (R417). -/
theorem takeIrq_enters {s v : State} {k : Nat} (h : s.entersIrq k v) : takeIrq k s = .ok () v := by
  obtain ⟨b, htake, harith, henter⟩ := h
  simp only [takeIrq, bind_eq, get_ok, htake, henter.1, Bool.false_eq_true, if_false]
  exact enter_enters henter (by rw [harith, Bool.false_and])

/-- What a boundary takes first is entered there: a pending ARITH of a thread that is not parked, else the interrupt that can be taken
(R419). -/
theorem boundary_enters {s v : State} {k : Nat} (hat : s.atBoundary k = true)
    (h : s.parked k = false ∧ s.entersArith k v ∨ s.entersIrq k v) :
    ∃ m, s.boundary k = some m ∧ settleStop k m s = .ok () v := by
  rcases h with ⟨hrun, h⟩ | h
  · exact ⟨_, boundary_arith hat hrun h.1, catch_ok (takeArith_enters h)⟩
  · exact ⟨_, boundary_irq hat h, catch_ok (takeIrq_enters h)⟩

/-! ### Interrupts -/

/-- With an interrupt that can be taken, a thread that is not stalled takes what its boundary takes first (R417-R419). -/
theorem interruptAt_enters {s v : State} {k : Nat} (hat : s.atBoundary k = true) (hstalled : s.stalled k = false)
    (hirq : s.takable k ≠ none) (h : s.parked k = false ∧ s.entersArith k v ∨ s.entersIrq k v) :
    interruptAt k s = .ok () v := by
  obtain ⟨m, hm, hv⟩ := boundary_enters hat h
  have hgo : ¬ ((s.takable k).isNone = true ∨ s.stalled k = true) := by simp [hirq, hstalled]
  simp only [interruptAt, bind_eq, get_ok, if_neg hgo, hm, hv]

/-- With no interrupt that can be taken, away from a boundary or stalled, a thread takes none (R417, R418). -/
theorem interruptAt_nothing {s : State} {k : Nat}
    (h : s.takable k = none ∨ s.atBoundary k = false ∨ s.stalled k = true) : interruptAt k s = .ok () s := by
  simp only [interruptAt, bind_eq, get_ok]
  split
  case isTrue => rfl
  case isFalse hgo =>
    obtain ⟨hirq, hgoes⟩ := not_or.1 hgo
    have haway : s.atBoundary k = false := (h.resolve_left (by simpa using hirq)).resolve_right hgoes
    rw [boundary_away haway]
    rfl

/-! ### EXCEPTION_ENTRY -/

section
variable {s u v : State} {k vec sub : Nat} {info info2 : W64} {res : Bool}

/-- A fault on its way in goes on where its exception can be entered (R408). -/
theorem entryGoesOn_enters {e : Raised} (hraised : (s.thread k).raised = some e)
    (h : s.enters k ⟨e.vec, e.sub, e.info, e.info2, e.res, false, s.pc k, none⟩ (s.ptrs k) v) :
    entryGoesOn k s = .ok () v := by
  obtain ⟨harith, henter⟩ := h
  have hentry : enterRaised k s = .ok () v := by
    simp only [enterRaised, bind_eq, get_ok, hraised]
    exact enter_enters henter (by rw [harith, Bool.false_and])
  rw [entryGoesOn, bind_ok (get_ok s), hraised, henter.1]
  exact catch_ok hentry

/-- An interrupt's vector of a thread with no fault on its way in is an interrupt (R417). -/
theorem enterVector_interrupt (hnew : (s.thread k).raised = none) :
    enterVector k 0x10 sub info info2 res s = interruptAt k s := by
  rw [enterVector, bind_ok (get_ok s), hnew]
  rfl

/-- A vector of this command at a boundary that takes something first. -/
theorem enterVector_boundary (hnew : (s.thread k).raised = none) (hrun : s.parked k = false) (hvec : vec ≤ 0x0B)
    (hfault : vec ≠ 0x0A) (hat : s.atBoundary k = true) (h : s.entersArith k v ∨ s.entersIrq k v) :
    enterVector k vec sub info info2 res s = .ok () v := by
  obtain ⟨m, hm, hv⟩ := boundary_enters hat (h.imp_left (⟨hrun, ·⟩))
  have hirq : vec ≠ 0x10 := by omega
  simp only [enterVector, bind_eq, get_ok, hnew, hrun, if_neg hirq, if_neg hfault, if_pos hvec, Option.isSome_none,
    Bool.false_eq_true, if_false, hm, hv]

/-- The vector of ARITH at a boundary, with one pending (R415). -/
theorem enterVector_arith (hnew : (s.thread k).raised = none) (hrun : s.parked k = false) (hat : s.atBoundary k = true)
    (h : s.entersArith k v) : enterVector k 0x0A sub info info2 res s = .ok () v := by
  rw [enterVector, bind_ok (get_ok s), hnew, hrun, hat]
  exact catch_ok (takeArith_enters h)

/-- A fault of the instruction about to start, where the boundary lets it pass (R302, R404, R408, R413). -/
theorem enterVector_faults (hnew : (s.thread k).raised = none) (hrun : s.parked k = false) (hvec : vec ≤ 0x0B)
    (hfault : vec ≠ 0x0A) (hpass : s.passes k)
    (hfetch : whenM (vec = vAddress && bit info2 1 && (sub = 0x10 || sub = 0x11)) (fetchDenied k info.toNat) s = .ok () u)
    (h : u.raises k (s.wordVector k vec info) sub info info2 res v) :
    enterVector k vec sub info info2 res s = .ok () v := by
  have hirq : vec ≠ 0x10 := by omega
  simp only [enterVector, bind_eq, get_ok, hnew, hrun, if_neg hirq, if_neg hfault, if_pos hvec, Option.isSome_none,
    Bool.false_eq_true, if_false, boundary_of_passes hpass, beq_eq_decide, hfetch]
  exact catch_ok (enterFault_enters h)

/-- Vectors beyond those of this command, and a parked thread (R404, R412). -/
theorem enterVector_nothing (hnew : (s.thread k).raised = none) (hirq : vec ≠ 0x10) (h : 0x0B < vec ∨ s.parked k = true) :
    enterVector k vec sub info info2 res s = .ok () s := by
  simp only [enterVector, bind_eq, get_ok, hnew, if_neg hirq, Option.isSome_none, Bool.false_eq_true, if_false]
  by_cases hrun : s.parked k = true
  · rw [if_pos hrun]
    rfl
  · have hvec : 0x0B < vec := h.resolve_right hrun
    rw [if_neg hrun, if_neg (by omega), if_neg (by omega)]
    rfl

end

/-- EXCEPTION_ENTRY (R302, R404, R408, R413, R419). -/
theorem exceptionEntry_entersTheVector : exceptionEntryEntersTheVector := by
  intro t vec sub info info2 res s hl
  refine ⟨fun e v hraised h => run_live hl ?goesOn, fun hnew hrun => ⟨fun u v hvec hfault hpass hfetch h => run_live hl ?fault,
    fun v hvec hat h => run_live hl ?arith, fun v hvec hfault hat h => run_live hl ?irq⟩, fun hnew hirq h => ?nothing⟩
  case goesOn =>
    rw [enterVector, bind_ok (get_ok s), hraised]
    exact entryGoesOn_enters hraised h
  case fault => exact enterVector_faults hnew hrun hvec (BitVec.toNat_ne.1 hfault) hpass hfetch h
  case arith =>
    by_cases ha : vec = 0x0A
    · subst ha
      exact enterVector_arith hnew hrun hat h
    · exact enterVector_boundary hnew hrun hvec (BitVec.toNat_ne.1 ha) hat (.inl h)
  case irq => exact enterVector_boundary hnew hrun hvec (BitVec.toNat_ne.1 hfault) hat (.inr h)
  case nothing => exact run_live hl (enterVector_nothing hnew (BitVec.toNat_ne.1 hirq) h)

/-- TAKE_INTERRUPT, or EXCEPTION_ENTRY of its vector, is an interrupt (R417). -/
theorem exec_interrupt {t : Tid} {c : Instr} {s : State} (h : c = .takeInterrupt t ∨
    (s.thread t.k).raised = none ∧ ∃ sub info info2 res, c = .exceptionEntry t 0x10 sub info info2 res) :
    exec c s = run (interruptAt t.k) s := by
  rcases h with rfl | ⟨hnew, sub, info, info2, res, rfl⟩
  · rfl
  · exact run_congr (enterVector_interrupt hnew)

/-- TAKE_INTERRUPT (R417, R418, R419). -/
theorem takeInterrupt_entersItsVector : takeInterruptEntersItsVector := by
  intro t c s hl hc
  rw [exec_interrupt hc]
  refine ⟨fun v hat hstalled h => run_live hl ?irq, fun v hat hstalled hrun hirq h => run_live hl ?arith, fun h => ?nothing⟩
  case irq =>
    obtain ⟨b, htake, -⟩ := id h
    exact interruptAt_enters hat hstalled (by simp [htake]) (.inr h)
  case arith => exact interruptAt_enters hat hstalled hirq (.inl ⟨hrun, h⟩)
  case nothing => exact run_live hl (interruptAt_nothing h)

/-- Settles O23: a boundary takes a pending ARITH, then an interrupt; where it takes neither, the fault given is raised. -/
theorem exceptionsAndInterruptsEnter : Obligations.ExceptionsAndInterruptsEnter :=
  ⟨exceptionEntry_entersTheVector, takeInterrupt_entersItsVector⟩

end Sys2Proof.Machine
end

section
/-! SUPPORT and RESULT. Translation commands (TranslationCommandsComplete): what starts and ends an invalidation, and the host's
answers to translation and page requests. -/

namespace Sys2Proof.Machine

/-! ### Invalidations -/

/-- TLB_INV_CMD has GO, OP and the world where CMO_CMD has GO, OP and the scope (R279, R301). -/
theorem tlbInvCmd_fields {op : Nat} (hop : op < 4) (world : Bool) (r : Req) (s : State) :
    let v := s.brings r .tlbInvCmd (8 + op + 4 * b2n world)
    bit v 3 = true ∧ field v 0 2 = op ∧ bit v 2 = world := cmoCmd_fields hop world r 0 s

/-- An invalidation that starts with none running takes out what it meets and shows BUSY; one of a range names some page (R301). -/
theorem startInv_starts {op : Nat} {world : Bool} {s : State} (hidle : s.flag .tlbInvStatus 0 = false)
    (hlen : op = 0 → s.fld .tlbInvLen 12 45 * 4096 ≠ 0) :
    let a := s.fld .tlbInvVa 12 45 * 4096
    let n := s.fld .tlbInvLen 12 45 * 4096
    startInv op world s =
      .ok () (({ s with tlbInv := some (op, world, a, a + n - 1) } : State).invalidated.setFld .tlbInvStatus 0 1 1) := by
  have hsome : ¬ (op = 0 ∧ s.fld .tlbInvLen 12 45 * 4096 = 0) := fun ⟨h, h0⟩ => hlen h h0
  simp only [startInv, bind_eq, get_ok, hidle, Bool.false_eq_true, if_false, if_neg hsome, set_ok, modify_ok]
  rfl

/-- A write of TLB_INV_CMD with GO that is accepted with no invalidation running starts one (R301). -/
theorem tlbInv_starts {r : Req} {op : Nat} {world : Bool} {s : State} (hop : op < 4)
    (h : s.takes r .tlbInvCmd (8 + op + 4 * b2n world)) :
    let u := s.wrote r .tlbInvCmd (8 + op + 4 * b2n world)
    let a := u.fld .tlbInvVa 12 45 * 4096
    let n := u.fld .tlbInvLen 12 45 * 4096
    u.flag .tlbInvStatus 0 = false → (op = 0 → n ≠ 0) → run (writeReg r .tlbInvCmd (8 + op + 4 * b2n world)) s =
      s.endsBus (({ u with tlbInv := some (op, world, a, a + n - 1) } : State).invalidated.setFld .tlbInvStatus 0 1 1) := by
  intro u a n hidle hlen
  obtain ⟨hgo, hfield, hworld⟩ := tlbInvCmd_fields hop world r s
  refine writeReg_endsBus rfl h ?_
  simp only [writeEffect, hgo, hfield, hworld, whenM, if_true]
  exact startInv_starts hidle hlen

/-- TLB_INV_DONE with no engine instruction left that an invalidation waits for (R301). -/
theorem endInv_ends {s : State} (h : ∀ e ∈ s.trees, ∀ y ∈ e.2.sb, y.inval = true → y.performed = true) :
    endInv s = .ok () (({ s with tlbInv := none } : State).setFld .tlbInvStatus 0 1 0) := by
  have hnone : (s.trees.any fun e => e.2.sb.any fun y => y.inval && !y.performed) = false := by
    simpa using h
  simp only [endInv, bind_eq, get_ok, hnone, whenM, Bool.not_false, if_true, modify_ok, wrf]

/-- The invalidations of translations (R301). -/
theorem translationInvalidations_complete : translationInvalidationsComplete := by
  refine ⟨?range, ?world, ?all, ?done⟩
  case range => exact fun r world s h hidle hlen => tlbInv_starts (op := 0) (by decide) h hidle fun _ => hlen
  case world => exact fun r world s h hidle => tlbInv_starts (op := 1) (by decide) h hidle (absurd · (by decide))
  case all => exact fun r s h hidle => tlbInv_starts (op := 2) (world := false) (by decide) h hidle (absurd · (by decide))
  case done => exact fun s hl h => run_ends_congr (n := skip) hl (endInv_ends h)

/-! ### The host's answers -/

/-- A completion that grants the access and met no Invalidate Request installs its translation and wakes its waiter (R303, R305). -/
theorem atsDone_installs {k hpa size : Nat} {rd wr : Bool} {s : State} {q : AtsReq} (hq : aget s.atsReqs k = some q)
    (hgrant : (if q.wr then wr else rd) = true)
    (hgone : ∀ g ∈ q.gone, ¬ (g.1 < q.addr / max size 4096 * max size 4096 + max size 4096 ∧
      q.addr / max size 4096 * max size 4096 < g.1 + g.2)) :
    let n := max size 4096
    let z := atsSize n
    atsDone k hpa size rd wr s = (do
      installTlb q.grove ⟨q.world, true, q.addr / z * z, z, (hpa / n * n + q.addr % n) / z * z, b2n rd + 2 * b2n wr, z⟩
      rehold q.who (.ats k) .none : M Unit) { s with atsReqs := adel s.atsReqs k } := by
  have hkept : (q.gone.any fun g => decide (g.1 < q.addr / max size 4096 * max size 4096 + max size 4096) &&
      decide (q.addr / max size 4096 * max size 4096 < g.1 + g.2)) = false := by
    simpa using hgone
  simp only [atsDone, bind_eq, get_ok, hq, set_ok, hgrant, if_true, hkept, Bool.false_eq_true, if_false]

/-- A page response with code 0 asks again for the translation (R305). -/
theorem prgDone_success {k : Nat} {s : State} {q : PageReq} {w : Waiter} (hats : s.pcie.ats = true)
    (hq : aget s.pageReqs k = some q) (hw : q.who = some w) :
    prgDone k .success s = (do
      let n ← sendAts ⟨some w, q.addr, q.noWrite, q.world, q.grove, q.wr, true, []⟩
      rehold (some w) (.page k) (.ats n) : M Unit)
      (({ s with pageReqs := adel s.pageReqs k } : State).setFld .priStat 0 9 (s.fld .priStat 0 9 - 1)) := by
  simp only [prgDone, bind_eq, get_ok, hq, set_ok, wrf, modify_ok, whenM, hw, hats, if_true]
  rfl

/-- Any other page response ends the access, and a failure stops page requests (R305). -/
theorem prgDone_fails {k : Nat} {code : PrgCode} {s : State} {q : PageReq} {w : Waiter} (hcode : code ≠ .success)
    (hq : aget s.pageReqs k = some q) (hw : q.who = some w) :
    let v := ({ s with pageReqs := adel s.pageReqs k } : State).setFld .priStat 0 9 (s.fld .priStat 0 9 - 1)
    prgDone k code s = (do
      hostFail (some w) q.addr
      rehold (some w) (.page k) .none : M Unit) (if code = .failure then v.setFld .priStat 32 1 1 else v) := by
  simp only [prgDone, bind_eq, get_ok, hq, set_ok, wrf, modify_ok, whenM, hw]
  cases code with
  | success => exact absurd rfl hcode
  | _ => rfl

/-- The wait for the answer of a page request ends the access; the request stays outstanding (R305). -/
theorem prgExpired_fails {k : Nat} {s : State} {q : PageReq} {w : Waiter} (hq : aget s.pageReqs k = some q)
    (hw : q.who = some w) :
    prgExpired k s = (do
      hostFail (some w) q.addr
      rehold (some w) (.page k) .none : M Unit) { s with pageReqs := aput s.pageReqs k { q with who := none } } := by
  simp only [prgExpired, bind_eq, get_ok, hq, hw, Option.isSome_some, if_true, set_ok]

/-- The host's side of ATS and PRI (R303, R305). -/
theorem hostTranslations_complete : hostTranslationsComplete := by
  refine ⟨?invalidate, ?complete, ?response, ?expiry⟩
  case invalidate => exact fun base size s hl => run_eq_ends hl (atsInvalidate base.toNat size.toNat)
  case complete =>
    exact fun k hpa size rd wr s q hl hq hgrant hgone => run_ends_congr hl (atsDone_installs hq hgrant hgone)
  case response =>
    intro k code s q w hl hats hq hw
    cases code with
    | success => exact run_ends_congr hl (prgDone_success hats hq hw)
    | invalid => exact run_ends_congr hl (prgDone_fails (by decide) hq hw)
    | failure => exact run_ends_congr hl (prgDone_fails (by decide) hq hw)
  case expiry => exact fun k s q w hl hq hw => run_ends_congr hl (prgExpired_fails hq hw)

/-- Settles O39: an invalidation takes out what it meets and is ended, and each answer of the host has its effect. -/
theorem translationCommandsComplete : Obligations.TranslationCommandsComplete :=
  ⟨translationInvalidations_complete, hostTranslations_complete⟩

end Sys2Proof.Machine
end

section
/-! SUPPORT and RESULT. The PCIe port (PciePortCommandsComplete): power states, MSI-X entries, failed requests of the host window,
configuration requests, and the near-bank aperture. -/

namespace Sys2Proof.Machine

/-! ### Power states, vectors and failed requests -/

/-- D3HOT outside a job (R393). -/
theorem enterD3_idle {s : State} (h : s.jobRuns = false) : enterD3 s = .ok () (s.setFld .pciestat 10 1 1) := by
  simp only [enterD3, bind_eq, get_ok, h, Bool.false_eq_true, if_false, wrf, modify_ok]

/-- MSIX_UNMASK at a port that takes requests (R389). -/
theorem unmaskMsix_unmasks {e : MsixEntry} {s : State} (hout : s.pcie.inReset = false) (hawake : s.flag .pciestat 10 = false) :
    unmaskMsix e s = sendPending { s with pcie := { s.pcie with
      table := awrite (0, 0) s.pcie.table e.vec (e.addr, e.data)
      unmasked := awrite false s.pcie.unmasked e.vec true } } := by
  simp only [unmaskMsix, bind_eq, get_ok, hout, hawake, Bool.false_eq_true, not_false_eq_true, and_self, if_true, set_ok]

/-- MSIX_UNMASK in a host reset or in D3hot (R391, R393). -/
theorem unmaskMsix_discarded {e : MsixEntry} {s : State} (h : s.pcie.inReset = true ∨ s.flag .pciestat 10 = true) :
    unmaskMsix e s = .ok () s := by
  have hdeaf : ¬ (¬ s.pcie.inReset = true ∧ ¬ s.flag .pciestat 10 = true) := fun ⟨hout, hawake⟩ => h.elim hout hawake
  simp only [unmaskMsix, bind_eq, get_ok, if_neg hdeaf]
  rfl

/-- What a failed request of the host window does beside poisoning its line (R386, R390). -/
def hostFailure (a : Nat) : HostEnd → M Unit
  | .poisoned => noteAer 12
  | .ecrc => skip
  | .timeout => do
    noteAer 14
    hostEnd a 1
  | .linkDown => hostEnd a 2
  | _ => hostEnd a 1

/-- A failed request of a line of the host window (R390). -/
theorem hostFails_fails {line : Nat} {s : State} (h : inHost (line * 128) = true) (e : HostEnd) :
    hostFails line e s = hostFailure (line * 128) e { s with dead := awrite false s.dead line true } := by
  simp only [hostFails, h, if_true, bind_eq, modify_ok]
  cases e <;> rfl

/-! ### Configuration requests -/

/-- A port that is not ready answers with Configuration Request Retry Status (R391, R394). -/
theorem configure_retries {s : State} (h : s.portReady = false) (c : CfgReq) :
    configure c s = .ok () (s.sent (.answer pcieIface 2 [])) := by
  simp only [configure, bind_eq, get_ok, h, Bool.false_eq_true, not_false_eq_true, if_true]
  rfl

/-- A read of configuration space is answered with the field (R386). -/
theorem configure_reads {s : State} (h : s.portReady = true) (f : CfgField) :
    configure (.read f) s = .ok () (s.configured [s.cfgField f]) := by
  simp only [configure, bind_eq, get_ok, h, not_true_eq_false, if_false]
  rfl

/-- Any other request is answered with no bytes once it has its effect (R386). -/
theorem configure_sets {c : CfgReq} {s u : State} (h : s.portReady = true) (hset : cfgSet c s = .ok () u)
    (hread : ∀ f, c ≠ .read f) : configure c s = .ok () (u.configured []) := by
  rw [configure, bind_ok (get_ok s), if_neg (not_not.2 h), bind_ok hset]
  cases c with
  | read f => exact absurd rfl (hread f)
  | _ => rfl

/-- ATS is disabled (R303). -/
theorem atsOff_eq (s : State) : atsOff s = .ok () (after atsOff s) := by
  obtain ⟨u, hu⟩ : ∃ u, atsOff s = .ok () u := forAll_ok (fun _ _ => ⟨_, rfl⟩) _ _
  rw [after_ok hu, hu]

/-- PRI is enabled or disabled (R305). -/
theorem cfgSet_priEnable (on : Bool) (s : State) : cfgSet (.priEnable on) s = .ok ()
    (after (whenM (on && !s.pcie.pri) (wrf .priStat 32 1 0)) { s with pcie := { s.pcie with pri := on } }) := by
  simp only [cfgSet, bind_eq, get_ok, set_ok]
  cases on && !s.pcie.pri <;> rfl

/-- A configuration request that a ready port takes ends where its effect ends, and is answered (R386). -/
theorem exec_configures {c : CfgReq} {s u : State} (hl : s.live) (h : s.portReady = true) (hset : cfgSet c s = .ok () u)
    (hread : ∀ f, c ≠ .read f := by intro f h; cases h) : exec (.configurationRequest c) s = s.ends (u.configured []) :=
  run_ends_congr (n := skip) hl (configure_sets h hset hread)

/-- The PCIe function (R303, R305, R385-R387, R389-R394). -/
theorem portCommands_complete : portCommandsComplete := by
  intro s hl
  refine ⟨fun hidle => ?sleep, run_eq_ends hl enterD0, run_eq_ends hl (setPcieLink 0 0 0),
    fun speed width flit => run_eq_ends hl (setPcieLink (speedCode speed) (widthCode width) (b2n flit)),
    fun e => ⟨fun hout hawake => ?unmask, fun hdeaf => ?discard⟩,
    fun line hline => ?fail, fun hbusy c => ?retry, fun hready => ?config⟩
  case sleep => exact run_ends_congr (n := skip) hl (enterD3_idle hidle)
  case unmask => exact run_ends_congr hl (unmaskMsix_unmasks hout hawake)
  case discard => exact run_ends_congr (n := skip) hl (unmaskMsix_discarded hdeaf)
  case fail =>
    have hfail (e : HostEnd) : exec (.hostCompletionFailure line e) s =
        s.ends (after (hostFailure (line * 128) e) { s with dead := awrite false s.dead line true }) :=
      run_ends_congr hl (hostFails_fails hline e)
    exact ⟨hfail .linkDown, hfail .timeout, hfail .unsupported, hfail .abort, hfail .poisoned, hfail .ecrc⟩
  case retry => exact run_ends_congr (n := skip) hl (configure_retries hbusy c)
  case config =>
    refine ⟨fun f => ?read, fun _ => ?payload, fun _ => ?readRequest, fun _ => ?timeout, fun _ => ?aer, ?atsOn, ?atsOff,
      fun on => ?pri, fun _ => ?master, fun _ => ?enable, fun _ => ?mask, fun _ => ?vector, fun _ => ?size⟩
    case read => exact run_ends_congr (n := skip) hl (configure_reads hready f)
    case atsOff => exact exec_configures hl hready (atsOff_eq s)
    case pri => exact exec_configures hl hready (cfgSet_priEnable on s)
    all_goals exact exec_configures hl hready rfl

/-! ### The near-bank aperture -/

/-- The port's answers are not announced on the I3C bus (R386, R395). -/
theorem answers_pcie (s : State) (code : Nat) (data : List Nat) :
    s.answers pcieIface code data = s.sent (.answer pcieIface code data) := rfl

/-- An access through BAR2 within its size (R387, R388). -/
theorem bar2_accesses {off n : Nat} {wr : Bool} {bs : List Byte} {s u : State} {out : List (List Byte)}
    (hout : s.pcie.inReset = false) (hawake : s.flag .pciestat 10 = false) (hsize : off + n ≤ 2 ^ (30 + s.pcie.bar2))
    (hparts : mapAll (s.joined (lineParts (s.fld .hostapt 30 22 * 2 ^ 30 + off) n)) (fun p => bar2Part wr p.1 p.2
      ((bs.drop (p.1 - (s.fld .hostapt 30 22 * 2 ^ 30 + off))).take p.2)) s = .ok out u) :
    bar2 off wr n bs s = .ok () (if wr then u else u.answers pcieIface 0 (out.flatten.map BitVec.toNat)) := by
  have hin : ¬ (s.pcie.inReset = true ∨ s.flag .pciestat 10 = true ∨ 2 ^ (30 + s.pcie.bar2) < off + n) := by
    rw [hout, hawake]
    simpa using hsize
  rw [bar2, bind_ok (get_ok s), if_neg hin, bind_ok hparts, answers_pcie]
  cases wr <;> rfl

/-- BAR2_ACCESS (R387, R388). -/
theorem apertures_complete : aperturesComplete :=
  fun _ _ _ _ _ _ _ hl hout hawake hsize hparts => run_ends_congr (n := skip) hl (bar2_accesses hout hawake hsize hparts)

/-- Settles O48: each command's effect is a short sequence of updates in the state in which its condition is met. -/
theorem pciePortCommandsComplete : Obligations.PciePortCommandsComplete := ⟨portCommands_complete, apertures_complete⟩

end Sys2Proof.Machine
end

section
/-! SUPPORT and RESULT. The tide unit (TideUnitCommandsComplete): marks, beacons and holdover; TIDE_SET, the step origin, the commit of
an entry of the tide table, and TT_CTRL. -/

namespace Sys2Proof.Machine

/-! ### Marks, beacons and holdover -/

/-- A mark outside a job takes the value that waits for it as the reference of its sample (R344, R345; log entry 159). -/
theorem tideMarkEdge_waiting {v : W64} {s : State} (hpins : s.tideCfg 0 2 = 1) (hwaits : s.tide.setv = some v)
    (hidle : s.jobRuns = false) :
    tideMarkEdge s = phaseSample v true { s with tide := { s.tide with setv := none } } := by
  simp only [tideMarkEdge, bind_eq, get_ok, if_pos hpins, hwaits, hidle, set_ok]

/-- With no value that waits, or in a job, a mark is the multiple of 2^20 ticks nearest to the count (R345). -/
theorem tideMarkEdge_nearest {s : State} (hpins : s.tideCfg 0 2 = 1) (h : s.tide.setv = none ∨ s.jobRuns = true) :
    tideMarkEdge s = phaseSample (BitVec.ofNat 64 ((s.tideNow + 2 ^ 19) / 2 ^ 20 * 2 ^ 20)) false s := by
  rw [tideMarkEdge, bind_ok (get_ok s), if_pos hpins]
  rcases h with hnone | hjob
  · rw [hnone]
  · rw [hjob]
    cases s.tide.setv <;> rfl

/-- Beacons leave on landings one after the other, each with the part's state as it then is (R347). -/
theorem forAll_sendBeacon (ls : List Nat) (s : State) : forAll ls (fun l => do send (.beacon l (← get).beacon)) s =
    .ok () (ls.foldl (fun (u : State) l => u.sent (.beacon l u.beacon)) s) := by
  induction ls generalizing s with
  | nil => rfl
  | cons l ls ih => exact ih (s.sent (.beacon l s.beacon))

/-- A part with beacons enabled that is not withdrawn, and whose tide unit is not held, sends one on each enabled landing (R347). -/
theorem sendBeacons_sends {s : State} (hen : s.tideCfg 3 1 = 1) (hpresent : s.flag .partState 0 = false)
    (hfree : s.tideHeld = false) : sendBeacons s =
      .ok () (((List.range 16).filter s.enabledLand).foldl (fun (u : State) l => u.sent (.beacon l u.beacon)) s) := by
  have hgo : s.tideCfg 3 1 = 1 ∧ ¬ s.flag .partState 0 = true ∧ ¬ s.tideHeld = true := by simp [hen, hpresent, hfree]
  rw [sendBeacons, bind_ok (get_ok s), if_pos hgo]
  exact forAll_sendBeacon _ s

/-- A loss of beacons that is not yet shown sets LOST and is reported; in a job the landing is fenced, and the upstream landing is lost
to the discipline (R348, R349, R433). -/
theorem beaconLost_loses {l : Nat} {s u : State} (hland : s.landByte l % 4 ≠ 0) (hnew : s.flag (.tideLink l) 0 = false)
    (htold : incident 0x0B 2 3 (unitWord 7 l) 0 (s.reg .tideStatus) (s.setFld (.tideLink l) 0 1 1) = .ok () u) :
    beaconLost l s = (do
      whenM s.jobRuns (fenceLanding l)
      whenM (s.hasUp && l == s.upstream) upstreamLost : M Unit) u := by
  have hgo : s.landByte l % 4 ≠ 0 ∧ ¬ s.flag (.tideLink l) 0 = true := by simp [hland, hnew]
  rw [beaconLost, bind_ok (get_ok s), if_pos hgo, wrf, bind_ok (modify_ok _ s), bind_ok htold]

/-- Holdover that lasts too long ends in loss of LOCK (R349). -/
theorem holdoverEnds_unlocks {s : State} (h : s.flag .tideStatus 1 = true) : holdoverEnds s = setLock false s := by
  rw [holdoverEnds, bind_ok (get_ok s), if_pos h]

/-- The events of the tide unit (R344, R345, R347, R349). -/
theorem tideEvents_complete : tideEventsComplete := by
  refine ⟨fun s hl hpins => ⟨fun v hwaits hidle => ?waiting, fun h => ?nearest⟩, fun s hl hen hpresent hfree => ?beacons,
    fun l s u hl hland hnew htold => ?loss, fun s hl h => ?holdover⟩
  case waiting => exact run_ends_congr hl (tideMarkEdge_waiting hpins hwaits hidle)
  case nearest => exact run_ends_congr hl (tideMarkEdge_nearest hpins h)
  case beacons => exact run_ends_congr (n := skip) hl (sendBeacons_sends hen hpresent hfree)
  case loss => exact run_ends_congr hl (beaconLost_loses hland hnew htold)
  case holdover => exact run_ends_congr hl (holdoverEnds_unlocks h)

/-! ### TIDE_SET -/

/-- A value outside a job, with SOURCE FREE, is the count at once (R344). -/
theorem setTide_free {s : State} (hidle : s.jobRuns = false) (hsource : s.tideCfg 0 2 = 0) (v : W64) :
    setTide v s = .ok () (s.setNow v) := by
  simp only [setTide, bind_eq, get_ok, hidle, Bool.false_eq_true, if_false, hsource, set_ok]

/-- A value outside a job, with SOURCE PINS, waits for the mark (R344). -/
theorem setTide_pins {s : State} (hidle : s.jobRuns = false) (hsource : s.tideCfg 0 2 = 1) (v : W64) :
    setTide v s = .ok () { s with tide := { s.tide with setv := some v } } := by
  simp only [setTide, bind_eq, get_ok, hidle, Bool.false_eq_true, if_false, hsource, set_ok]

/-- A value in a job, or with any other SOURCE, is not used (R344). -/
theorem setTide_ignored {s : State} (h : s.jobRuns = true ∨ 2 ≤ s.tideCfg 0 2) (v : W64) : setTide v s = .ok () s := by
  rw [setTide, bind_ok (get_ok s)]
  split
  case isTrue => rfl
  case isFalse hidle =>
    have hsource : 2 ≤ s.tideCfg 0 2 := h.resolve_left hidle
    obtain ⟨n, hn⟩ := Nat.exists_eq_add_of_le' hsource
    rw [hn]
    rfl

/-- A write of TIDE_SET brings its value to the tide unit. -/
theorem tideSet_ends {r : Req} {v : W64} {s u : State} (h : s.takes r .tideSet v.toNat)
    (hset : setTide v (s.wrote r .tideSet v.toNat) = .ok () u) : exec (.tideSet r v) s = s.endsBus u := by
  refine writeReg_endsBus rfl h ?_
  rw [brings_all rfl rfl]
  exact hset

/-! ### The step origin and the tide table -/

/-- A change of STEP_ORIGIN by a write makes relative times known, and arms their entries (R351, R356). -/
theorem originSet_arms (s : State) : originSet s = ttArmRel (s.setFld .tideStatus 22 1 1) := by
  rw [originSet, wrf, bind_ok (modify_ok _ s)]

/-- With TIDE_NOW a STEP_PERIOD past the origin, the origin moves on by it and relative entries are armed (R356). -/
theorem originStep_advances {s : State} (hperiod : s.fld .stepPeriod 0 32 ≠ 0)
    (hpast : (s.reg .stepOrigin + BitVec.ofNat 64 (s.fld .stepPeriod 0 32)).toNat ≤ s.tideNow) :
    originStep s =
      ttArmRel (s.setReg .stepOrigin (s.reg .stepOrigin + BitVec.ofNat 64 (s.fld .stepPeriod 0 32))) := by
  simp only [originStep, bind_eq, get_ok, if_pos (And.intro hperiod hpast), wr_ok]

/-- A write of word 3 of an entry commits the words held in shadow with it, cancels a deadline that is pending for the entry, and arms
it (R352). -/
theorem putReg_ttEntry_commit (r : Req) (i : Nat) (v : W64) (s : State) :
    let u := ([0, 1, 2].map fun w => Reg.ttEntry i w).foldl State.unshadow (s.setReg (.ttEntry i 3) v)
    putReg r (.ttEntry i 3) v s =
      ttArm i { u with tide := { u.tide with pend := u.tide.pend.filter fun p => p.entry != i } } := rfl

/-- A write of TT_CTRL with EN treats entries whose time has passed as just armed, where EN was 0 (R351). -/
theorem writeEffect_ttCtrl (r : Req) (en : Bool) (old : W64) (s : State) :
    writeEffect r .ttCtrl old (s.brings r .ttCtrl (b2n en)) = whenM (en && !bit old 0) ttEnable := by
  have hen : (b2n en).testBit 0 = en := by cases en <;> rfl
  simp only [writeEffect, bit_brings (g := .ttCtrl) rfl (by decide : 0 < 32), hen]

/-- The commands of the tide unit (R344, R351, R352, R356). -/
theorem tideCommands_complete : tideCommandsComplete := by
  refine ⟨fun r v s h => ⟨fun hidle hfree => ?free, fun hidle hpins => ?pins, fun hignored => ?ignored⟩,
    fun r v s h => ?origin, fun s hl hperiod hpast => ?advance, fun r e v s h => ?commit, fun r en s h => ?enable⟩
  case free => exact tideSet_ends h (setTide_free hidle hfree v)
  case pins => exact tideSet_ends h (setTide_pins hidle hpins v)
  case ignored => exact tideSet_ends h (setTide_ignored hignored v)
  case origin => exact writeReg_ends_congr rfl h (originSet_arms _)
  case advance => exact run_ends_congr hl (originStep_advances hperiod hpast)
  case commit =>
    have hends : exec (.ttEntryCommit r e v) s = s.ends (after (withRegs (putReg r _ _)) s) := writeReg_puts h
    rw [hends]
    simp only [after, withRegs_congr (putReg_ttEntry_commit r e _ s)]
  case enable => exact writeReg_ends_congr rfl h (congrFun (writeEffect_ttCtrl r en _ s) _)

/-- Settles O41: each event is the action of the unit where its condition is met, and each command a register write with its effect. -/
theorem tideUnitCommandsComplete : Obligations.TideUnitCommandsComplete := ⟨tideEvents_complete, tideCommands_complete⟩

end Sys2Proof.Machine
end

section
/-! SUPPORT and RESULT. Landing descriptors (LandingDescriptorsComplete): the descriptor that a landing takes when its queue's turn comes,
and the ends of those that it runs. -/

namespace Sys2Proof.Machine

/-! ### A descriptor is taken, or goes on -/

/-- A landing takes the descriptor of a queue whose turn it is; a well-formed one sends its packets, and a malformed one has failed
(R373, R374, R378). -/
theorem startRun_takes {l n op q : Nat} {s u : State} {d : List Byte} (hq : q = 0x1800 + 64 * l + n) (hnew : s.lrun l q = none)
    (hland : s.landByte l % 4 ≠ 0) (hroom : (s.link l).runs.length < 16) (hturn : s.landTurn l = some q)
    (hentry : headEntry q s = .ok (some d) u) (hop : dOp d = op) :
    startRun l n op s = (if landDescOk s d then pumpLanding l else failRun l q 0 1 0 : M Unit) (u.taken l q d) := by
  have hvisits : ¬ (s.landByte l % 4 = 0 ∨ 16 ≤ (s.link l).runs.length ∨ s.landTurn l ≠ some q) := by
    rintro (h | h | h)
    · exact hland h
    · omega
    · exact h hturn
  subst hq
  rw [startRun, bind_ok (get_ok s)]
  simp only [hnew, if_neg hvisits]
  rw [bind_ok hentry]
  simp only [hop, ne_eq, not_true_eq_false, false_and, if_false]
  rw [visited, bind_ok (modify_ok ..), bind_ok (modify_ok ..)]
  rfl

/-- A descriptor that runs goes on when its command comes again (R374). -/
theorem startRun_goesOn {l n : Nat} {s : State} {r : LRun} (hrun : s.lrun l (0x1800 + 64 * l + n) = some r) :
    startRun l n (dOp r.desc) s = pumpLanding l s := by
  rw [startRun, bind_ok (get_ok s)]
  simp only [hrun, decide_true, whenM, if_true]

/-- LAND_WRITE, LAND_READ, REDUCE and REDUCE_COPY are one command, each for its OP (R373, R379). -/
theorem exec_landingRow {e : (Fin 16 → Fin 64 → Instr) × Nat}
    (he : e ∈ ([(.landWrite, 1), (.landRead, 2), (.reduce, 3), (.reduceCopy, 4)] : List ((Fin 16 → Fin 64 → Instr) × Nat)))
    (l : Fin 16) (n : Fin 64) (s : State) : exec (e.1 l n) s = run (startRun l n e.2) s := by
  simp only [List.mem_cons, List.not_mem_nil, or_false] at he
  rcases he with rfl | rfl | rfl | rfl <;> rfl

/-- The commands that take a descriptor (R373, R374, R378). -/
theorem landingDescriptors_start : landingDescriptorsStart := by
  intro e he l n s u d q
  refine ⟨fun hl hnew hland hroom hturn hentry hop => ?_, fun r hl hrun hop => ?_⟩
  · have htakes := startRun_takes (n := n) (q := q) rfl hnew hland hroom hturn hentry hop
    refine ⟨fun hok => ?_, fun hbad => ?_⟩
    · rw [exec_landingRow he]
      exact run_ends_congr hl (by rw [htakes, if_pos hok])
    · rw [exec_landingRow he]
      exact run_ends_congr hl (by rw [htakes, hbad, if_neg Bool.false_ne_true])
  · rw [exec_landingRow he, ← hop]
    exact run_ends_congr hl (startRun_goesOn hrun)

/-! ### Ends -/

/-- No packet of a queue's descriptor awaits its reply. -/
theorem any_await_false {q : Nat} {as : List Await} (h : ∀ a ∈ as, a.queue ≠ q) : (as.any fun a => a.queue = q) = false := by
  simpa using h

/-- A descriptor that has sent all its rows and its NOTIFY, and awaits nothing, ends well (R377). -/
theorem endRun_endsGood {l n q : Nat} {s : State} {r : LRun} (hq : q = 0x1800 + 64 * l + n) (hrun : s.lrun l q = some r)
    (hfine : r.err = none) (hsent : ldesc r.desc 0x24 2 ≤ r.row) (hreplied : ∀ a ∈ (s.link l).await, a.queue ≠ q)
    (htold : r.notify = true ∨ (ldesc r.desc 3 1).testBit 3 = false) : endRun l n s = endGood l r s := by
  subst hq
  rw [endRun, bind_ok (get_ok s)]
  simp only [hrun, any_await_false hreplied]
  refine congrFun (if_pos ⟨?_, hsent, Bool.false_ne_true, ?_⟩) s
  · rw [hfine]; rfl
  · rcases htold with h | h <;> simp [h]

/-- A descriptor that has failed and awaits nothing ends with its code (R378). -/
theorem endFailed_endsBad {l n q code sub : Nat} {s : State} {r : LRun} (hq : q = 0x1800 + 64 * l + n) (hrun : s.lrun l q = some r)
    (hfailed : r.err = some (code, sub)) (hreplied : ∀ a ∈ (s.link l).await, a.queue ≠ q) :
    endFailed l n s = endBad l r code sub s := by
  subst hq
  rw [endFailed, bind_ok (get_ok s)]
  simp only [hrun, hfailed, any_await_false hreplied, Bool.false_eq_true, if_false]

/-- A packet that gets no reply in time fails its descriptor with TIMEOUT (R378). -/
theorem packetTimeout_fails {l tid : Nat} {s : State} {a : Await}
    (hwait : ((s.link l).await.find? fun a => a.tid = tid) = some a) :
    packetTimeout l tid s = failRun l a.queue a.row 6 0 (s.replied l tid) := by
  rw [packetTimeout, bind_ok (get_ok s)]
  simp only [hwait]
  rw [bind_ok (modify_ok ..)]
  rfl

/-- The ends of descriptors (R377, R378). -/
theorem landingDescriptors_end : landingDescriptorsEnd := by
  refine ⟨?done, ?failed, ?timeout⟩
  case done =>
    exact fun l n s r hl hrun hfine hsent hreplied htold =>
      run_ends_congr hl (withRegs_congr (endRun_endsGood rfl hrun hfine hsent hreplied htold))
  case failed =>
    exact fun l n s r code sub hl hrun hfailed hreplied =>
      run_ends_congr hl (withRegs_congr (endFailed_endsBad rfl hrun hfailed hreplied))
  case timeout => exact fun l tid s a hl hwait => run_ends_congr hl (packetTimeout_fails hwait)

/-- Settles O46: a descriptor is taken when its queue's turn has come, and ends once it awaits nothing. -/
theorem landingDescriptorsComplete : Obligations.LandingDescriptorsComplete := ⟨landingDescriptors_start, landingDescriptors_end⟩

end Sys2Proof.Machine
end

section
/-! SUPPORT and RESULT. Landing packets (PacketsComplete): what a packet that arrives for this part leads to; requests served and
answered, replies that end a wait, and the journal's packets. -/

namespace Sys2Proof.Machine

/-! ### Arrival -/

/-- A packet that arrives for this part on a landing that carries traffic, with its CRC right, is handled (R369, R433). -/
theorem arrives_receives {l : Nat} {p : Packet} {s : State} (h : s.receives l p) (m : M Unit) : arrives l p m s = m s := by
  obtain ⟨⟨hup, hquiet⟩, hfence, hpart, hcrc⟩ := h
  have hhere : s.landUp l = true ∧ ¬ (s.link l).retrain = true ∧ ¬ s.flag .landFence l = true ∧ p.dpart.toNat = s.partId := by
    simp [hup, hquiet, hfence, hpart]
  rw [arrives, bind_ok (get_ok s), if_pos hhere, if_neg (not_not_intro hcrc)]

/-- A request that is served does what its serving does from the state in which it arrives (R249, R380). -/
theorem request_serves {l : Nat} {p : Packet} {s u : State} {m : Req → M Unit} (h : s.serves l p)
    (hm : m (landReq l p.world) s = .ok () u) : arrives l p (request l p m) s = .ok () u := by
  obtain ⟨hreceives, hworld, hfirst⟩ := h
  have hgranted : ¬ (¬ p.world = true ∧ s.job.drained = true) := by
    rintro ⟨hjob, hdrained⟩
    rcases hworld with h | h
    · exact hjob h
    · exact Bool.false_ne_true (h.symm.trans hdrained)
  have hbehind : (decide (p.type = 4) && (s.link l).inq.any fun e => e.1.type = 4 && samePlace p e.1) = false := by
    by_cases htype : p.type = 4
    · simpa [htype] using hfirst htype
    · rw [decide_eq_false htype, Bool.false_and]
  rw [arrives_receives hreceives, request, bind_ok (get_ok s), if_neg hgranted, accepted, bind_ok (get_ok s)]
  simp only [hbehind, Bool.false_eq_true, if_false]
  exact catch_ok hm

/-- A packet for another part goes on with one hop less, where it has hops left and a route (R372). -/
theorem forward_sendsOn {l o : Nat} {p : Packet} {s : State} (hflows : s.flows l) (hfence : s.flag .landFence l = false)
    (hother : p.dpart.toNat ≠ s.partId) (hhops : p.hops ≠ 0) (hroute : s.route p.dpart.toNat = some o) :
    forward l p s = sendOn .fwd o (hopOn p) s := by
  obtain ⟨hup, hquiet⟩ := hflows
  have hgoes : s.landUp l = true ∧ ¬ (s.link l).retrain = true ∧ ¬ s.flag .landFence l = true ∧ p.dpart.toNat ≠ s.partId := by
    simp [hup, hquiet, hfence, hother]
  rw [forward, bind_ok (get_ok s), if_pos hgoes, if_neg hhops]
  simp only [hroute]

/-! ### Requests -/

section
variable {l : Nat} {p : Packet} {r : Req} {s u v w x y : State}

/-- A WRITE whose range is granted is written, and its ACK goes back (R375). -/
theorem serveWrite_writes {g : List Seg} (hrange : inbound l r true p.addr.toNat p.len s = .ok (.ok g) u)
    (hwrite : writeSegs r g (pktBytes p) u = .ok true v) (hack : sendAck p 0 0 0 v = .ok () w) :
    serveWrite l p r s = .ok () w := by
  rw [serveWrite, bind_ok hrange]
  dsimp only
  rw [bind_ok hwrite]
  exact hack

/-- A READREQ whose range is granted and readable is answered with a READCPL of its bytes, and an ACK (R375; log entry 46). -/
theorem serveRead_answers {g : List Seg} {b : PBytes} (hrange : inbound l r false p.addr.toNat p.len s = .ok (.ok g) u)
    (hread : readSegs r g u = .ok (some b) v)
    (hreply : sendReply (v.mkPacket p.spart.toNat 3 p.world p.addr.toNat 0 p.tid.toNat (pmaskOf p.addr.toNat b) p.len (b.map (·.1))) v
      = .ok () w) (hack : sendAck p 0 0 0 w = .ok () x) : serveRead l p r s = .ok () x := by
  rw [serveRead, bind_ok hrange]
  dsimp only
  rw [bind_ok hread]
  dsimp only
  rw [bind_ok (get_ok v), bind_ok hreply]
  exact hack

/-- A REDUCE of a known ROP and RFMT combines its elements with those of memory, and its ACK tells the conditions (R375, R379, R380). -/
theorem serveReduce_combines {gb gd : List Seg} {b : PBytes} {rop f n : Nat} (hrop : p.aux.toNat / 2 ^ 52 % 16 = rop)
    (hf : p.aux.toNat / 2 ^ 56 % 8 = f) (hn : p.data.length / redA f * redB f = n) (hfree : s.testing 8 l = false)
    (hrop2 : rop ≤ 2) (hf2 : f ≤ 2)
    (hsource : inbound l r false (if p.aux.toNat.testBit 59 then p.aux.toNat % 2 ^ 52 else p.addr.toNat) n s = .ok (.ok gb) u)
    (htarget : inbound l r true p.addr.toNat n u = .ok (.ok gd) v) (hread : readSegs r gb v = .ok (some b) w)
    (hwrite : writeSegs r gd (combineAll rop f (pktBytes p) b).1 w = .ok true x)
    (hack : sendAck p (if (combineAll rop f (pktBytes p) b).1.any (·.2) then 9 else 0) 0 (combineAll rop f (pktBytes p) b).2 x
      = .ok () y) : serveReduce l p r s = .ok () y := by
  subst hrop hf hn
  have hknown : ¬ (2 < p.aux.toNat / 2 ^ 52 % 16 ∨ 2 < p.aux.toNat / 2 ^ 56 % 8) := by omega
  rw [serveReduce, bind_ok (get_ok s), if_neg (Bool.eq_false_iff.1 hfree)]
  dsimp only
  rw [if_neg hknown, bind_ok hsource]
  dsimp only
  rw [bind_ok htarget]
  dsimp only
  rw [bind_ok hread]
  dsimp only
  rw [bind_ok hwrite]
  exact hack

end

/-- Requests and packets for other parts (R369, R372, R375, R379). -/
theorem packetRequests_complete : packetRequestsComplete := by
  refine ⟨?forward, ?write, ?read, ?reduce, ?notify⟩
  case forward =>
    exact fun l p s o hl hflows hfence hother hhops hroute =>
      run_ends_congr hl (forward_sendsOn hflows hfence hother hhops hroute)
  case write =>
    exact fun l p s u v w g hl h hrange hwrite hack =>
      run_live hl (request_serves h (serveWrite_writes hrange hwrite hack))
  case read =>
    exact fun l p s u v w x g b hl h hrange hread hreply hack =>
      run_live hl (request_serves h (serveRead_answers hrange hread hreply hack))
  case reduce =>
    intro l p s u v w x y gb gd b rop f n r hl h hfree hrop hf hsource htarget hread hwrite hack
    exact run_live hl (request_serves h (serveReduce_combines rfl rfl rfl hfree hrop hf hsource htarget hread hwrite hack))
  case notify =>
    intro l p s u v hl h hbump hack
    exact run_live hl (request_serves h ((bind_ok hbump).trans hack))

/-! ### Replies -/

/-- What awaits a reply of a TID was sent with it (R374). -/
theorem tid_of_awaited {s : State} {tid part : Nat} {dropped : Bool} {a : Await} (h : s.awaited tid part dropped = some a) :
    a.tid = tid := by
  unfold State.awaited at h
  split at h
  case isTrue => cases h
  case isFalse =>
    have hfound := List.find?_some h
    simp only [Bool.and_eq_true, decide_eq_true_eq] at hfound
    exact hfound.1

/-- A packet that was awaited is so no longer. -/
theorem answered_eq {s : State} {a : Await} {tid : Nat} (htid : a.tid = tid) : s.answered a = s.replied (tidLand tid) a.tid := by
  rw [← htid]
  rfl

/-- A READCPL that answers a packet of a descriptor that runs is written to local memory, and its landing goes on (R377). -/
theorem readDone_writes {p : Packet} {s u v w x : State} {a : Await} {r : LRun} {g : List Seg} {m off : Nat}
    (hm : tidLand p.tid.toNat = m) (hoff : p.addr.toNat - rowAddr (ldesc r.desc 0x10 8) (ldesc r.desc 0x2C 4) a.row = off)
    (hwait : s.awaited p.tid.toNat p.spart.toNat false = some a)
    (htype : a.pkt.type.toNat = 2) (haddr : a.pkt.addr = p.addr) (hlen : a.pkt.len = p.len) (hrun : s.lrun m a.queue = some r)
    (hrange : landSegs (landReq m (s.qWorld a.queue)) true ((rowAddr (ldesc r.desc 8 8) (ldesc r.desc 0x28 4) a.row + off) % 2 ^ 64)
      p.len s = .ok (.ok g) u)
    (hwrite : writeSegs (landReq m (s.qWorld a.queue)) g (pktBytes p) (u.replied m a.tid) = .ok true v)
    (hmark : changeRun m a.queue (fun r => { r with poisoned := r.poisoned || (pktBytes p).any (·.2) }) v = .ok () w)
    (hpump : pumpLanding m w = .ok () x) : readDone p s = .ok () x := by
  have htid := tid_of_awaited hwait
  have hanswers : ¬ (a.pkt.type.toNat ≠ 2 ∨ a.pkt.addr ≠ p.addr ∨ a.pkt.len ≠ p.len) := by simp [htype, haddr, hlen]
  subst hm hoff
  rw [readDone, bind_ok (get_ok s)]
  simp only [hwait, if_neg hanswers, htid, hrun]
  refine catch_ok ?_
  rw [bind_ok hrange]
  dsimp only
  rw [bind_ok (modify_ok ..), answered_eq htid, bind_ok hwrite, if_pos rfl, bind_ok hmark]
  exact hpump

/-- An ACK with code OK or POISON ends the wait of a packet other than a READREQ, with its conditions and poison (R377, R380). -/
theorem ackPacket_ends {p : Packet} {s u : State} {a : Await} {m code : Nat} (hm : tidLand p.tid.toNat = m)
    (hcode : p.addr.toNat % 256 = code) (hown : p.tid.toNat < 2 ^ 31)
    (hwait : s.awaited p.tid.toNat p.spart.toNat false = some a) (htype : a.pkt.type.toNat ≠ 2) (hfine : code = 0 ∨ code = 9)
    (hmark : changeRun m a.queue (fun r => { r with
      conds := r.conds ||| p.addr.toNat / 2 ^ 16 % 128
      poisoned := r.poisoned || code = 9 }) (s.replied m a.tid) = .ok () u) : ackPacket p s = pumpLanding m u := by
  have hnone : (decide (code = 4) || decide (code = 5)) = false := by rcases hfine with rfl | rfl <;> rfl
  have hcrc : code ≠ 8 := by rcases hfine with rfl | rfl <;> decide
  subst hm hcode
  rw [ackPacket]
  dsimp only
  rw [if_neg (Nat.not_le.2 hown), bind_ok (get_ok s)]
  simp only [hnone, hwait, if_neg hcrc, if_pos hfine, if_pos htype]
  rw [bind_ok (modify_ok ..), answered_eq (tid_of_awaited hwait), bind_ok hmark]

/-- Replies (R377, R380). -/
theorem packetReplies_complete : packetRepliesComplete := by
  refine ⟨?readcpl, ?ack⟩
  case readcpl =>
    intro l p s u v w x a r g m d off hl h hwait htype haddr hlen hrun hrange hwrite hmark hpump
    exact run_live hl ((arrives_receives h _).trans
      (readDone_writes rfl rfl hwait htype haddr hlen hrun hrange hwrite hmark hpump))
  case ack =>
    intro l p s u a m code hl h hown hwait htype hfine hmark
    exact run_ends_congr hl ((arrives_receives h _).trans (ackPacket_ends rfl rfl hown hwait htype hfine hmark))

/-! ### The journal's packets -/

/-- A part of a page joins its record (R339, R383). -/
theorem journalPacket_part {l : Nat} {p : Packet} {s : State} {r : RxRec} (hoff : p.addr.toNat % 2 ^ 32 ≠ 0)
    (hrec : (s.replica.recs.find? fun y => y.num = p.addr.toNat / 2 ^ 32) = some r) :
    journalPacket l p s = (do rxPart l r p; handleDue p 9 : M Unit) s := by
  rw [journalPacket]
  dsimp only
  rw [bind_ok (get_ok s)]
  simp only [if_neg hoff, hrec]

/-- The replica once a record's number is known to be one that the partner may send now; another number begins the journal anew (R383;
log entry 162). -/
def Replica.begun (x : Replica) (num : Nat) : Replica :=
  if x.restarts num then
    { x with next := some num, recs := [], early := x.early.filter fun e => e.addr.toNat / 2 ^ 32 = num }
  else x

/-- A record joins those that are not whole, and the parts of its page that came before it join it (R339, R383). -/
theorem journalPacket_record {l num : Nat} {p : Packet} {s : State} {x : Replica} (hnum : p.addr.toNat / 2 ^ 32 = num)
    (hx : s.replica.begun num = x) (hoff : p.addr.toNat % 2 ^ 32 = 0) :
    journalPacket l p s = (do
      forAll (x.early.filter fun e => e.addr.toNat / 2 ^ 32 = num) fun e => do
        match (← get).replica.recs.find? fun y => y.num = num with
        | some r => rxPart l r e
        | none => skip
      handleDue p 9 : M Unit) { s with replica := { x with
        recs := x.recs ++ [rxRecord num p.len p.data], early := x.early.filter fun e => e.addr.toNat / 2 ^ 32 ≠ num } } := by
  subst hnum hx
  rw [journalPacket]
  dsimp only
  rw [bind_ok (get_ok s)]
  simp only [if_pos hoff]
  rw [bind_ok (modify_ok ..)]
  rfl

/-- A JACK that accepts the oldest record takes it out, the next records are sent, and a commit that waited for it is over (R336,
R383). -/
theorem takeJack_accepts {ok : Bool} {num : Nat} {s u : State} {r : JRec} {q : List JRec} (hok : ok = true)
    (hfirst : s.journal.unacked = r :: q) (hnum : r.num = num) (hactive : s.fld .epStatus 37 2 = 1)
    (hgo : (do
      pumpJournal 8
      whenM (s.commit.step = 4 && r.kind = 2) flip : M Unit) { s with journal := { s.journal with unacked := q } } = .ok () u) :
    takeJack ok num s = .ok () u := by
  have hmine : ¬ (r.num ≠ num ∨ s.fld .epStatus 37 2 ≠ 1) := by simp [hnum, hactive]
  rw [takeJack, bind_ok (get_ok s)]
  simp only [hfirst, if_neg hmine]
  rw [bind_ok (set_ok ..), if_pos hok]
  exact hgo

/-- The journal's packets (R336, R339, R383). -/
theorem journalPackets_complete : journalPacketsComplete := by
  refine ⟨?journal, ?jack⟩
  case journal =>
    intro l p s hl h num mine
    refine ⟨fun hoff => ?record, fun r hoff hrec => ?part⟩
    case record => exact run_ends_congr hl ((arrives_receives h _).trans (journalPacket_record rfl rfl hoff))
    case part => exact run_ends_congr hl ((arrives_receives h _).trans (journalPacket_part hoff hrec))
  case jack =>
    intro l p s u r q hl h hfirst hnum hactive haccepts hgo
    exact run_ends_congr hl
      (bind_ok ((arrives_receives h _).trans (takeJack_accepts haccepts hfirst hnum hactive hgo)))

/-- Settles O45: a packet that arrives is handled from the state in which it arrives, and a request that is served is so at once. -/
theorem packetsComplete : Obligations.PacketsComplete :=
  ⟨packetRequests_complete, packetReplies_complete, journalPackets_complete⟩

end Sys2Proof.Machine
end

section
/-! SUPPORT and RESULT. Landing links (LandingLinksComplete), refuted: a DATA flit that arrives, in sequence and without symbol errors,
and has no effect in the model. -/

namespace Sys2Proof.Machine

/-- The first DATA flit of a landing's peer: 156 bytes 0, the first symbol of its codeword the first of the stream, no symbol errors. -/
def firstFlit : DataFlit := ⟨List.replicate 156 0, 0, []⟩

/-- Landing 0 is ACTIVE, and has received nothing. -/
def activeLanding : State := State.reset.setFld (.landStatus 0) 0 3 2

/-- A codeword without symbol errors decodes on a landing that is up (R363). -/
theorem codewordAt_clean {l : Nat} {s : State} (hup : s.landUp l = true) (first : Nat) : codewordAt l first [] s = .ok (some []) s := by
  rw [codewordAt, bind_ok (get_ok s), if_neg (not_not_intro hup)]
  rfl

/-- KIND of the flit with SEQ 0 and ACK 4095, as the model lays it out, is not that of DATA: in `flitBytes` the
shifts bind more tightly than %, so that ACK and KIND are taken modulo 4096 <<< 12 and 8 <<< 24 and neither is moved to its place, bits
[23:12] and [26:24] (R364). -/
theorem firstFlit_kind_ne_data : ¬ leAt (flitXor (flitBytes 1 0 4095 firstFlit.content) []) 0 4 / 2 ^ 24 % 8 = 1 := by decide +kernel

/-- The landing does not take the flit for a DATA flit, and it has no effect. -/
theorem takeData_firstFlit {l : Nat} {s : State} (hup : s.landUp l = true) : takeData l 0 4095 firstFlit s = .ok () s := by
  rw [takeData]
  refine (bind_ok (codewordAt_clean hup 0)).trans ?_
  exact congrFun (if_neg firstFlit_kind_ne_data) s

/-- The command that brings the flit leaves the state as it was. -/
theorem exec_firstFlit {l : Fin 16} {s : State} (hl : s.live) (hup : s.landUp l = true) :
    exec (.data l 0 4095 firstFlit) s = s.ends s :=
  run_live hl (takeData_firstFlit hup)

/-- Two states in which a command ends alike have the same landings. -/
theorem link_eq_of_ends {s u v : State} (h : s.ends u = s.ends v) (l : Nat) : u.link l = v.link l := by
  have hqueue : u.queueOf s = v.queueOf s := Host.Outcome.next.inj h
  calc u.link l = (u.queueOf s).link l := rfl
    _ = (v.queueOf s).link l := by rw [hqueue]
    _ = v.link l := rfl

/-- Refutes O44: on a landing that is ACTIVE, the DATA flit with the SEQ expected does not move the SEQ expected (R366), since the header
that the model gives it does not say DATA. -/
theorem not_landingLinksComplete : ¬ Obligations.LandingLinksComplete := by
  rintro ⟨-, -, hdata, -⟩
  have hlive : activeLanding.live := ⟨rfl, rfl⟩
  have hup : activeLanding.landUp 0 = true := by decide +kernel
  have hstated := hdata 0 0 4095 firstFlit activeLanding hlive ⟨hup, rfl⟩ (.inl rfl)
  have hexpect := congrArg LinkSt.expect (link_eq_of_ends ((exec_firstFlit (l := 0) hlive hup).symm.trans hstated) 0)
  exact absurd hexpect (by decide +kernel)

end Sys2Proof.Machine
end

section
/-! SUPPORT and RESULT. Resets by the host (HostResetsComplete): a host reset up to what it takes from the port, and what is left of it
without a job and without a scrub that must end first. -/

namespace Sys2Proof.Machine

/-- A host reset has begun: it counts, RESET is shown, D3hot is left, and the port takes no more requests (R391 step 1). -/
def State.resetBegun (s : State) : State :=
  let x := ((s.satFld .pciestat 16 16).setFld .pciestat 9 1 1).setFld .pciestat 10 1 0
  { x with pcie := { x.pcie with inReset := true } }

/-- Configuration space has its reset values, but for the sticky fields of AER, and RESET is shown no more (R391 step 7). -/
def State.resetEnded (s : State) : State :=
  ({ s with pcie := { PcieSt.init with aer := s.pcie.aer, aerLog := s.pcie.aerLog } } : State).setFld .pciestat 9 1 0

/-- The end of the host-window requests that waited in s when the reset began (R391 step 5). -/
def endWaitsOf (s : State) : M Unit := endHostWaits s.hostWaits fun w => s.jobRuns && s.jobWaiter w

/-- Once the port holds nothing, a host reset goes on at once, but during a re-rig, which completes first (R391 step 3). -/
theorem hostReset_resets {s u : State} (hport : resetPort s.resetBegun = .ok () u) :
    hostReset s = (if s.pstate = 2 then endWaitsOf s else do
      resetGo
      endWaitsOf s : M Unit) u := by
  rw [hostReset, bind_ok (get_ok s)]
  refine (bind_ok (modify_ok ..)).trans <| (bind_ok (modify_ok ..)).trans <| (bind_ok (modify_ok ..)).trans <|
    (bind_ok (modify_ok ..)).trans <| (bind_ok hport).trans ?_
  by_cases hrerig : s.pstate = 2
  · rw [if_pos hrerig, if_neg (not_not_intro hrerig)]
    rfl
  · rw [if_neg hrerig, if_pos hrerig]
    rfl

theorem endReset_ok (s : State) : endReset s = .ok () s.resetEnded := rfl

/-- Without a job, and without a scrub other than of the far bank, nothing must end before the reset does (R391 steps 4 to 7, R461). -/
theorem resetGo_idle {s : State} (hidle : s.jobRuns = false) (hscrub : s.flag .scrubStatus 0 = false ∨ s.job.far = true) :
    resetGo s = .ok () s.resetEnded := by
  have hjob : ¬ (s.jobRuns = true ∧ ¬ s.flag .structStatus 17 = true) := by simp [hidle]
  have hwait : ¬ (s.flag .scrubStatus 0 = true ∧ ¬ s.job.far = true) := by
    rintro ⟨hscrubs, hnear⟩
    rcases hscrub with h | h
    · exact Bool.false_ne_true (h.symm.trans hscrubs)
    · exact hnear h
  rw [resetGo, bind_ok (get_ok s), if_neg hjob, if_neg hwait, endReset_ok]

/-- Function Level Reset, Hot Reset, Link Disable and PERST_N are one reset (R391). -/
theorem exec_hostReset {c : Instr} (hc : c ∈ [Instr.flr, .hotReset, .linkDisable, .perstN]) (s : State) :
    exec c s = run hostReset s := by
  simp only [List.mem_cons, List.not_mem_nil, or_false] at hc
  rcases hc with rfl | rfl | rfl | rfl <;> rfl

/-- Settles O47: all four are one reset, which after its first two steps ends the waits at once, ends itself, or has a job to end. -/
theorem hostResetsComplete : Obligations.HostResetsComplete := by
  intro c hc s u hl x waits hport
  have hreset := hostReset_resets hport
  rw [exec_hostReset hc]
  refine ⟨fun hrerig => ?rerig, fun hgoes hidle hscrub => ?idle, fun hgoes _ => ?job⟩
  case rerig =>
    rw [if_pos hrerig] at hreset
    exact run_ends_congr hl hreset
  case idle =>
    rw [if_neg hgoes, bind_ok (resetGo_idle hidle hscrub)] at hreset
    exact run_ends_congr hl hreset
  case job =>
    rw [if_neg hgoes] at hreset
    exact run_ends_congr hl hreset

end Sys2Proof.Machine
end

section
/-! SUPPORT and RESULT. Management messages and firmware updates (ManagementCommandsComplete): commands that end with their answer;
what the management master reads and writes; sensors that are told; components verified and activated. -/

namespace Sys2Proof.Machine

/-! ### Commands that end with their answer -/

/-- An answer is one message, after an in-band interrupt where the I3C bus may have one (R395). -/
theorem answer_ok (iface code : Nat) (data : List Nat) (s : State) :
    answer iface code data s = .ok () (s.answers iface code data) := by
  rw [answer, bind_ok (get_ok s), State.answers]
  cases [vendorIface, pldmIface, spdmIface, mctpIface].contains iface && s.flag .mgmtstat 15 && s.mgmt.events.testBit 0 <;> rfl

/-- A command that comes to an answer in u ends with that answer. -/
theorem run_answers {m : M Unit} {s u : State} {iface code : Nat} {data : List Nat} (hl : s.live)
    (h : m s = answer iface code data u) : run m s = s.ends (u.answers iface code data) :=
  run_live hl (h.trans (answer_ok ..))

/-! ### Vendor messages -/

section
variable {s u : State}

/-- READ_INCIDENTS answers the records that it reads (R397). -/
theorem readIncidents_answers {start n : Nat} {out : List (List Byte)}
    (hread : mapAll (List.range n) (fun i => readRecord (s.fld .incRing 18 34 * 2 ^ 18 + (start + i) % 4096 * 64)) s = .ok out u) :
    readIncidents start n s = answer vendorIface 0 (out.flatten.map BitVec.toNat) u := by
  rw [readIncidents, bind_ok (get_ok s), bind_ok hread]

/-- READ_REG of 4 or 8 bytes that the management master may read answers them (R397). -/
theorem readRegister_answers {a n : Nat} {b : List Byte} (hn : n = 4 ∨ n = 8) (hread : reach mgmtReq a n s = .ok (.ok b) u) :
    readRegister a n s = answer vendorIface 0 (b.map BitVec.toNat) u := by
  have hwidth : ¬ (n ≠ 4 ∧ n ≠ 8) := by omega
  rw [readRegister, if_neg hwidth, bind_ok hread]

/-- WRITE_REG of 4 or 8 bytes that the management master may write answers status 0 (R397). -/
theorem writeRegister_answers {a n : Nat} {v : W64} (hn : n = 4 ∨ n = 8) (hwrite : reachWrite mgmtReq a n v s = .ok .done u) :
    writeRegister a n v s = answer vendorIface 0 [] u := by
  have hwidth : ¬ (n ≠ 4 ∧ n ≠ 8) := by omega
  rw [writeRegister, if_neg hwidth, bind_ok hwrite]

/-- DEBUG_TOKEN answers whether the token was accepted, and the level that then holds (R397, R459). -/
theorem debugToken_answers {t : List Byte} {ok : Bool} (hok : s.tokenOk t = ok) (htake : takeToken t s = .ok () u) :
    debugToken t s = answer vendorIface (b2n !ok) [if ok then leAt t 4 1 else s.fld .dbgstat 0 2] u := by
  rw [debugToken, bind_ok (get_ok s), bind_ok htake, hok]

end

/-- MCTP control and the vendor messages (R396, R397, R459). -/
theorem managementMessages_complete : managementMessagesComplete := by
  intro s hl
  refine ⟨fun eid => run_answers hl rfl, run_answers hl rfl, run_answers hl rfl, run_answers hl rfl, run_answers hl rfl,
    run_answers hl rfl, fun start n out u hread => ?incidents, fun a n b u hn hread => ?read, fun a n v u hn hwrite => ?write,
    fun t u htake => ⟨fun hok => ?accepted, fun hbad => ?refused⟩⟩
  case incidents => exact run_answers hl (readIncidents_answers hread)
  case read => exact run_answers hl (readRegister_answers hn hread)
  case write => exact run_answers hl (writeRegister_answers hn hwrite)
  case accepted => exact run_answers hl (debugToken_answers hok htake)
  case refused => exact run_answers hl (debugToken_answers hbad htake)

/-! ### Sensors -/

/-- The PLDM sensors have new readings, of the voltage and the current that vals gives (R398). -/
def State.sensed (s : State) (vals : List Nat) : State :=
  let v := vals.getD 0 s.power.vin
  { s with
    mgmt := { s.mgmt with sensors := s.readings v (vals.getD 1 0) }
    power := { s.power with vin := v } }

/-- The event receiver may be told of a sensor that has changed since old (R398; log entry 173). -/
def tellSensor (old : State) (e : Nat × SensorUnit) : M Unit := do
  let s ← get
  whenM (s.mgmt.receiver != 0 && s.sensor e.1 != old.sensor e.1) (do
    whenM (bit (← draw) 0) (send (.platformEvent s.mgmt.receiver e.1 (s.sensor e.1))))

/-- New readings are kept, and then the event receiver may be told (R398). -/
theorem setSensors_eq (vals : List Nat) (s : State) :
    setSensors vals s = forAll sensorPdrs (tellSensor s) (s.sensed vals) := rfl

/-- Without an event receiver nothing is told (R398). -/
theorem forAll_tellSensor_unheard {s : State} (h : s.mgmt.receiver = 0) (old : State) (l : List (Nat × SensorUnit)) :
    forAll l (tellSensor old) s = .ok () s := by
  have htell (e : Nat × SensorUnit) : tellSensor old e s = .ok () s := by
    have hunheard : (s.mgmt.receiver != 0 && s.sensor e.1 != old.sensor e.1) = false := by simp [h]
    rw [tellSensor, bind_ok (get_ok s), hunheard]
    rfl
  induction l with
  | nil => rfl
  | cons e l ih => exact (bind_ok (htell e)).trans ih

/-! ### Firmware updates -/

section
variable {s : State}

/-- RequestUpdate in a session is refused (R399; log entry 11). -/
theorem requestUpdate_refused (h : s.mgmt.update ≠ none) (ep : Nat) : requestUpdate ep s = answer pldmIface 0x81 [] s := by
  rw [requestUpdate, bind_ok (get_ok s), if_pos (Option.isSome_iff_ne_none.2 h)]

/-- RequestUpdate outside a session opens one (R399). -/
theorem requestUpdate_opens (h : s.mgmt.update = none) (ep : Nat) : requestUpdate ep s = answer pldmIface 0 []
    (({ s with mgmt := { s.mgmt with update := some (ep, []) } } : State).setFld .mgmtstat 19 1 1) := by
  have hnone : ¬ s.mgmt.update.isSome = true := by simp [h]
  rw [requestUpdate, bind_ok (get_ok s), if_neg hnone]
  rfl

/-- The state in which the image of component c has been put into its inactive slot (R399). -/
def State.staged (s : State) (c : Nat) (image : List Byte) : State :=
  (s.eraseFlash (compAddr c (s.inactive c)) (compSize c)).setFlash (compAddr c (s.inactive c)) image

/-- VerifyComplete of an image that fits its slot and passes there records the component (R399). -/
theorem verifyComponent_passes {c ep : Nat} {image : List Byte} {done : List Nat} (hc : c < 3)
    (hsession : s.mgmt.update = some (ep, done)) (hfits : image.length ≤ compSize c)
    (hpass : (s.staged c image).imgCheck ((s.staged c image).compBytes c (s.inactive c)) (compReq c (s.inactive c)) = 0) :
    verifyComponent (c + 1) image s = answer pldmIface 0 [] { s.staged c image with
      mgmt := { (s.staged c image).mgmt with update := some (ep, c :: done.filter (· != c)) } } := by
  have hcomp : ¬ (c + 1 < 1 ∨ 3 < c + 1 ∨ compSize c < image.length) := by omega
  rw [verifyComponent, bind_ok (get_ok s)]
  simp only [hsession, Nat.add_sub_cancel, if_neg hcomp]
  refine (bind_ok (set_ok (s.staged c image) s)).trans ?_
  exact (congrFun (if_pos hpass) _).trans rfl

/-- The selector copy that ActivateFirmware writes, and its SEQ, from the copy, SEQ and slots of the selector in effect (R451). -/
def nextSelector : Option (Nat × Nat × List Nat) → Nat × Nat
  | some (k, n, _) => (1 - k, (n + 1) % 2 ^ 32)
  | none => (0, 1)

/-- The bytes of a selector copy with a SEQ, without their CRC: the slots of the three components follow, where those in done change
theirs (R399, R451). -/
def State.selectorBody (s : State) (done : List Nat) (seq : Nat) : List Byte :=
  let slots := (List.range 3).map fun c => if done.contains c then s.inactive c else s.slotOf c
  let used := toLE seq 4 ++ slots.flatMap fun y => toLE y 1
  used ++ List.replicate (60 - used.length) 0

/-- The state in which selector copy k has been written with a SEQ and the slots of the components in done (R399, R451). -/
def State.reselected (s : State) (done : List Nat) (k seq : Nat) : State :=
  s.setFlash (selAddr k) (s.selectorBody done seq ++ toLE (crc32c 0 (s.selectorBody done seq)) 4)

/-- ActivateFirmware in a session writes the other selector copy and ends the session (R399, R451). -/
theorem activate_selects {ep k seq : Nat} {done : List Nat} (hsession : s.mgmt.update = some (ep, done))
    (hnext : nextSelector s.selected = (k, seq)) : activate s = answer pldmIface 0 []
      (({ s.reselected done k seq with mgmt := { s.mgmt with update := none } } : State).setFld .mgmtstat 19 1 0) := by
  rw [activate, bind_ok (get_ok s), hsession]
  rcases hselected : s.selected with - | ⟨copy, last, slots⟩
  all_goals
    rw [hselected] at hnext
    cases hnext
    exact (bind_ok (set_ok ..)).trans (bind_ok (modify_ok ..))

end

/-- PLDM (R398, R399, R451). -/
theorem firmwareUpdates_complete : firmwareUpdatesComplete := by
  intro s hl
  refine ⟨fun eid => run_answers hl rfl, fun vals => ⟨fun hunheard => ?unheard, ?told⟩, fun ep hnone => ?opens,
    fun ep hsession => ?refused, fun c image ep done hsession hfits hpass => ?verify, fun ep done hsession => ?activate⟩
  case unheard => exact run_live hl ((setSensors_eq vals s).trans (forAll_tellSensor_unheard (s := s.sensed vals) hunheard s _))
  case told => exact run_ends_congr hl (setSensors_eq vals s)
  case opens => exact run_answers hl (requestUpdate_opens hnone ep.toNat)
  case refused => exact run_answers hl (requestUpdate_refused hsession ep.toNat)
  case verify =>
    have hcomp : (BitVec.ofNat 16 (c.val + 1)).toNat = c.val + 1 := by
      rw [BitVec.toNat_ofNat]
      omega
    refine run_answers hl ?_
    rw [hcomp]
    exact verifyComponent_passes c.isLt hsession hfits hpass
  case activate =>
    rcases hselected : s.selected with - | ⟨copy, last, slots⟩
    all_goals exact run_answers hl (activate_selects hsession (congrArg nextSelector hselected))

/-- Settles O49: every clause names the state in which its command comes to its answer. -/
theorem managementCommandsComplete : Obligations.ManagementCommandsComplete :=
  ⟨managementMessages_complete, firmwareUpdates_complete⟩

end Sys2Proof.Machine
end

section
/-! SUPPORT and RESULT. Attestation (AttestationRequestsComplete): which requests of an SPDM requester are taken, and the state in which
each comes to its answer. -/

namespace Sys2Proof.Machine

/-! ### Requests that are taken -/

section
variable {s : State} {ep : Nat}

/-- A requester that holds state, or finds room for it, is taken with a request that needs nothing negotiated (R400). -/
theorem spdm_admits (h : (aget s.mgmt.spdm ep).isSome = true ∨ s.mgmt.spdm.length < 4) (m : M Unit) : spdm ep false m s = m s := by
  rw [spdm, bind_ok (get_ok s)]
  cases hstate : aget s.mgmt.spdm ep with
  | some ok => rfl
  | none =>
    have hroom : ¬ 4 ≤ s.mgmt.spdm.length := by simpa [hstate] using h
    exact congrFun (if_neg hroom) s

/-- A requester that has negotiated is taken with any request (R400). -/
theorem spdm_negotiated (h : aget s.mgmt.spdm ep = some true) (m : M Unit) : spdm ep true m s = m s := by
  rw [spdm, bind_ok (get_ok s)]
  simp only [h]
  rfl

end

/-! ### Answers -/

section
variable {s : State}

/-- A requester has a state, negotiated or not, and SPDMREQ counts it (R400). -/
def State.attests (s : State) (ep : Nat) (negotiated : Bool) : State :=
  let u : State := { s with mgmt := { s.mgmt with spdm := aput s.mgmt.spdm ep negotiated } }
  u.setFld .mgmtstat 20 3 u.mgmt.spdm.length

/-- GET_VERSION starts the requester's state afresh (R400). -/
theorem spdmVersion_answers (ep : Nat) (s : State) :
    spdmVersion ep s = answer spdmIface 0 [0x12, 0x13] (s.attests ep false) := rfl

/-- NEGOTIATE_ALGORITHMS of a requester that holds state keeps whether both algorithms are offered (R400). -/
theorem negotiate_answers {ep : Nat} (h : (aget s.mgmt.spdm ep).isSome = true) (mldsa shake : Bool) :
    negotiate ep mldsa shake s = answer spdmIface 0 [b2n mldsa, b2n shake] (s.attests ep (mldsa && shake)) := by
  rw [negotiate, bind_ok (get_ok s), if_pos h]
  rfl

/-- GET_DIGESTS answers the digests of both chains (R400). -/
theorem spdmDigests_answers (s : State) : spdmDigests s = answer spdmIface 0
    ((digestBytes (shake512 (s.chain 0)) ++ digestBytes (shake512 (s.chain 1))).map BitVec.toNat) s := by
  rw [spdmDigests, bind_ok (get_ok s)]

/-- GET_CERTIFICATE of one of the two slots (R400). -/
theorem spdmCert_answers {slot : Nat} (h : slot ≤ 1) (off n : Nat) :
    spdmCert slot off n s = answer spdmIface 0 ((((s.chain slot).drop off).take n).map BitVec.toNat) s := by
  rw [spdmCert, if_neg (Nat.not_lt.2 h), bind_ok (get_ok s)]

/-- A signed answer, while the identity key is there (R444). -/
theorem spdmSigned_answers (h : s.sec.keysGone = false) (body : List Byte) :
    spdmSigned body s = answer spdmIface 0 ((body ++ Config.mldsaSign identityKeys.2 body).map BitVec.toNat) s := by
  rw [spdmSigned, bind_ok (get_ok s), if_neg (Bool.eq_false_iff.1 h)]

/-- CHALLENGE of slot 0 signs the digest of the identity chain and the nonce (R400). -/
theorem spdmChallenge_signs (nonce : List Byte) (s : State) :
    spdmChallenge 0 nonce s = spdmSigned (digestBytes (shake512 (s.chain 0)) ++ nonce) s := by
  rw [spdmChallenge, if_neg (not_not_intro rfl), bind_ok (get_ok s)]

/-- GET_MEASUREMENTS of one block, or of all six (R457). -/
theorem spdmMeasure_signs {i : Nat} (hi : 1 ≤ i) (h : i ≤ 6 ∨ i = 0xFF) :
    spdmMeasure i s = spdmSigned (if i = 0xFF then measureRecord 6 ((List.range 6).flatMap fun k => s.measureBlock (k + 1))
      else measureRecord 1 (s.measureBlock i)) s := by
  rw [spdmMeasure, bind_ok (get_ok s), if_neg (Nat.one_le_iff_ne_zero.1 hi)]
  by_cases hall : i = 0xFF
  · rw [if_pos hall, if_pos hall]
  · have hone : ¬ 6 < i := by omega
    rw [if_neg hall, if_neg hone, if_neg hall]

/-- SET_CERTIFICATE of version 1.3 puts a chain that fits into the partition of the owner chain (R400). -/
theorem spdmSetCert_answers {chain : List Byte} (h : chain.length ≤ 0x3_0000) (s : State) : spdmSetCert true chain s =
    answer spdmIface 0 [] ((s.eraseFlash 0x203_0000 0x3_0000).setFlash 0x203_0000 chain) := by
  rw [spdmSetCert, if_neg (not_not_intro rfl), if_neg (Nat.not_lt.2 h), bind_ok (modify_ok ..)]

end

/-- Settles O50: a request that is taken is answered in the state that its clause names. -/
theorem attestationRequestsComplete : Obligations.AttestationRequestsComplete := by
  intro s ep hl
  refine ⟨fun hroom => ⟨?version, ?capabilities⟩, fun hstate mldsa shake => ?negotiate, fun hready => ?ready, run_live hl rfl⟩
  case version => exact run_answers hl ((spdm_admits hroom _).trans (spdmVersion_answers ..))
  case capabilities => exact run_answers hl (spdm_admits hroom _)
  case negotiate => exact run_answers hl ((spdm_admits (.inl hstate) _).trans (negotiate_answers hstate mldsa shake))
  case ready =>
    have htaken (m : M Unit) := spdm_negotiated hready m
    refine ⟨run_answers hl ((htaken _).trans (spdmDigests_answers s)), fun slot off n hslot => ?certificate,
      fun nonce hkeys => ?challenge, run_answers hl (htaken _), fun i hi hblock hkeys => ?measurements, fun chain hfits => ?owner⟩
    case certificate => exact run_answers hl ((htaken _).trans (spdmCert_answers hslot off n))
    case challenge =>
      exact run_answers hl ((htaken _).trans ((spdmChallenge_signs nonce s).trans (spdmSigned_answers hkeys _)))
    case measurements =>
      exact run_answers hl ((htaken _).trans ((spdmMeasure_signs hi hblock).trans (spdmSigned_answers hkeys _)))
    case owner => exact run_answers hl ((htaken _).trans (spdmSetCert_answers hfits s))

end Sys2Proof.Machine
end

section
/-! SUPPORT and RESULT. I3C and the TAP (I3cAndTapCommandsComplete): the dynamic address, and TAP instructions at a debug level that they
need. -/

namespace Sys2Proof.Machine

/-! ### I3C common command codes -/

/-- The part has the dynamic address a (R395). -/
def State.addressed (s : State) (a : Nat) : State := (s.setFld .mgmtstat 8 7 a).setFld .mgmtstat 15 1 1

/-- ENTDAA gives an address to a part without one (R395). -/
theorem entDaa_answers {s : State} (hfree : s.flag .mgmtstat 15 = false) (a : Nat) :
    entDaa a s = answer i3cIface 0 [] (s.addressed a) := by
  rw [entDaa, bind_ok (get_ok s), if_pos (Bool.eq_false_iff.1 hfree)]
  rfl

/-- SETDASA by the part's static address gives it a dynamic one where it has none (R395). -/
theorem setDasa_answers {s : State} {x : Nat} (hfree : s.flag .mgmtstat 15 = false) (hmine : x = 0x48 + s.fld .mgmtstat 16 3)
    (a : Nat) : setDasa x a s = answer i3cIface 0 [] (s.addressed a) := by
  rw [setDasa, bind_ok (get_ok s), if_pos ⟨hmine, Bool.eq_false_iff.1 hfree⟩]
  rfl

/-- The common command codes (R395). -/
theorem i3cCommands_complete : i3cCommandsComplete := by
  intro s hl
  refine ⟨fun e => run_answers hl rfl, fun e => run_answers hl rfl, run_answers hl rfl, fun a hfree => ?entdaa,
    fun x a hfree hmine => ?setdasa, fun n => run_answers hl rfl, fun n => run_answers hl rfl, run_answers hl rfl,
    run_answers hl rfl, run_answers hl rfl, run_answers hl rfl, run_answers hl rfl, run_answers hl rfl⟩
  case entdaa => exact run_answers hl (entDaa_answers hfree a.toNat)
  case setdasa => exact run_answers hl (setDasa_answers hfree hmine a.toNat)

/-! ### The TAP -/

/-- The TAP has taken an instruction (R402). -/
def State.tapped (s : State) (op : Nat) : State := { s with mgmt := { s.mgmt with tap := op } }

/-- A TAP instruction acts at the debug level that it needs (R402). -/
theorem tapAt_acts {level : Nat} {s : State} (h : level ≤ s.fld .dbgstat 0 2) (op : Nat) (m : M Unit) :
    tapAt level op m s = m (s.tapped op) := by
  rw [tapAt, bind_ok (get_ok s), if_pos h, bind_ok (modify_ok ..)]
  rfl

/-- A command that is a TAP instruction at a level that it needs ends where its action ends. -/
theorem run_tapAt {level : Nat} {s : State} (hl : s.live) (h : level ≤ s.fld .dbgstat 0 2) (op : Nat) (m : M Unit) :
    run (tapAt level op m) s = s.ends (after m (s.tapped op)) :=
  run_ends_congr hl (tapAt_acts h op m)

/-- A frame before the seventh is kept, and the nonce is shifted out (R458). -/
theorem tokenFrame_keeps {s : State} {frame : List Byte} (h : (s.sec.frames ++ frame).length < 7 * 512) :
    tokenFrame frame s = .ok ()
      { s.answers tapIface 0 ((List.range 4).flatMap fun k => leNats (s.reg (.dbgNonce k)).toNat 8) with
        sec := { s.sec with frames := s.sec.frames ++ frame } } := by
  rw [tokenFrame, bind_ok (get_ok s), bind_ok (answer_ok ..)]
  exact congrFun (if_pos h) _

/-- DBG_ACCESS that writes answers, however the write ends (R402). -/
theorem debugAccess_writes {a n : Nat} {v : W64} {x : WriteRes} {s u : State}
    (hwrite : reachWrite ⟨0x180, true⟩ a n v s = .ok x u) : debugAccess a true n v s = answer tapIface 0 [] u := by
  rw [debugAccess, if_pos rfl, bind_ok hwrite]

/-- DBG_ACCESS that may read answers the bytes (R402). -/
theorem debugAccess_reads {a n : Nat} {v : W64} {b : List Byte} {s u : State}
    (hread : reach ⟨0x180, true⟩ a n s = .ok (.ok b) u) : debugAccess a false n v s = answer tapIface 0 (b.map BitVec.toNat) u := by
  rw [debugAccess, if_neg Bool.false_ne_true, bind_ok hread]

/-- SCAN answers a free value (R402; log entry 9). -/
theorem scanChains_answers (s : State) :
    scanChains s = answer tapIface 0 [(Config.freeW s.fresh).toNat] { s with fresh := s.fresh + 1 } := rfl

/-- TAP instructions (R402, R458). -/
theorem tapInstructions_complete : tapInstructionsComplete := by
  intro s hl at_
  refine ⟨run_tapAt hl (Nat.zero_le _) 0xFF skip, run_answers hl (tapAt_acts (Nat.zero_le _) 0x01 _), fun hscan => ?boundary,
    fun frame hpart => ?token, fun haccess a n v u => ⟨fun x hwrite => ?write, fun b hread => ?read⟩, fun hchains => ?chains⟩
  case boundary => exact ⟨run_tapAt hl hscan 0x02 boundaryScan, run_tapAt hl hscan 0x03 skip, run_tapAt hl hscan 0x04 skip,
      run_tapAt hl hscan 0x05 skip⟩
  case token => exact run_live hl ((tapAt_acts (Nat.zero_le _) 0x10 _).trans (tokenFrame_keeps hpart))
  case write => exact run_answers hl ((tapAt_acts haccess 0x20 _).trans (debugAccess_writes hwrite))
  case read => exact run_answers hl ((tapAt_acts haccess 0x20 _).trans (debugAccess_reads hread))
  case chains => exact run_answers hl ((tapAt_acts hchains 0x30 _).trans (scanChains_answers _))

/-- Settles O51: an I3C command comes to its answer, and a TAP instruction acts once the debug level is the one that it needs. -/
theorem i3cAndTapCommandsComplete : Obligations.I3cAndTapCommandsComplete := ⟨i3cCommands_complete, tapInstructions_complete⟩

end Sys2Proof.Machine
end

section
/-!
SUPPORT and RESULT. The step function, the queue of waiting commands, and the laws of memory: what a step does with the
command in front (log entry 1) and with no command waiting (log entry 2).
-/

namespace Sys2Proof.Machine

/-! ### A command's outcome -/

/-- An outcome is a next state with the queue of a state. -/
def KeepsQueue (o : Host.Outcome State Fault Refusal) (s : State) : Prop := ∃ t, o = .next t ∧ t.pending = s.pending

/-- A meaning's outcome is a next state with the queue of the state before. -/
theorem runAny_keepsQueue (m : M Unit) (s : State) : KeepsQueue (runAny m s) s := by
  unfold runAny
  split
  · exact ⟨_, rfl, rfl⟩
  · exact ⟨_, rfl, rfl⟩

/-- So is the outcome of a meaning of a powered module, which stands still where it is not live. -/
theorem run_keepsQueue (m : M Unit) (s : State) : KeepsQueue (run m s) s := by
  unfold run
  split
  · exact runAny_keepsQueue m s
  · exact ⟨s, rfl, rfl⟩

/-- POWER_UP has its meaning at any time. -/
theorem exec_powerUp (vin : Nat) (s : State) : exec (.powerUp vin) s = runAny (vinRises vin) s := rfl

/-- RAIL_FAULT_RELEASE has its meaning at any time. -/
theorem exec_railFaultRelease (s : State) : exec .railFaultRelease s = runAny releaseRail s := rfl

/-- Every command's outcome is a next state with the queue of the state before: those of the management of power have a
meaning at any time (R469, R475), every other one while the module is live. -/
theorem exec_keepsQueue (c : Instr) (s : State) : KeepsQueue (exec c s) s := by
  cases c
  case powerUp vin => exact exec_powerUp vin s ▸ runAny_keepsQueue _ s
  case railFaultRelease => exact exec_railFaultRelease s ▸ runAny_keepsQueue _ s
  case clearFaults | vinUvWarnLimit | pinOpWarnLimit | statusWord | statusInput | statusTemperature | readVin | readIin
    | readTemperature1 | readPin | pmbusRevision | pmbusOtherCommand | pwrMeasure | thermSample | uvWarning | uvLockout
    | ovLockout | railFault | leak | moduleReset | coldStart => exact runAny_keepsQueue _ s
  all_goals exact run_keepsQueue _ s

/-- Settles O3: every command's meaning is a `run` or a `runAny`, and these keep the queue. -/
theorem everyCommandAnswersAndKeepsTheQueue : Obligations.EveryCommandAnswersAndKeepsTheQueue := exec_keepsQueue

/-! ### A step -/

/-- A step with a command in front is that command's outcome on the queue's rest. -/
theorem step_of_front {c : Instr} {r : List Instr} {s : State} (h : s.pending = c :: r) :
    step s = exec c { s with pending := r } := by simp [step, h]

/-- A step with no command waiting is one cycle of TIDE_REF. -/
theorem step_of_empty {s : State} (h : s.pending = []) : step s = .next s.tick := by simp [step, h]

/-- Settles O1. -/
theorem stepRunsTheFrontCommand : Obligations.StepRunsTheFrontCommand := fun _ _ _ h => step_of_front h

/-- Settles O2. -/
theorem emptyQueueIdlesOneTick : Obligations.EmptyQueueIdlesOneTick := fun _ h => step_of_empty h

/-- The queue of a state chosen by a condition. -/
theorem pending_ite {c : Prop} [Decidable c] {a b : State} {q : List Instr} (ha : a.pending = q) (hb : b.pending = q) :
    (if c then a else b).pending = q := by split <;> assumption

/-- The queue with other security state. -/
theorem pending_withSec (s : State) (x : SecSt) : ({ s with sec := x } : State).pending = s.pending := rfl

/-- The queue with another time. -/
theorem pending_withTime (s : State) (n : Nat) (x : TideSt) : ({ s with now := n, tide := x } : State).pending = s.pending := rfl

/-- A cycle of TIDE_REF leaves the queue. -/
theorem tick_pending (s : State) : s.tick.pending = s.pending := by
  unfold State.tick
  refine pending_ite ?_ ?_
  · exact (pending_withSec ..).trans ((setFld_pending ..).trans ((setReg_pending ..).trans (pending_withTime ..)))
  · exact (setReg_pending ..).trans (pending_withTime ..)

/-- A step leaves the queue without its front command. -/
theorem pending_of_step {s t : State} (h : step s = .next t) : t.pending = s.pending.tail := by
  cases hp : s.pending with
  | nil =>
    rw [step_of_empty hp] at h
    cases h
    rw [tick_pending, hp, List.tail_nil]
  | cons c r =>
    rw [step_of_front hp] at h
    obtain ⟨u, hu, hq⟩ := exec_keepsQueue c { s with pending := r }
    cases hu.symm.trans h
    exact hq

/-- Settles O6: what waits after a step waited before it. -/
theorem stepKeepsWaitingCommandsWellFormed : Obligations.StepKeepsWaitingCommandsWellFormed :=
  fun _ _ hwf h c hc => hwf c (List.mem_of_mem_tail (pending_of_step h ▸ hc))

/-! ### Memory -/

/-- Settles O7, by the law of a byte after a store. -/
theorem storeChangesItsBytesOnly : Obligations.StoreChangesItsBytesOnly := byte_store

/-- Settles O5: no byte is listed after reset. -/
theorem resetMemoryIsCanonical : Obligations.ResetMemoryIsCanonical := reset_memWf

/-! ### The interrupt that can be taken -/

/-- The first element of a rising list that has a property is its lowest one. -/
theorem find?_eq_some_iff_of_rising {p : Nat → Bool} {l : List Nat} (h : l.Pairwise (· < ·)) {b : Nat} :
    l.find? p = some b ↔ b ∈ l ∧ p b = true ∧ ∀ i ∈ l, i < b → ¬ p i = true := by
  induction l with
  | nil => simp
  | cons x l ih =>
    obtain ⟨hx, hl⟩ := List.pairwise_cons.mp h
    cases hp : p x with
    | true =>
      rw [List.find?_cons_of_pos hp, Option.some_inj]
      constructor
      · rintro rfl
        exact ⟨List.mem_cons_self, hp, fun i hi hlt => by
          rcases List.mem_cons.mp hi with rfl | hi
          · exact absurd hlt (Nat.lt_irrefl _)
          · exact absurd (hx i hi) (Nat.lt_asymm hlt)⟩
      · rintro ⟨hb, -, hmin⟩
        rcases List.mem_cons.mp hb with rfl | hb
        · rfl
        · exact absurd hp (hmin x List.mem_cons_self (hx b hb))
    | false =>
      rw [List.find?_cons_of_neg (by simp [hp]), ih hl]
      constructor
      · rintro ⟨hb, hpb, hmin⟩
        exact ⟨List.mem_cons_of_mem _ hb, hpb, fun i hi hlt => by
          rcases List.mem_cons.mp hi with rfl | hi
          · simp [hp]
          · exact hmin i hi hlt⟩
      · rintro ⟨hb, hpb, hmin⟩
        rcases List.mem_cons.mp hb with rfl | hb
        · exact absurd hpb (by simp [hp])
        · exact ⟨hb, hpb, fun i hi => hmin i (List.mem_cons_of_mem _ hi)⟩

/-- The sources of a world are listed lowest first (R417). -/
theorem sources_rising (service : Bool) : (if service = true then [8, 9, 10] else [0, 1]).Pairwise (· < ·) := by
  cases service <;> decide

/-- The interrupt that thread k can take is the first of its world's sources that is pending and enabled, while IE is 1. -/
theorem takable_eq (s : State) (k : Nat) :
    s.takable k = if bit (s.flags k) 32 = true then (if s.thrWorld k then [8, 9, 10] else [0, 1]).find?
      (s.reg (.intPend (k / 4) (k % 4)) &&& s.reg (.intEn (k / 4) (k % 4))).toNat.testBit else none := by
  have h : s.thrWorld k = bit (s.flags k) 34 := rfl
  simp only [State.takable, h]
  cases bit (s.flags k) 32 <;> cases bit (s.flags k) 34 <;> simp

/-- A bit of INT_PEND and INT_EN together is 1 where it is 1 in both. -/
theorem testBit_pendingAndEnabled (s : State) (k i : Nat) :
    (s.reg (.intPend (k / 4) (k % 4)) &&& s.reg (.intEn (k / 4) (k % 4))).toNat.testBit i = true ↔
      s.flag (.intPend (k / 4) (k % 4)) i = true ∧ s.flag (.intEn (k / 4) (k % 4)) i = true := by
  rw [BitVec.testBit_toNat, BitVec.getLsbD_and, Bool.and_eq_true]
  rfl

/-- Settles O10: the sources of a world are searched lowest first. -/
theorem lowestInterruptOfTheWorldIsTaken : Obligations.LowestInterruptOfTheWorldIsTaken := by
  intro s k b
  rw [takable_eq]
  by_cases hie : bit (s.flags k) 32 = true
  · simp only [hie, if_true, true_and, find?_eq_some_iff_of_rising (sources_rising _), testBit_pendingAndEnabled, and_assoc]
  · simp [hie]

end Sys2Proof.Machine
end

section
/-!
SUPPORT and RESULT. GATE, TRAP, ERET and PARK (ModeChangesComplete), and what the boundary before an instruction takes
(BoundaryTakesArithThenInterrupt).
-/

namespace Sys2Proof.Machine

/-! ### GATE, TRAP, ERET and PARK -/

/-- A control instruction that starts and whose body does all itself. -/
theorem control_raw {t : Tid} {w : IWord} {s v : State} {sl : Slots} {legal : Bool} {i2a : Nat} {o : Opnds}
    {body : Nat → Opnds → M Ending} (hissue : s.issues t w sl legal false (zOf w) (zOf w) (zOf w) i2a o)
    (hbody : body t.k o (s.begun t.k) = .ok .raw v) : run (control t w sl legal i2a body) s = .next (v.queueOf s) :=
  starts_raw hissue.1 ((issues_bind hissue (body t.k)).trans hbody)

/-- A control instruction that starts and whose body goes on at another address, with no pointer update. -/
theorem control_goes {t : Tid} {w : IWord} {s v : State} {sl : Slots} {legal : Bool} {i2a pc : Nat} {o : Opnds}
    {sets : List (Nat × W64)} {body : Nat → Opnds → M Ending}
    (hissue : s.issues t w sl legal false (zOf w) (zOf w) (zOf w) i2a o)
    (hbody : body t.k o (s.begun t.k) = .ok (.jump pc sets) v) :
    run (control t w sl legal i2a body) s = .next ((v.jumped t.k pc sets).queueOf s) :=
  starts_jump hissue.1 ((issues_bind hissue (body t.k)).trans hbody)

/-- An exception that its instruction enters, with no ARITH pending (R408). -/
theorem enter_ok {k : Nat} {e : Exn} {p : Ptrs} {s v : State} (h : s.enters k e p v) : enter k e p false s = .ok () v :=
  enter_enters h.2 (by rw [h.1, Bool.false_and])

/-- GATE through an open gate (R411). -/
theorem gate_entersTheServiceKernel : gateEntersTheServiceKernel := by
  intro t w s v o a hissue himm htarget hopen henter
  refine control_raw hissue ?_
  rw [bind_ok (eaAddr_ok himm htarget), bind_ok (get_ok _), if_neg (not_not.2 hopen)]
  exact bind_ok (enter_ok henter)

/-- TRAP (R413). -/
theorem trap_entersItsException : trapEntersItsException := by
  intro t w s u1 u v o x a hissue hsrc hread henter
  refine control_raw hissue ?_
  rw [bind_ok hsrc, bind_ok hread, bind_ok (get_ok u)]
  exact bind_ok (enter_ok henter)

/-- The checks of ERET on a frame f pass (R410). -/
theorem eret_checks {fl nf : W64} {f : List Byte} (hworld : bit nf 34 = true → bit fl 34 = true) (halign : leAt f 0 8 % 4 = 0)
    (hpc : leAt f 0 8 ≠ 0) (hrm : field nf 24 3 ≤ 4) (hrx : bit nf 30 = true → bit nf 29 = true)
    (hrep : bit nf 29 = true → leAt f 0x30 4 ≠ 0) :
    ¬ (¬ bit fl 34 = true ∧ bit nf 34 = true) ∧ ¬ (leAt f 0 8 % 4 ≠ 0 ∨ leAt f 0 8 = 0) ∧
      ¬ (4 < field nf 24 3 ∨ (bit nf 30 = true ∧ ¬ bit nf 29 = true) ∨ (bit nf 29 = true ∧ leAt f 0x30 4 = 0)) := by
  refine ⟨fun h => h.1 (hworld h.2), not_or.2 ⟨not_not.2 halign, hpc⟩, ?_⟩
  rintro (h | ⟨h, h'⟩ | ⟨h, h'⟩)
  · exact absurd hrm (Nat.not_le.2 h)
  · exact h' (hrx h)
  · exact hrep h h'

/-- ERET at kernel level, where its frame passes every check (R410). -/
theorem eret_restoresTheFrame : eretRestoresTheFrame := by
  intro t w s u v o l n hissue hkernel hidle hsp hplace hread f nf hworld halign hpc hrm hrx hrep
  obtain ⟨hw, hp, hf⟩ := eret_checks hworld halign hpc hrm hrx hrep
  show run (returnFrom t w) s = _
  unfold returnFrom
  refine control_goes hissue ?_
  rw [bind_ok (get_ok _), if_neg (not_not.2 hkernel), bind_ok (fenceEngines_ok hidle)]
  dsimp only
  rw [if_neg (not_not.2 hsp), bind_ok hplace, bind_ok hread, if_neg hw, if_neg hp, if_neg hf, bind_ok (modify_ok ..), pure_ok]

/-- PARK in the Service kernel (R404, R412). -/
theorem park_parksTheThread : parkParksTheThread := by
  intro t w s hready hworld hlevel henc hidle
  refine starts_raw (len := noSlots.len) hready ?_
  rw [bind_ok (get_ok _), if_neg (not_not.2 hworld), bind_ok (encoded_ok henc), if_neg (not_not.2 hlevel),
    bind_ok (fenceEngines_ok hidle), park, bind_ok (modify_ok ..), bind_ok (modify_ok ..), pure_ok]
  rfl

/-- Settles O22: GATE and TRAP enter their exceptions from a started instruction; ERET and PARK pass their checks. -/
theorem modeChangesComplete : Obligations.ModeChangesComplete :=
  ⟨gate_entersTheServiceKernel, trap_entersItsException, eret_restoresTheFrame, park_parksTheThread⟩

/-! ### The boundary before an instruction -/

/-- An instruction at a boundary that takes something first does not start: what is taken is all that happens (R419). -/
theorem starts_boundary {t : Tid} {s v : State} {len : Nat} {body : Nat → M Ending} {m : M Unit} (hl : s.live)
    (hparked : s.parked t.k = false) (hraised : (s.thread t.k).raised = none) (hstalled : s.stalled t.k = false)
    (hm : s.boundary t.k = some m) (hv : settleStop t.k m s = .ok () v) : run (starts t len body) s = .next (v.queueOf s) := by
  refine run_live hl ?_
  simp only [starts, bind_eq, get_ok, hparked, hraised, hstalled, hm, Option.isSome_none, if_false, Bool.false_eq_true, hv]

/-- Settles O28: the boundary before an instruction takes a pending ARITH, else the interrupt that can be taken. -/
theorem boundaryTakesArithThenInterrupt : Obligations.BoundaryTakesArithThenInterrupt := by
  intro e he t w s v hl hparked hraised hstalled hat
  rw [exec_binaryRow he]
  have htaken (h : s.parked t.k = false ∧ s.entersArith t.k v ∨ s.entersIrq t.k v) :
      run (alu3 t w e.2) s = .next (v.queueOf s) := by
    unfold alu3 scalar
    obtain ⟨m, hm, hv⟩ := boundary_enters hat h
    exact starts_boundary hl hparked hraised hstalled hm hv
  exact ⟨fun h => htaken (.inl ⟨hparked, h⟩), fun h => htaken (.inr h)⟩

end Sys2Proof.Machine
end

section
/-!
SUPPORT and RESULT. Self-test slices (SelfTestsComplete): what a slice that passes, one that is abandoned and a late cycle leave.
-/

namespace Sys2Proof.Machine

/-- A slice of a target in a tree or of an engine that passes: its save area is unspecified, it ends, and the cursor of the
rotating schedule moves where the slice is the schedule's (R442, R443; log entry 34). -/
theorem bistRun_passes {s u : State} {x : Slice} (hslice : s.bist.slice = some x) (hkind : x.kind ≠ 5)
    (hbar : s.bistBarred x = false) (hsave : checkAcc ⟨0x170, true⟩ .wr x.save (2 ^ 22) s = .ok none u) :
    let v := (u.freeRange x.save (x.save + 2 ^ 22)).bistEnds
    bistRun .pass s = noteCycle
      (if x.auto then v.setFld .bistStat 0 14 ((s.fld .bistStat 0 14 + 1) % max v.schedule.length 1) else v) := by
  intro v
  have hstands : ¬ s.bistBarred x = true := Bool.eq_false_iff.1 hbar
  have hpass : ¬ BistResult.pass = .saveDenied := nofun
  rw [bistRun, bind_ok (get_ok s), hslice]
  dsimp only
  rw [if_neg hstands, if_neg hkind, bind_ok hsave]
  simp only [Option.isSome_none, Bool.false_eq_true, if_false, if_neg hpass, if_neg hkind]
  have hskip (w : State) : skip w = .ok () w := rfl
  rw [bind_ok (modify_ok ..), bind_ok (hskip _), bind_ok (modify_ok ..)]
  cases x.auto with
  | true => exact (bind_ok (get_ok v)).trans (bind_ok (modify_ok ..))
  | false => rfl

/-- A slice that is abandoned counts, and its target is free (R443). -/
theorem bistAbandon_counts {s : State} {x : Slice} (hslice : s.bist.slice = some x) :
    bistAbandon s = .ok () (({ s with bist := { s.bist with slice := none } } : State).satFld .bistStat 32 14) := by
  rw [bistAbandon, bind_ok (get_ok s), hslice]
  rfl

/-- A late cycle is a record with BIST_STAT (R442). -/
theorem bistLate_reports (s : State) : bistLate s = incident 0x11 0 4 (unitWord 0 0) 0 (s.reg .bistStat) s :=
  bind_ok (get_ok s)

/-- Self-test slices (R442, R443). -/
theorem selfTests_complete : selfTestsComplete := by
  refine ⟨?pass, ?abandon, ?late⟩
  case pass =>
    intro s u x hl hslice hkind hbar hsave
    have hrun := bistRun_passes hslice hkind hbar hsave
    refine run_ends_congr hl ?_
    simp only [bind_eq, hrun]
  case abandon =>
    intro s x hl hslice
    refine (run_eq_ends hl _).trans ?_
    rw [after_bind_ok (bistAbandon_counts hslice)]
  case late =>
    intro s hl
    exact run_ends_congr hl (bistLate_reports s)

/-- Settles O43: a slice that passes ends as its target's save area allows; one that is abandoned, and a late cycle, end at
once. -/
theorem selfTestsComplete_holds : Obligations.SelfTestsComplete := selfTests_complete

end Sys2Proof.Machine
end

section
/-!
SUPPORT and RESULT. The module's power controller and its PMBus target (PmbusCommandsComplete):
what acts while the rails are up, also in module reset.
-/

namespace Sys2Proof.Machine

/-! ### Commands of the power controller -/

/-- A command of the power controller ends where its action ends, in module reset too (R469, R475). -/
theorem runAny_eq_ends (m : M Unit) (s : State) : runAny m s = s.ends (after m s) := by
  unfold runAny after
  cases m s <;> rfl

/-- A command of the power controller whose action ends in u. -/
theorem runAny_ends {m : M Unit} {s u : State} (h : m s = .ok () u) : runAny m s = s.ends u := by
  rw [runAny_eq_ends, after_ok h]

/-- With the rails up, what needs them acts. -/
theorem onPower_eq {s : State} (h : s.power.on = true) (m : M Unit) : onPower m s = m s := by
  rw [onPower, bind_ok (get_ok s)]
  exact congrFun (if_pos h) s

/-- A command that needs the rails up, with them up, ends where its action ends. -/
theorem runAny_onPower {m : M Unit} {s : State} (h : s.power.on = true) : runAny (onPower m) s = s.ends (after m s) := by
  rw [runAny_eq_ends, after, onPower_eq h, ← after]

/-- A command that needs the rails up, with them up, whose action ends in u. -/
theorem runAny_onPower_ok {m : M Unit} {s u : State} (h : s.power.on = true) (hm : m s = .ok () u) :
    runAny (onPower m) s = s.ends u := by
  rw [runAny_onPower h, after_ok hm]

/-! ### PMBus -/

/-- The PMBus raises no in-band interrupt, so that its answer is sent alone (R395). -/
theorem answers_pmbus (s : State) (code : Nat) (data : List Nat) :
    s.answers pmbusIface code data = s.sent (.answer pmbusIface code data) := rfl

/-- A PMBus read is answered with its word (R475). -/
theorem pmbus_answers (n v : Nat) (s : State) : pmbus n v s = .ok () (s.answers pmbusIface 0 (leNats v n)) := rfl

/-- A PMBus read of a value of the state, with the rails up. -/
theorem runAny_pmbus {s : State} (h : s.power.on = true) {m : M Unit} {n v : Nat} (hm : m s = pmbus n v s) :
    runAny (onPower m) s = s.ends (s.answers pmbusIface 0 (leNats v n)) :=
  runAny_onPower_ok h (hm.trans (pmbus_answers n v s))

/-- Input current is the last PLDM reading where there is one (log entry 39). -/
theorem inputCurrent_read {s : State} {v : Nat} (h : s.mgmt.sensors[1]? = some v) : inputCurrent s = .ok v s := by
  rw [inputCurrent, bind_ok (get_ok s), h]
  rfl

/-- A code that is no PMBus command of the module is not acknowledged and marks CML (R475). -/
theorem pmbusOther_refuses {code : Nat} (h : code ∉ pmbusCodes) (s : State) :
    pmbusOther code s = .ok () ((s.setPower fun p => { p with word := 2 }).sent (.answer pmbusIface 1 [])) := by
  have hother : ¬ pmbusCodes.contains code = true := by simpa using h
  exact congrFun (if_pos hother) s

/-- The PMBus commands (R475). -/
theorem pmbusCommands_complete : pmbusCommandsComplete := by
  intro s hon reply
  refine ⟨runAny_onPower_ok hon rfl, runAny_pmbus hon rfl, runAny_pmbus hon rfl, runAny_pmbus hon rfl, runAny_pmbus hon rfl,
    runAny_pmbus hon rfl, runAny_pmbus hon rfl, fun v hv => runAny_pmbus hon (bind_ok (inputCurrent_read hv)),
    runAny_pmbus hon rfl, runAny_pmbus hon rfl, runAny_pmbus hon rfl,
    fun code hcode => runAny_onPower_ok hon (pmbusOther_refuses hcode s)⟩

/-- Settles O52: each command is one answer; a code that is none of them marks CML. -/
theorem pmbusCommandsComplete_holds : Obligations.PmbusCommandsComplete := pmbusCommands_complete

end Sys2Proof.Machine
end

section
/-!
SUPPORT and RESULT. Brake, power measurement, warnings and temperature readings (PowerAndTemperatureEventsComplete).
-/

namespace Sys2Proof.Machine

/-! ### Throttling requests and records -/

/-- PWR_STATUS takes the requests (R465). -/
theorem setDuty_ok (s : State) : setDuty s = .ok () (after setDuty s) := by
  rw [setDuty, bind_ok (get_ok s)]
  rfl

/-- A record is raised, and nothing stops it (R436). -/
theorem incident_ok (cls sev code unit : Nat) (d0 d1 : W64) (s : State) :
    incident cls sev code unit d0 d1 s = .ok () (after (incident cls sev code unit d0 d1) s) := rfl

/-- A POWER record holds PWR_STATUS (R469). -/
theorem powerRecord_eq (sev code : Nat) (d0 : W64) (s : State) :
    powerRecord sev code d0 s = incident 0x13 sev code 0 d0 (s.reg .pwrStatus) s := bind_ok (get_ok s)

/-- The power brake asserts (R466). -/
theorem brakeOn_brakes {s : State} (h : s.flag .pwrStatus 8 = false) :
    let u := after setDuty
      ((s.setPower fun p => { p with brake := brakeDuty p.watts (s.fld .pwrCtrl 16 11) }).setFld .pwrStatus 8 1 1)
    let v := u.satFld .pwrStat 0 16
    brakeOn s = incident 0x13 0 1 0 0 (v.reg .pwrStatus) v := by
  intro u v
  have hlow : ¬ s.flag .pwrStatus 8 = true := Bool.eq_false_iff.1 h
  rw [brakeOn, bind_ok (get_ok s), if_pos hlow, bind_ok (modify_ok ..), wrf, bind_ok (modify_ok ..), bind_ok (setDuty_ok _), bump,
    bind_ok (modify_ok ..), powerRecord_eq]

/-- The power brake is released (R466). -/
theorem brakeOff_releases (s : State) :
    brakeOff s = .ok () (after setDuty ((s.setPower fun p => { p with brake := 0 }).setFld .pwrStatus 8 1 0)) := by
  rw [brakeOff, bind_ok (modify_ok ..), wrf, bind_ok (modify_ok ..), setDuty_ok]

/-- A measurement of input power (R465). -/
theorem measure_measures {s : State} (h : s.power.held = false) (watts bound : Nat) :
    let u := after setDuty ((s.setPower fun p => { p with
        watts := watts
        recent := (watts :: p.recent).take 1000
        bound := min bound 255
        input := if s.fld .pwrCtrl 0 11 < watts then p.input ||| 1 else p.input }).setFld .pwrStatus 32 12
          ({ s.power with recent := (watts :: s.power.recent).take 1000 } : PowerSt).average)
    measure watts bound s = .ok ()
      (if u.fld .pwrStatus 0 8 = 0 then u else u.setFld .pwrStat 16 32 (min (u.fld .pwrStat 16 32 + 10) (2 ^ 32 - 1))) := by
  intro u
  have hout : ¬ s.power.held = true := Bool.eq_false_iff.1 h
  rw [measure, bind_ok (modify_ok ..), bind_ok (get_ok _)]
  refine (congrFun (if_pos hout) _).trans ?_
  rw [bind_ok (get_ok _), wrf, bind_ok (modify_ok ..), bind_ok (setDuty_ok _), bind_ok (get_ok _)]
  by_cases hduty : u.fld .pwrStatus 0 8 = 0
  · rw [if_pos hduty]
    exact congrFun (if_neg (not_not.2 hduty)) u
  · rw [if_neg hduty]
    exact congrFun (if_pos hduty) u

/-- The undervoltage warning outside module reset (R469). -/
theorem underWarning_warns {s : State} (h : s.power.held = false) :
    underWarning s = withdraw none 0x13 4 (unitWord 0 0) 0 .pwrStatus
      (s.setPower fun p => { p with input := p.input ||| 0x20 }) := by
  have hout : ¬ s.power.held = true := Bool.eq_false_iff.1 h
  rw [underWarning, bind_ok (modify_ok ..), bind_ok (get_ok _)]
  exact congrFun (if_pos hout) _

/-- A leak outside module reset (R477). -/
theorem leakFound_reports {s : State} (h : s.power.held = false) :
    let u := (s.setPower fun p => { p with leak := true }).setFld .pwrStatus 13 1 1
    leakFound s = incident 0x13 3 5 0 0 (u.reg .pwrStatus) u := by
  intro u
  have hout : ¬ s.power.held = true := Bool.eq_false_iff.1 h
  rw [leakFound, bind_ok (modify_ok ..), bind_ok (get_ok _)]
  refine (congrFun (if_pos hout) _).trans ?_
  rw [wrf, bind_ok (modify_ok ..), powerRecord_eq]

/-- A command of the power controller, with the rails up, ends where another action from another state does. -/
theorem runAny_onPower_congr {m n : M Unit} {s t : State} (h : s.power.on = true) (hm : m s = n t) :
    runAny (onPower m) s = s.ends (after n t) := by
  rw [runAny_onPower h, after, hm, ← after]

/-- Brake, measurement, warning and leak (R463, R465, R466, R469, R477). -/
theorem powerEvents_complete : powerEventsComplete := by
  intro s hl
  obtain ⟨hon, hheld⟩ := id hl
  exact ⟨fun h => run_ends_congr hl (brakeOn_brakes h), run_live hl (brakeOff_releases s),
    fun watts bound => runAny_onPower_ok hon (measure_measures hheld watts bound),
    runAny_onPower_congr hon (underWarning_warns hheld), runAny_onPower_congr hon (leakFound_reports hheld)⟩

/-! ### Temperatures -/

/-- THERM_STATUS takes the readings (R467). -/
theorem forAll_therm (t : List Nat) (l : List Nat) (s : State) :
    forAll l (fun k => wrf .thermStatus (8 * k) 8 (min (t.getD k 0) 255)) s =
      .ok () (l.foldl (fun x k => x.setFld .thermStatus (8 * k) 8 (min (t.getD k 0) 255)) s) := by
  induction l generalizing s with
  | nil => rfl
  | cons k l ih => exact ih (s.setFld .thermStatus (8 * k) 8 (min (t.getD k 0) 255))

/-- Some die reads 125 degrees. -/
theorem dieHot_iff (t : List Nat) :
    (List.range 6).any (fun k => 125 ≤ t.getD k 0) = true ↔ ∃ k < 6, 125 ≤ t.getD k 0 := by
  simp

/-- The power controller turns the rails off where a die reads 125 degrees (R468). -/
theorem shutdown_eq (t : List Nat) (s : State) :
    (if (List.range 6).any (fun k => 125 ≤ t.getD k 0) then powerOff false else pure ()) s =
      .ok () (if (List.range 6).any (fun k => 125 ≤ t.getD k 0) then
        s.moduleReset.setPower fun p => { p with on := false, latched := false, trip := false } else s) := by
  split <;> rfl

/-- In module reset only the monitor sees the readings (R468, R472). -/
theorem thermal_held {s : State} (h : s.power.held = true) (t : List Nat) :
    let u := s.setPower fun p => { p with temps := t }
    thermal t s = .ok () (if (List.range 6).any (fun k => 125 ≤ t.getD k 0) then
      u.moduleReset.setPower fun p => { p with on := false, latched := false, trip := false } else u) := by
  intro u
  have hset : (set u : M Unit) s = .ok () u := rfl
  rw [thermal, bind_ok (get_ok s)]
  dsimp only
  rw [bind_ok hset, if_neg (not_not.2 h)]
  exact shutdown_eq t u

/-- A record that is made on a condition (R469). -/
theorem whenM_powerRecord (c : Bool) (sev code : Nat) (d0 : W64) (s : State) :
    whenM c (powerRecord sev code d0) s =
      .ok () (if c then after (incident 0x13 sev code 0 d0 (s.reg .pwrStatus)) s else s) := by
  cases c <;> rfl

/-- Readings below the trip points reach none of them (R468). -/
theorem below_trips {t : List Nat} (h : ∀ k < 7, t.getD k 0 < if k < 6 then 115 else 105) :
    ¬ (List.range 7).any (fun k => (if k < 6 then 115 else 105) ≤ t.getD k 0) = true := by
  simpa using h

/-- Nor do they reach the shutdown threshold (R468). -/
theorem below_shutdown {t : List Nat} (h : ∀ k < 7, t.getD k 0 < if k < 6 then 115 else 105) :
    ¬ (List.range 6).any (fun k => 125 ≤ t.getD k 0) = true := by
  rw [dieHot_iff]
  rintro ⟨k, hk, hhot⟩
  have := h k (by omega)
  rw [if_pos hk] at this
  omega

/-- Readings outside module reset, all below the trip points (R467). -/
theorem thermal_cool {s : State} (h : s.power.held = false) {t : List Nat}
    (hcool : ∀ k < 7, t.getD k 0 < if k < 6 then 115 else 105) :
    let u := s.setPower fun p => { p with temps := t }
    let hot := (List.range 7).filter fun k => s.throttleAt k ≤ t.getD k 0
    let rising := hot.any fun k => s.power.temps.getD k 0 ≤ t.getD k 0
    let n := if (List.range 7).all fun k => t.getD k 0 + 3 ≤ s.throttleAt k then s.power.cool + 1 else 0
    let v := ((List.range 7).foldl (fun x k => x.setFld .thermStatus (8 * k) 8 (min (t.getD k 0) 255)) u).setPower fun p => { p with
      therm := if rising then min (p.therm + 16) 255 else if n = 10 then p.therm - 16 else p.therm
      cool := if n = 10 then 0 else n
      temp := if hot.isEmpty then p.temp else p.temp ||| 0x40 }
    let w := after setDuty v
    thermal t s = .ok () (if rising && s.power.therm == 0 then after (incident 0x13 0 2 0 0 (w.reg .pwrStatus)) w else w) := by
  intro u hot rising n v w
  have hset : (set u : M Unit) s = .ok () u := rfl
  have hout : ¬ s.power.held = true := Bool.eq_false_iff.1 h
  rw [thermal, bind_ok (get_ok s)]
  dsimp only
  rw [bind_ok hset, if_pos hout, bind_ok (forAll_therm ..), bind_ok (modify_ok ..), bind_ok (setDuty_ok _),
    bind_ok (whenM_powerRecord ..), if_neg (fun h => below_trips hcool h.1)]
  rw [if_neg (below_shutdown hcool)]
  rfl

/-- Temperature readings (R467, R468, R472). -/
theorem temperatureReadings_complete : temperatureReadingsComplete := by
  intro t s hon u
  refine ⟨fun hheld hcool => ?_, fun hheld hhot => ?_, fun hheld hcool => runAny_onPower_ok hon (thermal_cool hheld hcool)⟩
  · refine runAny_onPower_ok hon ((thermal_held hheld t).trans ?_)
    rw [if_neg (mt (dieHot_iff t).1 fun ⟨k, hk, hhot⟩ => absurd (hcool k hk) (Nat.not_lt.2 hhot))]
  · refine runAny_onPower_ok hon ((thermal_held hheld t).trans ?_)
    rw [if_pos ((dieHot_iff t).2 hhot)]

/-- Settles O53: each event is its requests and PWR_STATUS, then its record. -/
theorem powerAndTemperatureEventsComplete : Obligations.PowerAndTemperatureEventsComplete :=
  ⟨powerEvents_complete, temperatureReadings_complete⟩

end Sys2Proof.Machine
end

section
/-!
SUPPORT and RESULT. Rails, module reset and cold start (RailsAndResetsComplete).
-/

namespace Sys2Proof.Machine

/-- A state whose rails have been turned off, with a rail fault latched or not (R469). -/
def State.railsOff (s : State) (latch : Bool) : State :=
  s.moduleReset.setPower fun p => { p with on := false, latched := latch, trip := false }

/-- Rails that are turned off (R469). -/
theorem powerOff_ok (latch : Bool) (s : State) : powerOff latch s = .ok () (s.railsOff latch) := rfl

/-- A lockout turns every rail off; an undervoltage one releases a latched rail fault (R462, R469). -/
theorem lockout_ok (high : Bool) (s : State) : lockout high s = .ok ()
    ((s.railsOff (high && s.power.latched)).setPower fun p => { p with input := p.input ||| (if high then 0x80 else 0x10) }) := by
  rw [lockout, bind_ok (get_ok s), bind_ok (powerOff_ok ..), modify_ok]

/-- VIN below 55 V with the rails up (R469). -/
theorem underLockout_on {s : State} (h : s.power.on = true) : underLockout s = lockout false s := by
  rw [underLockout, bind_ok (get_ok s)]
  exact congrFun (if_pos h) s

/-- VIN below 55 V with the rails off releases a latched rail fault (R469). -/
theorem underLockout_off {s : State} (h : s.power.on = false) :
    underLockout s = .ok () (s.setPower fun p => { p with latched := false }) := by
  rw [underLockout, bind_ok (get_ok s)]
  exact congrFun (if_neg (Bool.eq_false_iff.1 h)) s

/-- A rail that leaves regulation latches the rails off after its record (R469). -/
theorem railFails_ok (rail : Nat) (s : State) : railFails rail s =
    .ok () ((after (incident 0x13 4 6 0 (BitVec.ofNat 64 rail) (s.reg .pwrStatus)) s).railsOff true) := by
  rw [railFails, bind_ok ((powerRecord_eq ..).trans (incident_ok ..)), powerOff_ok]

/-- VIN that rises through 59 V brings the rails up unless a rail fault is latched (R470, R471). -/
theorem vinRises_powers {vin : Nat} {s : State} (hvin : 59 ≤ vin) (hoff : s.power.on = false)
    (hfree : s.power.latched = false) :
    vinRises vin s = .ok () (s.setPower fun p => { p with on := true, held := true, vin := vin }) := by
  have hrise : 59 ≤ vin ∧ ¬ s.power.on = true ∧ ¬ s.power.latched = true := ⟨hvin, by simp [hoff], by simp [hfree]⟩
  rw [vinRises, modify_ok, if_pos hrise]

/-- The boot processor picks the boot firmware and goes on to memory (R446-R451). -/
theorem bootCold_goesOn {env : ColdEnv} {s u v : State} {k : Nat} (hstage : s.fld .bootStatus 0 4 = 1)
    (hfine : s.flag .bootStatus 4 = false) (hruns : s.sec.halted = false) (hpuf : env.pufOk = true) (hoctal : env.octalOk = true)
    (hnonce : drawNonce (s.setFld .mgmtstat 16 3 env.maddr.toNat) = .ok () u) :
    let x := (u.setFld .flashstat 0 2 1).setFld .flashstat 2 1 (b2n env.wpLock)
    pickSlots 0 (x.setFld .bootStatus 11 1 (b2n x.selected.isSome)) = .ok (some k) v →
    let b := v.compBytes 0 k
    bootCold env s = bootMemory env (({ v with sec := { v.sec with
      bootDigest := signedDigest b
      secvers := leAt b 0xC 4 :: v.sec.secvers.drop 1
      fallback := if k = 2 then 1 else 0 } } : State).setFld .bootStatus 5 2 k) := by
  intro x hpick b
  have hgo : ¬ (s.fld .bootStatus 0 4 ≠ 1 ∨ s.flag .bootStatus 4 = true ∨ s.sec.halted = true) := by
    simp [hstage, hfine, hruns]
  have hskip (t : State) (m : M Unit) : whenM (!env.octalOk) m t = .ok () t := by rw [hoctal]; rfl
  rw [bootCold, bind_ok (get_ok s), if_neg hgo, wrf, bind_ok (modify_ok ..), bind_ok hnonce, if_neg (not_not.2 hpuf), wrf,
    bind_ok (modify_ok ..), wrf, bind_ok (modify_ok ..), bind_ok (get_ok _), bind_ok (hskip ..), bind_ok (get_ok _), wrf,
    bind_ok (modify_ok ..), hoctal, if_pos rfl]
  exact bind_ok hpick

/-- Module reset is released with cool dies, and the part cold starts (R446, R471). -/
theorem coldStartGo_boots {env : ColdEnv} {s : State} (hon : s.power.on = true)
    (hcool : ∀ t ∈ s.power.temps.take 6, t ≤ 95) :
    coldStartGo env s = bootCold env (s.setPower fun p => { p with held := false }) := by
  have hgo : s.power.on = true ∧ ¬ (s.power.temps.take 6).any (fun t => 95 < t) = true := ⟨hon, by simpa using hcool⟩
  have hset (u : State) : (set u : M Unit) s = .ok () u := rfl
  rw [coldStartGo, bind_ok (get_ok s), if_pos hgo, bind_ok (hset _)]

/-- A cold start of cool dies (R446, R471). -/
theorem coldStart_boots {env : ColdEnv} {s u v : State} {k : Nat} (hon : s.power.on = true)
    (hcool : ∀ t ∈ s.power.temps.take 6, t ≤ 95) (hstage : s.fld .bootStatus 0 4 = 1) (hfine : s.flag .bootStatus 4 = false) (hruns : s.sec.halted = false)
    (hpuf : env.pufOk = true) (hoctal : env.octalOk = true)
    (hnonce : drawNonce ((s.setPower fun p => { p with held := false }).setFld .mgmtstat 16 3 env.maddr.toNat) = .ok () u) :
    let x := (u.setFld .flashstat 0 2 1).setFld .flashstat 2 1 (b2n env.wpLock)
    pickSlots 0 (x.setFld .bootStatus 11 1 (b2n x.selected.isSome)) = .ok (some k) v →
    let b := v.compBytes 0 k
    exec (.coldStart env) s = s.ends (after (bootMemory env) (({ v with sec := { v.sec with
      bootDigest := signedDigest b
      secvers := leAt b 0xC 4 :: v.sec.secvers.drop 1
      fallback := if k = 2 then 1 else 0 } } : State).setFld .bootStatus 5 2 k)) :=
  fun hpick => runAny_onPower_congr hon
    ((coldStartGo_boots hon hcool).trans (bootCold_goesOn (s := s.setPower _) hstage hfine hruns hpuf hoctal hnonce hpick))

/-- Settles O54: the rails go off or come up at once, and a cold start goes on to memory. -/
theorem railsAndResetsComplete_holds : Obligations.RailsAndResetsComplete := by
  intro s
  refine ⟨fun hon => ⟨?uv, ?ov, fun rail => ?rail, runAny_onPower_ok hon (modify_ok ..)⟩,
    fun hoff => runAny_ends (underLockout_off hoff), fun vin hvin hoff hfree => ?up, ?release, fun env u v k hon hcool hstage hfine hruns hpuf hoctal hnonce =>
      coldStart_boots hon hcool hstage hfine hruns hpuf hoctal hnonce⟩
  case uv => exact runAny_ends ((underLockout_on hon).trans (lockout_ok ..))
  case ov => exact runAny_onPower_ok hon (lockout_ok ..)
  case rail => exact runAny_onPower_ok hon (railFails_ok ..)
  case up => exact (exec_powerUp vin s).trans (runAny_ends (vinRises_powers hvin hoff hfree))
  case release => exact (exec_railFaultRelease s).trans (runAny_ends (modify_ok ..))

end Sys2Proof.Machine
end

section
/-!
SUPPORT and RESULT. The clearing of secrets, rollback counters and owner enrolment (SecurityCommandsComplete).
-/

namespace Sys2Proof.Machine

/-! ### The clearing of secrets -/

/-- The clearing of secrets that succeeds ends in the debug level of its token (R444). -/
theorem secretsEnd_opens {level : Nat} {s v : State} (hclearing : s.sec.clearing = some level)
    (hclear : clearSecrets level ({ s with sec := { s.sec with clearing := none } } : State) = .ok () v) :
    let w := v.setFld .dbgstat 2 1 1
    secretsEnd true s = .ok () ((after (incident 0x12 0 1 0 0 (w.reg .dbgstat)) w).setFld .dbgstat 0 2 level) := by
  intro w
  rw [secretsEnd, bind_ok (get_ok s), hclearing]
  dsimp only
  rw [bind_ok (modify_ok ..), if_pos rfl, bind_ok hclear, wrf, bind_ok (modify_ok ..), bind_ok (get_ok _),
    bind_ok (incident_ok ..)]
  rfl

/-- A clearing that fails refuses its token (R444, R459). -/
theorem secretsEnd_refuses {level : Nat} {s : State} (hclearing : s.sec.clearing = some level) :
    let w := ({ s with sec := { s.sec with clearing := none } } : State).satFld .dbgstat 16 16
    secretsEnd false s = incident 0x12 0 3 0 0 (w.reg .dbgstat) w := by
  intro w
  rw [secretsEnd, bind_ok (get_ok s), hclearing]
  dsimp only
  rw [bind_ok (modify_ok ..), if_neg Bool.false_ne_true, refuseToken, bump, bind_ok (modify_ok ..), bind_ok (get_ok _)]
  rfl

/-! ### Rollback counters -/

/-- The registers show the counters (R453). -/
theorem showCounters_ok (s : State) : showCounters s = .ok () (after showCounters s) :=
  forAll_after (fun _ _ => ⟨_, rfl⟩) _ s

/-- ROLL_CMD brings COMMIT (R453). -/
theorem rollCmd_commits (r : Req) (s : State) (old : W64) :
    writeEffect r .rollCmd old (s.brings r .rollCmd 1) = rollCommit r.world := by
  show whenM (bit (s.brings r .rollCmd 1) 0) (rollCommit r.world) = _
  rw [bit_brings rfl (by decide)]
  rfl

/-- COMMIT from the Job world (R453). -/
theorem rollCommit_job (s : State) : rollCommit false s = .ok () (s.setFld .rollStatus 0 8 1) := rfl

/-- COMMIT in a job (R453). -/
theorem rollCommit_inJob {s : State} (h : s.jobRuns = true) : rollCommit true s = .ok () (s.setFld .rollStatus 0 8 2) := by
  rw [rollCommit, bind_ok (get_ok s), if_neg (not_not.2 rfl), if_pos h]
  rfl

/-- COMMIT outside a job (R453). -/
theorem rollCommit_raises {s : State} (h : s.jobRuns = false) : rollCommit true s =
    .ok () ((after showCounters { s with sec := { s.sec with rpmc := ((List.range 3).map fun k => max (s.sec.rpmc.getD k 0) (s.sec.secvers.getD k 0)) ++ [s.sec.rpmc.getD 3 0] } }).setFld
      .rollStatus 0 8 0) := by
  have hset (u : State) : (set u : M Unit) s = .ok () u := rfl
  rw [rollCommit, bind_ok (get_ok s), if_neg (not_not.2 rfl), if_neg (Bool.eq_false_iff.1 h), bind_ok (hset _),
    bind_ok (showCounters_ok _)]
  rfl

/-- Secrets and rollback counters (R444, R453). -/
theorem secretsAndRollback_complete : secretsAndRollbackComplete := by
  refine ⟨fun level s hl hclearing => ⟨fun v hclear => run_live hl (secretsEnd_opens hclearing hclear),
    run_ends_congr hl (secretsEnd_refuses hclearing)⟩, fun r s h =>
      ⟨fun hw => ?job, fun hw hj => ?inJob, fun hw hj => ?raises⟩⟩
  case job => exact writeReg_endsBus rfl h ((congrFun (rollCmd_commits ..) _).trans (hw ▸ rollCommit_job _))
  case inJob => exact writeReg_endsBus rfl h ((congrFun (rollCmd_commits ..) _).trans (hw ▸ rollCommit_inJob hj))
  case raises => exact writeReg_endsBus rfl h ((congrFun (rollCmd_commits ..) _).trans (hw ▸ rollCommit_raises hj))

/-! ### Owner enrolment -/

/-- A command of a register with one bit, whose write is accepted, acts from the state in which the write is stored (R5, R49). -/
theorem gated_acts {r : Req} {g : Reg} {v : Nat} {m : M Unit} {s : State} (h : s.takes r g v)
    (hv : s.brings r g v = BitVec.ofNat 64 v) : gated r g v m s = m (s.wrote r g v) := by
  obtain ⟨-, hmute, ⟨b, hcheck⟩, haccepts⟩ := h
  have hstore : storeReg g (BitVec.ofNat 64 v) s = .ok () (s.wrote r g v) := by rw [State.wrote, hv]; rfl
  rw [hv] at haccepts
  rw [gated, bind_ok (get_ok s), hmute, if_neg Bool.false_ne_true, bind_ok hcheck]
  dsimp only
  rw [bind_ok (get_ok s), haccepts]
  exact bind_ok hstore

/-- What an accepted request does to the owner record: the keys that it leaves, and the chain that RELEASE and RECOVER erase
(R455). -/
def ownerWrites (op : Nat) (key : List Byte) (keys : List (List Byte)) (slot : Nat) : M Unit := do
  writeOwner (if op = 1 then [key] else if op = 2 then keys ++ [key] else if op = 3 then keys.eraseIdx (slot - 1) else [])
  whenM (3 < op) eraseCert

/-- The code that SEC_MBOX_STATUS shows for a request: 1 where another runs, 8 where flash cannot be written (R456). -/
def mboxCode (busy : Bool) (judged : Nat) (flashOk : Bool) : Nat :=
  if busy then 1 else if judged = 0 ∧ flashOk = false then 8 else judged

/-- The owner's keys (R455). -/
def State.keysOfOwner (s : State) : List (List Byte) := match s.ownerRecord with | some (_, x) => ownerKeys x | none => []

/-- A request of the operation expected is read with its key, judged, and shown with its code (R455, R456). -/
theorem mailbox_judges {op : Nat} {flashOk : Bool} {s v w : State} {b key : List Byte} {p kp : Bool} (hop : 1 ≤ op ∧ op ≤ 5)
    (hfetch : bootFetch true (s.fld .secMboxAddr 3 49 * 8) 3384 s = .ok (b, p) v) (hbody : leAt (b.take 64) 0 4 = op)
    (hkey : if op ≤ 2 then bootFetch true (s.fld .secMboxAddr 3 49 * 8 + leAt (b.take 64) 20 4) 1952 v = .ok (key, kp) w
      else w = v ∧ key = [] ∧ kp = false) :
    let code := mboxCode (w.flag .secMboxStatus 8) (w.enrolCode (b.take 64) (b.drop 64) (p || kp)) flashOk
    mailbox (some op) flashOk s = (do
      if code = 0 then
        mboxBusy
        ownerWrites op key w.keysOfOwner (leAt (b.take 64) 4 4)
      wrf .secMboxStatus 0 8 code : M Unit) w := by
  intro code
  have hwant : ¬ (some op).any (fun k => k ≠ op) = true := by simp
  have hread : (if op = 1 ∨ op = 2 then bootFetch true (s.fld .secMboxAddr 3 49 * 8 + leAt (b.take 64) 20 4) 1952
      else return ([], false)) v = .ok (key, kp) w := by
    by_cases h : op ≤ 2
    · rw [if_pos h] at hkey
      rw [if_pos (by omega), hkey]
    · rw [if_neg h] at hkey
      obtain ⟨rfl, rfl, rfl⟩ := hkey
      rw [if_neg (by omega), pure_ok]
  rw [mailbox, bind_ok (get_ok s), bind_ok hfetch]
  dsimp only
  rw [hbody, if_neg hwant]
  rw [bind_ok hread, bind_ok (get_ok w)]
  have hcode : (if w.flag .secMboxStatus 8 = true then 1
      else if w.enrolCode (b.take 64) (b.drop 64) (p || kp) = 0 ∧ ¬ flashOk = true then 8
      else w.enrolCode (b.take 64) (b.drop 64) (p || kp)) = code := by simp only [code, mboxCode, Bool.not_eq_true]
  simp only [hcode]
  by_cases h : code = 0
  · rw [if_pos h, if_pos h]
    obtain ⟨h1, h5⟩ := hop
    interval_cases op <;> simp [ownerWrites, whenM, skip, State.keysOfOwner] <;> rfl
  · rw [if_neg h, if_neg h]

/-- A request that is refused shows its code; one that is accepted makes its owner record (R455, R456). -/
theorem request_ends {q : MboxReq} {op : Nat} {s v w : State} {b key : List Byte} {p kp : Bool}
    (h : s.takes q.by_ .secMboxCmd 1) (hop : 1 ≤ op ∧ op ≤ 5)
    (hfetch : bootFetch true ((s.wrote q.by_ .secMboxCmd 1).fld .secMboxAddr 3 49 * 8) 3384 (s.wrote q.by_ .secMboxCmd 1) =
      .ok (b, p) v)
    (hbody : leAt (b.take 64) 0 4 = op)
    (hkey : if op ≤ 2 then
        bootFetch true ((s.wrote q.by_ .secMboxCmd 1).fld .secMboxAddr 3 49 * 8 + leAt (b.take 64) 20 4) 1952 v = .ok (key, kp) w
      else w = v ∧ key = [] ∧ kp = false) :
    let code := mboxCode (w.flag .secMboxStatus 8) (w.enrolCode (b.take 64) (b.drop 64) (p || kp)) q.flashOk
    (code ≠ 0 → run (gated q.by_ .secMboxCmd 1 (mailbox (some op) q.flashOk)) s =
      s.ends (w.setFld .secMboxStatus 0 8 code)) ∧
    (code = 0 → run (gated q.by_ .secMboxCmd 1 (mailbox (some op) q.flashOk)) s = s.ends (after (do
      mboxBusy
      ownerWrites op key w.keysOfOwner (leAt (b.take 64) 4 4)
      wrf .secMboxStatus 0 8 0) w)) := by
  intro code
  have hrun := (gated_acts (m := mailbox (some op) q.flashOk) h rfl).trans
    (mailbox_judges (flashOk := q.flashOk) hop hfetch hbody hkey)
  refine ⟨fun hcode => run_live h.1 (hrun.trans (congrFun (if_neg hcode) w)), fun hcode => run_ends_congr h.1 (hrun.trans ?_)⟩
  refine (congrFun (if_pos hcode) w).trans ?_
  rw [show mboxCode _ _ _ = 0 from hcode]

/-- Owner enrolment (R455, R456). -/
theorem enrolments_complete : enrolmentsComplete := by
  intro q s v w b key p kp e he htakes a hfetch body hbody hkey judged code keys
  have hwrites : (do
      mboxBusy
      ownerWrites e.1 key keys (leAt body 4 4)
      wrf .secMboxStatus 0 8 0 : M Unit) = (do
      mboxBusy
      writeOwner (if e.1 = 1 then [key] else if e.1 = 2 then keys ++ [key]
        else if e.1 = 3 then keys.eraseIdx (leAt body 4 4 - 1) else [])
      whenM (3 < e.1) eraseCert
      wrf .secMboxStatus 0 8 0) := by simp only [ownerWrites, bind_assoc]
  rw [← hwrites]
  simp only [List.mem_cons, List.not_mem_nil, or_false] at he
  rcases he with rfl | rfl | rfl | rfl | rfl <;> exact request_ends htakes (by decide) hfetch hbody hkey

/-- Settles O55: the clearing of secrets, the rollback counters and each request come to the end that their checks allow. -/
theorem securityCommandsComplete : Obligations.SecurityCommandsComplete := ⟨secretsAndRollback_complete, enrolments_complete⟩

end Sys2Proof.Machine
end

section
/-!
SUPPORT and RESULT. Software interrupts, the incident ring, and recoveries that come too late
(InterruptAndIncidentCommandsComplete).
-/

namespace Sys2Proof.Machine

/-! ### Software interrupts -/

/-- A write of INT_SET brings a bit of a byte of its own world, or any from the Service world (R405). -/
theorem brings_intSet {r : Req} {v : Nat} (hv : v = 1 ∨ v = 0x100) (t th : Nat) (s : State) :
    s.brings r (.intSet t th) v = if v = 1 ∨ r.world = true then BitVec.ofNat 64 v else 0 := by
  have hboth : (Reg.intSet t th).bothWorlds = true := rfl
  have hwidth : (Reg.intSet t th).width = 32 := rfl
  unfold State.brings worldValue
  rw [hboth, hwidth]
  rcases hv with rfl | rfl <;> cases r.world <;> rfl

/-- A bit of INT_SET makes the software interrupt of its world pending (R405, R417). -/
theorem setSoft_pends (t th : Nat) (v : W64) (s : State) : setSoft t th v s =
    .ok () (let u := if bit v 0 then s.setFld (.intPend t th) 0 1 1 else s
      if bit v 8 then u.setFld (.intPend t th) 8 1 1 else u) := by
  unfold setSoft whenM
  cases bit v 0 <;> cases bit v 8 <;> rfl

/-- SOFT_J and SOFT_S (R405, R417). -/
theorem softInterrupts_complete : softInterruptsComplete := by
  intro r t s
  refine ⟨fun h => writeReg_endsBus rfl h ?_, fun h hw => writeReg_endsBus rfl h ?_, fun h hw => writeReg_endsBus rfl h ?_⟩
  · rw [brings_intSet (.inl rfl), if_pos (.inl rfl)]
    exact setSoft_pends ..
  · rw [brings_intSet (.inr rfl), if_pos (.inr hw)]
    exact setSoft_pends ..
  · rw [brings_intSet (.inr rfl), if_neg (by simp [hw])]
    exact setSoft_pends ..

/-! ### The incident ring -/

/-- INC_RING without EN changes nothing of the records that are held (R436). -/
theorem ringOn_off {s : State} (h : s.flag .incRing 0 = false) : ringOn s = .ok () s := by
  rw [ringOn, bind_ok (get_ok s)]
  exact congrFun (if_neg (Bool.eq_false_iff.1 h)) s

/-- INC_RING with EN has the records that are held written (R436). -/
theorem ringOn_writes {s : State} (h : s.flag .incRing 0 = true) :
    let p := placeHeld s s.collector.opened
    ringOn s = raise p.2.2 (p.1.setOpened p.2.1) := by
  intro p
  rw [ringOn, bind_ok (get_ok s), if_pos h]
  rfl

/-- The end of a record's window writes it for the last time, or keeps it as final (R437). -/
theorem windowEnds_finalises {k : Nat} {o : OpenRec} {s : State} (hopen : s.collector.opened[k]? = some o)
    (hfinal : o.final = false) (hend : o.rc.first.toNat + 2 ^ 20 ≤ s.tideNow) :
    let p := finalise s o
    windowEnds k s = raise p.2.2
      (p.1.setOpened (s.collector.opened.take k ++ p.2.1.toList ++ s.collector.opened.drop (k + 1))) := by
  intro p
  rw [windowEnds, bind_ok (get_ok s), hopen]
  have hgo : o.rc.first.toNat + 2 ^ 20 ≤ s.tideNow ∧ ¬ o.final = true := ⟨hend, Bool.eq_false_iff.1 hfinal⟩
  exact congrFun (if_pos hgo) s

/-- The incident ring (R436, R437). -/
theorem incidentRing_complete : incidentRingComplete := by
  refine ⟨fun r v s h => ⟨fun hoff => ?off, fun hon => ?on⟩, fun r head s h => ?head,
    fun k o s hl hopen hfinal hend => ?window⟩
  case off => exact writeReg_endsBus rfl h (ringOn_off hoff)
  case on => exact writeReg_ends_congr rfl h (ringOn_writes hon)
  case head => exact writeReg_endsBus rfl h (modify_ok ..)
  case window => exact run_ends_congr hl (windowEnds_finalises hopen hfinal hend)

/-! ### Recoveries that come too late -/

/-- What is done on a condition that holds (R440). -/
theorem whenM_holds {c : Bool} (h : c = false) (m : M Unit) (s : State) : whenM (!c) m s = m s := by
  rw [h]
  rfl

/-- A late recovery of an array takes out the block of its last comparison, else the array's first (R440; log entry 40). -/
theorem recoveryLate_array {t : Fin 64} {n : Fin 16} {kind : Nat} {bl : List Nat} {s : State}
    (harray : (s.treeArrays t)[n.val]? = some (kind, bl)) (hruns : s.flag (.mxArray t n) 22 = true) :
    let last := s.fld (.mxTallyLast t) 39 4
    recoveryLate (.array t n) s =
      blockOut t n (if s.fld (.mxTallyLast t) 0 4 = n ∧ bl.contains last then last else bl.headD 0) s := by
  intro last
  rw [recoveryLate, bind_ok (get_ok s)]
  dsimp only
  rw [harray]
  exact congrFun (if_pos hruns) s

/-- A late recovery of a domain that still takes part takes it out (R440). -/
theorem recoveryLate_bank {t : Fin 64} {s : State} (h : s.flag (.treeHealth t) 0 = false) (b : Fin 32) :
    recoveryLate (.bank t b) s = fenceTree (some (.bank t b)) t s := (bind_ok (get_ok s)).trans (whenM_holds h ..)

theorem recoveryLate_thread {k : Tid} {s : State} (h : s.flag (.treeHealth (k.k / 4)) 0 = false) :
    recoveryLate (.thread k) s = fenceTree (some (.thread k.k)) (k.k / 4) s := (bind_ok (get_ok s)).trans (whenM_holds h ..)

theorem recoveryLate_tree {t : Fin 64} {s : State} (h : s.flag (.treeHealth t) 0 = false) :
    recoveryLate (.tree t) s = fenceTree (some (.tree t)) t s := (bind_ok (get_ok s)).trans (whenM_holds h ..)

theorem recoveryLate_landing {l : Fin 16} {s : State} (h : (s.link l).retrain = true) :
    recoveryLate (.landing l) s = downLanding l s := by
  refine (bind_ok (get_ok s)).trans ?_
  show whenM (s.link l).retrain _ s = _
  rw [h]
  rfl

theorem recoveryLate_channel {c : Fin 48} {s : State} (h : s.flag (.nbHealth (c / 6) (c % 6)) 7 = false) :
    recoveryLate (.channel c) s = failChannel c s := (bind_ok (get_ok s)).trans (whenM_holds h ..)

/-- A watchdog in the course of a reset contains the thread's tree (R440). -/
theorem watchdogExpires_contains {k : Nat} {s : State} (hon : s.flag .wdCtrl 16 = true) (hreset : s.inReset k = true) :
    watchdogExpires k s = contain (k / 4) 0 s := by
  rw [watchdogExpires, bind_ok (get_ok s), if_pos ⟨hon, hreset⟩]

/-- A watchdog of a thread that waits for nothing bounded resets it, reports and counts it (R429). -/
theorem watchdogExpires_resets {k : Nat} {s u : State} (hon : s.flag .wdCtrl 16 = true) (hreset : s.inReset k = false)
    (hrun : s.flag (.excStatus (k / 4) (k % 4)) 1 = false) (hpage : ∀ p, (s.thread k).hold ≠ .page p)
    (hepoch : ∀ p q r, (s.thread k).hold ≠ .epoch p q r) (hthread : resetThread k s = .ok () u) :
    watchdogExpires k s = survive (.thread k) 50 0x10 2 1 (unitWord 3 k) 0 (.treeHealth (k / 4)) u := by
  have hcourse : ¬ (s.flag .wdCtrl 16 = true ∧ s.inReset k = true) := fun h => Bool.eq_false_iff.1 hreset h.2
  rw [watchdogExpires, bind_ok (get_ok s), if_neg hcourse]
  refine (congrFun (if_pos ⟨hon, Bool.eq_false_iff.1 hrun, ?_⟩) s).trans (bind_ok hthread)
  split
  next p h => exact absurd h (hpage p)
  next p q r h => exact absurd h (hepoch p q r)
  next => exact Bool.false_ne_true

/-- Recoveries that come too late, and watchdogs (R429, R440). -/
theorem lateRecoveries_complete : lateRecoveriesComplete := fun _ hl =>
  ⟨fun _ _ _ _ harray hruns => run_ends_congr hl (recoveryLate_array harray hruns),
    fun _ b h => run_ends_congr hl (recoveryLate_bank h b), fun _ h => run_ends_congr hl (recoveryLate_thread h),
    fun _ h => run_ends_congr hl (recoveryLate_tree h), fun _ h => run_ends_congr hl (recoveryLate_landing h),
    fun _ h => run_ends_congr hl (recoveryLate_channel h),
    fun _ hon hreset => run_ends_congr hl (watchdogExpires_contains hon hreset),
    fun _ _ hon hreset hrun hpage hepoch hthread =>
      run_ends_congr hl (watchdogExpires_resets hon hreset hrun hpage hepoch hthread)⟩

/-- Settles O56: software interrupts and the ring are their register's effect; a late recovery takes its domain out. -/
theorem interruptAndIncidentCommandsComplete : Obligations.InterruptAndIncidentCommandsComplete :=
  ⟨softInterrupts_complete, incidentRing_complete, lateRecoveries_complete⟩

end Sys2Proof.Machine
end

section
/-!
SUPPORT. Canonical memory through the actions of the model: a calculus for "an action that starts with memory in canonical form
ends with memory in canonical form, however it ends" (spec/11_memory_tiers.md, log entry 5), with one rule for each way to
build an action. The rules are `simp` rules, so an action that only puts together actions already known to keep the form is
dealt with by its own definition.
-/

namespace Sys2Proof.Machine

/-! ### The calculus -/

/-- Memory is in canonical form in the state that an outcome leaves. -/
def EndsOk {α : Type} : EStateM.Result Stop State α → Prop
  | .ok _ t => MemOk t
  | .error _ t => MemOk t

/-- An action that starts in s with memory in canonical form ends with memory in canonical form. -/
structure KeepsAt {α : Type} (m : M α) (s : State) : Prop where
  ends : MemOk s → EndsOk (m s)

/-- An action that keeps the form wherever it starts keeps it from s. -/
theorem keepsAt_of_keeps {α : Type} {m : M α} {s : State} (h : Keeps m) : KeepsAt m s := ⟨fun hs => by
  have := h s hs
  unfold EndsOk
  split at this <;> simp_all⟩

/-- m, started in s, answers a in t. -/
structure Yields {α : Type} (m : M α) (s : State) (a : α) (t : State) : Prop where
  eq : m s = .ok a t

@[simp] theorem keepsAt_pure {α : Type} (a : α) (s : State) : KeepsAt (pure a : M α) s := ⟨fun h => h⟩
@[simp] theorem keepsAt_skip (s : State) : KeepsAt skip s := ⟨fun h => h⟩
@[simp] theorem keepsAt_get (s : State) : KeepsAt (get : M State) s := ⟨fun h => h⟩
@[simp] theorem keepsAt_throw {α : Type} (e : Stop) (s : State) : KeepsAt (throw e : M α) s := ⟨fun h => h⟩

/-- A change of the state keeps the form where the new state has it. -/
@[simp] theorem keepsAt_modify (f : State → State) (s : State) : KeepsAt (modify f : M PUnit) s ↔ (MemOk s → MemOk (f s)) :=
  ⟨fun h => h.ends, fun h => ⟨h⟩⟩

@[simp] theorem keepsAt_set (t : State) (s : State) : KeepsAt (set t : M PUnit) s ↔ (MemOk s → MemOk t) :=
  ⟨fun h => h.ends, fun h => ⟨h⟩⟩

/-- An action that depends on the state it starts in: what `get` and the rest of an action come to. -/
def withState {β : Type} (f : State → M β) : M β := fun s => f s s

/-- What follows a reading of the state starts in that state; `simp` sees it before the rule of a sequence. -/
@[simp] theorem get_bind_eq_withState {β : Type} (f : State → M β) : ((get : M State) >>= f) = withState f := rfl

@[simp] theorem keepsAt_withState {β : Type} (f : State → M β) (s : State) : KeepsAt (withState f) s ↔ KeepsAt (f s) s :=
  ⟨fun h => ⟨h.ends⟩, fun h => ⟨h.ends⟩⟩

/-- The same, of an action as it is written. -/
theorem keepsAt_get_bind {β : Type} (f : State → M β) (s : State) :
    KeepsAt ((get : M State) >>= f) s ↔ KeepsAt (f s) s := keepsAt_withState f s

/-- Two actions in sequence: the second starts where the first ends, with the first's answer. -/
@[simp] theorem keepsAt_bind {α β : Type} {m : M α} {f : α → M β} {s : State} (hm : KeepsAt m s) :
    KeepsAt (m >>= f) s ↔ ∀ a t, MemOk s → MemOk t → Yields m s a t → KeepsAt (f a) t := by
  constructor
  · intro h a t hs ht hy
    have := h.ends hs
    rw [bind_eq, hy.eq] at this
    exact ⟨fun _ => this⟩
  · refine fun h => ⟨fun hs => ?_⟩
    have h1 := hm.ends hs
    rw [bind_eq]
    cases hc : m s with
    | ok a t =>
      rw [hc] at h1
      exact (h a t hs h1 ⟨hc⟩).ends h1
    | error e t =>
      rw [hc] at h1
      exact h1

/-- The same, where the rest depends on nothing but that memory is in canonical form. -/
theorem KeepsAt.bind {α β : Type} {m : M α} {f : α → M β} {s : State} (hm : KeepsAt m s)
    (hf : ∀ a t, MemOk t → KeepsAt (f a) t) : KeepsAt (m >>= f) s :=
  (keepsAt_bind hm).2 fun a t _ ht _ => hf a t ht

/-- A function of an answer changes no state. -/
@[simp] theorem keepsAt_map {α β : Type} {m : M α} {g : α → β} {s : State} : KeepsAt (g <$> m) s ↔ KeepsAt m s := by
  have h : EndsOk ((g <$> m) s) ↔ EndsOk (m s) := by
    change EndsOk (EStateM.map g m s) ↔ _
    unfold EStateM.map
    cases m s <;> rfl
  exact ⟨fun hm => ⟨fun hs => h.1 (hm.ends hs)⟩, fun hm => ⟨fun hs => h.2 (hm.ends hs)⟩⟩

@[simp] theorem keepsAt_ite {α : Type} {c : Prop} [Decidable c] {m n : M α} {s : State} :
    KeepsAt (if c then m else n) s ↔ (c → KeepsAt m s) ∧ (¬ c → KeepsAt n s) := by
  by_cases h : c <;> simp [h]

@[simp] theorem keepsAt_dite {α : Type} {c : Prop} [Decidable c] {m : c → M α} {n : ¬ c → M α} {s : State} :
    KeepsAt (if h : c then m h else n h) s ↔ (∀ h : c, KeepsAt (m h) s) ∧ (∀ h : ¬ c, KeepsAt (n h) s) := by
  by_cases h : c <;> simp [h]

@[simp] theorem keepsAt_whenM {c : Bool} {m : M Unit} {s : State} : KeepsAt (whenM c m) s ↔ (c = true → KeepsAt m s) := by
  cases c <;> simp [whenM]

/-- One action for each element of a list. -/
@[simp] theorem keepsAt_forAll {α : Type} {l : List α} {f : α → M Unit} {s : State} (hf : ∀ a t, KeepsAt (f a) t) :
    KeepsAt (forAll l f) s := by
  induction l generalizing s with
  | nil => exact keepsAt_skip s
  | cons a l ih => exact .bind (hf a s) fun _ _ _ => ih

/-- One answer for each element of a list. -/
@[simp] theorem keepsAt_mapAll {α β : Type} {l : List α} {f : α → M β} {s : State} (hf : ∀ a t, KeepsAt (f a) t) :
    KeepsAt (mapAll l f) s := by
  induction l generalizing s with
  | nil => exact keepsAt_pure [] s
  | cons a l ih => exact .bind (hf a s) fun _ _ _ => .bind ih fun _ _ _ => keepsAt_pure ..

/-- An action with a handler of its stops. -/
@[simp] theorem keepsAt_tryCatch {α : Type} {m : M α} {f : Stop → M α} {s : State} (hm : KeepsAt m s)
    (hf : ∀ e t, KeepsAt (f e) t) : KeepsAt (tryCatch m f) s := by
  refine ⟨fun hs => ?_⟩
  have h1 := hm.ends hs
  change EndsOk (EStateM.tryCatch m f s)
  unfold EStateM.tryCatch
  cases hc : m s with
  | ok a t =>
    rw [hc] at h1
    exact h1
  | error e t =>
    rw [hc] at h1
    exact (hf e t).ends h1

/-! A loop, a condition or a handler in front of other actions: the rules above with the search for the first part's form
spelled out, which `simp` would not go deep enough to find. -/

@[simp] theorem keepsAt_forAll_bind {α β : Type} {l : List α} {f : α → M Unit} {g : Unit → M β} {s : State}
    (hf : ∀ a t, KeepsAt (f a) t) :
    KeepsAt (forAll l f >>= g) s ↔ ∀ a t, MemOk s → MemOk t → Yields (forAll l f) s a t → KeepsAt (g a) t :=
  keepsAt_bind (keepsAt_forAll hf)

@[simp] theorem keepsAt_mapAll_bind {α β γ : Type} {l : List α} {f : α → M β} {g : List β → M γ} {s : State}
    (hf : ∀ a t, KeepsAt (f a) t) :
    KeepsAt (mapAll l f >>= g) s ↔ ∀ a t, MemOk s → MemOk t → Yields (mapAll l f) s a t → KeepsAt (g a) t :=
  keepsAt_bind (keepsAt_mapAll hf)

@[simp] theorem keepsAt_whenM_bind {β : Type} {c : Bool} {m : M Unit} {g : Unit → M β} {s : State}
    (hm : c = true → KeepsAt m s) :
    KeepsAt (whenM c m >>= g) s ↔ ∀ a t, MemOk s → MemOk t → Yields (whenM c m) s a t → KeepsAt (g a) t :=
  keepsAt_bind (keepsAt_whenM.2 hm)

@[simp] theorem keepsAt_tryCatch_bind {α β : Type} {m : M α} {f : Stop → M α} {g : α → M β} {s : State}
    (hm : KeepsAt m s) (hf : ∀ e t, KeepsAt (f e) t) :
    KeepsAt (tryCatch m f >>= g) s ↔ ∀ a t, MemOk s → MemOk t → Yields (tryCatch m f) s a t → KeepsAt (g a) t :=
  keepsAt_bind (keepsAt_tryCatch hm hf)

theorem keepsAt_pure_bind {α β : Type} {a : α} {g : α → M β} {s : State} :
    KeepsAt ((pure a : M α) >>= g) s ↔ KeepsAt (g a) s := ⟨fun h => ⟨h.ends⟩, fun h => ⟨h.ends⟩⟩

/-- A record update of other fields, as a rule for `simp`. -/
@[simp] theorem memOk_mk {s : State}
    {x0 x2 x3 x4 x5 x6 x7 x8 x9 x10 x11 x12 x13 x14 x15 x16 x17 x18 x19 x20 x21 x22 x23 x24 x25 x26 x27 x28 x29 x30 x31 x32
      x33 x34 x35 x36 x37 x38 x39 x40 x41 x42 x43 x44 x45 x46 x47 x48 x50 x51 x52 x53 x54 x55 x56 x57 x58 x59}
    : MemOk (State.mk
     x0 s.mem x2 x3 x4 x5 x6 x7 x8 x9 x10 x11 x12 x13 x14 x15 x16 x17 x18 x19 x20 x21 x22 x23 x24 x25 x26 x27 x28 x29 x30 x31
        x32 x33 x34 x35 x36 x37 x38 x39 x40 x41 x42 x43 x44 x45 x46 x47 x48 s.freeMem x50 x51 x52 x53 x54 x55 x56 x57 x58 x59) ↔ MemOk s := mk_iff

/-! ### Updates of the state -/

theorem foldl_iff {α : Type} {f : State → α → State} (l : List α) (hf : ∀ s a, MemOk (f s a) ↔ MemOk s) (s : State) :
    MemOk (l.foldl f s) ↔ MemOk s := by
  induction l generalizing s with
  | nil => rfl
  | cons a r ih => exact (ih (f s a)).trans (hf s a)

@[simp] theorem memOk_ite {c : Prop} [Decidable c] {s t : State} :
    MemOk (if c then s else t) ↔ (c → MemOk s) ∧ (¬ c → MemOk t) := by
  by_cases h : c <;> simp [h]

@[simp] theorem memOk_setReg (s : State) (r : Reg) (v : W64) : MemOk (s.setReg r v) ↔ MemOk s := memOk_eq rfl rfl
@[simp] theorem memOk_setFld (s : State) (r : Reg) (lo n v : Nat) : MemOk (s.setFld r lo n v) ↔ MemOk s := memOk_eq rfl rfl
@[simp] theorem memOk_satFld (s : State) (r : Reg) (lo n : Nat) : MemOk (s.satFld r lo n) ↔ MemOk s := memOk_eq rfl rfl
@[simp] theorem memOk_addFld (s : State) (r : Reg) (lo n k : Nat) : MemOk (s.addFld r lo n k) ↔ MemOk s := memOk_eq rfl rfl
@[simp] theorem memOk_setThread (s : State) (k : Nat) (x : ThreadSt) : MemOk (s.setThread k x) ↔ MemOk s := memOk_eq rfl rfl
@[simp] theorem memOk_setTree (s : State) (k : Nat) (x : TreeSt) : MemOk (s.setTree k x) ↔ MemOk s := memOk_eq rfl rfl
@[simp] theorem memOk_sbLatch (s : State) (t : Nat) : MemOk (s.sbLatch t) ↔ MemOk s := memOk_eq rfl rfl
@[simp] theorem memOk_denyLog (s : State) (r : Req) (w : Bool) (a sel c : Nat) :
    MemOk (s.denyLog r w a sel c) ↔ MemOk s := by simp [State.denyLog]
@[simp] theorem memOk_setLinePoison (s : State) (l : Nat) (p : Bool) :
    MemOk (s.setLinePoison l p) ↔ MemOk s := memOk_eq rfl rfl
@[simp] theorem memOk_handle (s : State) (d : Dom) (cls code unit : Nat) (u : Option Nat) :
    MemOk (s.handle d cls code unit u) ↔ MemOk s := by
  simp only [State.handle]
  split <;> exact memOk_eq rfl rfl
@[simp] theorem memOk_handledUntil (s : State) (d : Dom) (u : Option Nat) :
    MemOk (s.handledUntil d u) ↔ MemOk s := memOk_eq rfl rfl
@[simp] theorem memOk_endHandling (s : State) (d : Dom) : MemOk (s.endHandling d) ↔ MemOk s := memOk_eq rfl rfl
@[simp] theorem memOk_recovery (s : State) (cls us : Nat) : MemOk (s.recovery cls us) ↔ MemOk s := by simp [State.recovery]
@[simp] theorem memOk_inForce (s : State) (r : Reg) : MemOk (s.inForce r) ↔ MemOk s := memOk_eq rfl rfl
@[simp] theorem memOk_setQState (s : State) (q n : Nat) : MemOk (s.setQState q n) ↔ MemOk s := by
  simp only [State.setQState]
  split <;> exact memOk_eq rfl rfl
@[simp] theorem memOk_loseJournal (s : State) : MemOk s.loseJournal ↔ MemOk s := memOk_eq rfl rfl
@[simp] theorem memOk_noteLast (s : State) (c row slot : Nat) (ue : Bool) :
    MemOk (s.noteLast c row slot ue) ↔ MemOk s := by simp [State.noteLast]
@[simp] theorem memOk_noteHw (s : State) (t bank row : Nat) (ue : Bool) :
    MemOk (s.noteHw t bank row ue) ↔ MemOk s := memOk_eq rfl rfl
@[simp] theorem memOk_setFlaw (s : State) (l : Nat) (x : LineFlaw) : MemOk (s.setFlaw l x) ↔ MemOk s := memOk_eq rfl rfl
@[simp] theorem memOk_strike (s : State) (l : Nat) (e : List (Nat × Nat)) : MemOk (s.strike l e) ↔ MemOk s := memOk_eq rfl rfl
@[simp] theorem memOk_strikeTag (s : State) (c row : Nat) (x : BitVec 64) :
    MemOk (s.strikeTag c row x) ↔ MemOk s := memOk_eq rfl rfl
@[simp] theorem memOk_closeRow (s : State) (c : Nat) (o : OpenRow) : MemOk (s.closeRow c o) ↔ MemOk s := by
  simp only [State.closeRow]
  split
  · rfl
  · simpa using foldl_iff _ (fun s x => memOk_strike ..) s
@[simp] theorem memOk_changeRow (s : State) (c row : Nat) : MemOk (s.changeRow c row) ↔ MemOk s := by
  simp only [State.changeRow]
  split <;> simp
@[simp] theorem memOk_sendMsix (s : State) (v : Nat) : MemOk (s.sendMsix v) ↔ MemOk s := by
  simp only [State.sendMsix]
  split <;> simp
@[simp] theorem memOk_holdEvent (s : State) (q : Nat) (ev : Ev) : MemOk (s.holdEvent q ev) ↔ MemOk s := memOk_eq rfl rfl
@[simp] theorem memOk_startEvents (s : State) (q : Nat) : MemOk (s.startEvents q) ↔ MemOk s := by
  simp only [State.startEvents]
  split <;> simp
@[simp] theorem memOk_dropRec (s : State) (sev : Nat) : MemOk (s.dropRec sev) ↔ MemOk s := memOk_eq rfl rfl
@[simp] theorem memOk_setOpened (s : State) (l : List OpenRec) : MemOk (s.setOpened l) ↔ MemOk s := memOk_eq rfl rfl
@[simp] theorem memOk_notePrimary (s : State) (r : Rec) (i : Nat) : MemOk (s.notePrimary r i) ↔ MemOk s := memOk_eq rfl rfl
@[simp] theorem memOk_setCanopy (s : State) (g : Nat) (c : CanopySt) : MemOk (s.setCanopy g c) ↔ MemOk s := memOk_eq rfl rfl
@[simp] theorem memOk_putSector (s : State) (g a : Nat) (x : Sector) : MemOk (s.putSector g a x) ↔ MemOk s := by
  simp only [State.putSector]
  split <;> simp
@[simp] theorem memOk_dropSector (s : State) (g a : Nat) : MemOk (s.dropSector g a) ↔ MemOk s := memOk_eq rfl rfl
@[simp] theorem memOk_endUnit (s : State) (w : Waiter) : MemOk (s.endUnit w) ↔ MemOk s := memOk_eq rfl rfl
@[simp] theorem memOk_forget (s : State) (w : Waiter) : MemOk (s.forget w) ↔ MemOk s := memOk_eq rfl rfl
@[simp] theorem memOk_unissue (s : State) (k : Nat) : MemOk (s.unissue k) ↔ MemOk s := by
  simp only [State.unissue]
  split <;> simp
@[simp] theorem memOk_endDouble (s : State) (k : Nat) : MemOk (s.endDouble k) ↔ MemOk s := memOk_eq rfl rfl
@[simp] theorem memOk_scrubbedRow (s : State) (c : Nat) : MemOk (s.scrubbedRow c) ↔ MemOk s := by
  simp only [State.scrubbedRow]
  split <;> simp
@[simp] theorem memOk_strikeNear (s : State) (c : Nat) (e : NearErr) : MemOk (s.strikeNear c e) ↔ MemOk s := by
  simp only [State.strikeNear]
  repeat' split
  all_goals simp
@[simp] theorem memOk_strikeRow (s : State) (c : Nat) (e : TagErr) : MemOk (s.strikeRow c e) ↔ MemOk s := by
  simp only [State.strikeRow]
  split <;> simp
@[simp] theorem memOk_strikeHeart (s : State) (t h : Nat) (x : List (Nat × Nat)) : MemOk (s.strikeHeart t h x) ↔ MemOk s := by
  simp only [State.strikeHeart]
  repeat' split
  all_goals simp
@[simp] theorem memOk_setHold (s : State) (w : Waiter) (h : Hold) : MemOk (s.setHold w h) ↔ MemOk s := by
  simp only [State.setHold]
  repeat' split
  all_goals simp
@[simp] theorem memOk_dropTlb (s : State) (p : TlbEntry → Bool) : MemOk (s.dropTlb p) ↔ MemOk s := memOk_eq rfl rfl
@[simp] theorem memOk_markInval (s : State) (l : List TlbEntry) : MemOk (s.markInval l) ↔ MemOk s := memOk_eq rfl rfl
@[simp] theorem memOk_setLink (s : State) (l : Nat) (x : LinkSt) : MemOk (s.setLink l x) ↔ MemOk s := memOk_eq rfl rfl
@[simp] theorem memOk_setRun (s : State) (l : Nat) (r : LRun) : MemOk (s.setRun l r) ↔ MemOk s := memOk_eq rfl rfl
@[simp] theorem memOk_dropRun (s : State) (l q : Nat) : MemOk (s.dropRun l q) ↔ MemOk s := memOk_eq rfl rfl
@[simp] theorem memOk_awaits (s : State) (l : Nat) (a : Await) : MemOk (s.awaits l a) ↔ MemOk s := memOk_eq rfl rfl
@[simp] theorem memOk_setNow (s : State) (v : W64) : MemOk (s.setNow v) ↔ MemOk s := memOk_eq rfl rfl
@[simp] theorem memOk_setSect (s : State) (i : Nat) (b : List Byte) : MemOk (s.setSect i b) ↔ MemOk s := memOk_eq rfl rfl
@[simp] theorem memOk_imgFactory (s : State) : MemOk s.imgFactory ↔ MemOk s := memOk_eq rfl rfl
@[simp] theorem memOk_clearRules (s : State) : MemOk s.clearRules ↔ MemOk s := memOk_eq rfl rfl
@[simp] theorem memOk_mapRegs (s : State) (f : Reg → W64 → W64) : MemOk (s.mapRegs f) ↔ MemOk s := memOk_eq rfl rfl
@[simp] theorem memOk_bistEnds (s : State) : MemOk s.bistEnds ↔ MemOk s := memOk_eq rfl rfl
@[simp] theorem memOk_setFlash (s : State) (off : Nat) (l : List Byte) : MemOk (s.setFlash off l) ↔ MemOk s := by
  induction l generalizing s off with
  | nil => rfl
  | cons b r ih => exact (ih ..).trans (memOk_eq rfl rfl)
@[simp] theorem memOk_eraseFlash (s : State) (off n : Nat) : MemOk (s.eraseFlash off n) ↔ MemOk s := memOk_eq rfl rfl
@[simp] theorem memOk_setPower (s : State) (f : PowerSt → PowerSt) : MemOk (s.setPower f) ↔ MemOk s := memOk_eq rfl rfl
@[simp] theorem memOk_setPast (s : State) (k : Nat) (j : Bool) (v : W64) :
    MemOk (s.setPast k j v) ↔ MemOk s := memOk_eq rfl rfl
@[simp] theorem memOk_raise (s : State) (k vec sub : Nat) (info info2 : W64) (res : Bool) :
    MemOk (s.raise k vec sub info info2 res) ↔ MemOk s :=
  memOk_eq rfl rfl
@[simp] theorem memOk_setFerry (s : State) (f : Nat) (m : Option Manifest) :
    MemOk (s.setFerry f m) ↔ MemOk s := memOk_eq rfl rfl
@[simp] theorem memOk_answered (s : State) (a : Await) : MemOk (s.answered a) ↔ MemOk s := memOk_eq rfl rfl
@[simp] theorem memOk_setTallies (s : State) (t n : Nat) (l : List Tally) :
    MemOk (s.setTallies t n l) ↔ MemOk s := memOk_eq rfl rfl
@[simp] theorem memOk_putTileRow (s : State) (t n cost r : Nat) (l : List Byte) :
    MemOk (s.putTileRow t n cost r l) ↔ MemOk s := memOk_eq rfl rfl
@[simp] theorem memOk_releaseReads (s : State) (t n seq : Nat) : MemOk (s.releaseReads t n seq) ↔ MemOk s := memOk_eq rfl rfl
@[simp] theorem memOk_redone (s : State) (t n : Nat) (again : Bool) : MemOk (s.redone t n again) ↔ MemOk s := by
  simp only [State.redone]
  split <;> simp
@[simp] theorem memOk_mismatched (s : State) (t n code unit : Nat) (redo : Bool) :
    MemOk (s.mismatched t n code unit redo) ↔ MemOk s := by
  simp [State.mismatched]
@[simp] theorem memOk_putVreg (s : State) (r ew : Nat) (c : List (Option Nat)) :
    MemOk (s.putVreg r ew c) ↔ MemOk s := memOk_eq rfl rfl
@[simp] theorem memOk_tick (s : State) : MemOk s.tick ↔ MemOk s := by
  simp only [State.tick, memOk_ite, mk_iff, memOk_setFld, memOk_setReg]
  tauto

/-! Updates of bytes keep the form, and may also bring it about: one direction only. -/

@[simp] theorem memOk_freeRange (s : State) (lo hi : Nat) (h : MemOk s) : MemOk (s.freeRange lo hi) := freeRange_ok lo hi h
@[simp] theorem memOk_setBytes (s : State) (a : Nat) (bs : List Byte) (h :
    MemOk s) : MemOk (s.setBytes a bs) := setBytes_ok a bs h
@[simp] theorem memOk_xorLine (s : State) (l : Nat) (e : List (Nat × Nat)) (h : MemOk s) : MemOk (s.xorLine l e) :=
  foldl_ok e (fun _ _ h => ite_ok (setByte_ok _ _ h) h) h
@[simp] theorem memOk_judged (s : State) (l : Nat) (e : List (Nat × Nat)) (v : Verdict) (h :
    MemOk s) : MemOk (s.judged l e v) := by
  cases v <;> simp [State.judged, h]
@[simp] theorem memOk_putLine (s : State) (a : Nat) (bs : List Byte) (p : Bool) (h : MemOk s) : MemOk (s.putLine a bs p) := by
  simp [State.putLine, h]
@[simp] theorem memOk_keepMem (s : State) (p : Nat → Bool) (f : List (Nat × Nat × Nat)) (h :
    MemOk s) : MemOk (s.keepMem p f) := keepMem_ok p f h
@[simp] theorem memOk_copyPage (s : State) (a c : Nat) (h : MemOk s) : MemOk (s.copyPage a c) := copyPage_ok a c h
@[simp] theorem memOk_freePage (s : State) (f : Nat) (h : MemOk s) : MemOk (s.freePage f) := freePage_ok f h
@[simp] theorem memOk_scrubs (s : State) (l : List (Nat × Nat)) (h : MemOk s) : MemOk (s.scrubs l) := by
  simpa [State.scrubs] using foldl_ok l (fun s r h => freeRange_ok _ _ h) h
@[simp] theorem memOk_zeroRanges (s : State) (l : List (Nat × Nat)) (h : MemOk s) : MemOk (s.zeroRanges l) := by
  simpa [State.zeroRanges] using keepMem_ok _ _ h
@[simp] theorem memOk_moduleReset (s : State) (h : MemOk s) : MemOk s.moduleReset := moduleReset_ok h
@[simp] theorem memOk_putWord (s : State) (a : Nat) (x : Sector) (h : MemOk s) : MemOk (s.putWord a x) := by
  simp only [State.putWord]
  repeat' split
  all_goals simp [h]
@[simp] theorem memOk_steer (s : State) (src dst : List Seg) (h : MemOk s) : MemOk (s.steer src dst) := by
  refine foldl_ok _ (fun s e h => ?_) h
  split <;> simp [h]

end Sys2Proof.Machine
end

section
/-!
SUPPORT. Canonical memory through the error collector and the operations on stored lines that raise its events (R436-R438): they
change the state below the collector, or write events into host memory and records into their ring.
-/

namespace Sys2Proof.Machine

/-- An operation below the collector keeps memory in canonical form. -/
def KeepsN {α : Type} (m : N α) : Prop := ∀ p, MemOk p.1 → MemOk (m p).2.1

@[simp] theorem keepsN_pure {α : Type} {a : α} : KeepsN (pure a : N α) := fun _ h => h
@[simp] theorem keepsN_nSkip : KeepsN nSkip := fun _ h => h
@[simp] theorem keepsN_nGet : KeepsN nGet := fun _ h => h
@[simp] theorem keepsN_nNote {f : State → Note} : KeepsN (nNote f) := fun _ h => h
@[simp] theorem keepsN_nReport {d : Option Dom} {cls sev code unit : Nat} {d0 : W64} {r : Reg} :
    KeepsN (nReport d cls sev code unit d0 r) := fun _ h => h
theorem keepsN_nSet {f : State → State} (hf : ∀ s, MemOk s → MemOk (f s)) : KeepsN (nSet f) := fun p h => hf p.1 h
theorem keepsN_bind {α β : Type} {m : N α} {f : α → N β} (hm : KeepsN m) (hf : ∀ a, KeepsN (f a)) : KeepsN (m >>= f) :=
  fun p h => hf _ _ (hm p h)
theorem keepsN_ite {α : Type} {c : Prop} [Decidable c] {m n : N α} (hm :
    KeepsN m) (hn : KeepsN n) : KeepsN (if c then m else n) := by
  split
  · exact hm
  · exact hn
theorem keepsN_nWhen {c : Bool} {m : N Unit} (hm : KeepsN m) : KeepsN (nWhen c m) := keepsN_ite hm keepsN_nSkip
theorem keepsN_nEach {α : Type} (l : List α) {f : α → N Unit} (hf : ∀ a, KeepsN (f a)) : KeepsN (nEach l f) := by
  induction l with
  | nil => exact keepsN_nSkip
  | cons a r ih => exact keepsN_bind (hf a) fun _ => ih

theorem keepsN_nRecover {d : Dom} {bound cls code unit : Nat} : KeepsN (nRecover d bound cls code unit) :=
  keepsN_nSet fun s h => by simpa using h
theorem keepsN_nSurvive {d : Dom} {bound cls sev code unit : Nat} {d0 : W64} {r : Reg} :
    KeepsN (nSurvive d bound cls sev code unit d0 r) :=
  keepsN_bind keepsN_nReport fun _ => keepsN_nRecover

theorem keepsN_nWithdraw {d : Option Dom} {cls code unit : Nat} {d0 : W64} {r : Reg} :
    KeepsN (nWithdraw d cls code unit d0 r) := by
  refine keepsN_bind keepsN_nReport fun _ => keepsN_nSet fun s h => ite_ok h ?_
  simpa using (foldl_iff _ (fun s q => memOk_setQState s q 0) _).2 ((memOk_setReg ..).2 h)

theorem keepsN_nFailChannel {c : Nat} : KeepsN (nFailChannel c) :=
  keepsN_bind (keepsN_nSet fun s h => by simpa using h) fun _ => keepsN_nWithdraw

theorem keepsN_nPin {c pin : Nat} : KeepsN (nPin c pin) := by
  refine keepsN_bind keepsN_nGet fun s => keepsN_ite keepsN_nSkip (keepsN_ite (keepsN_nSet fun s h => mk_ok h) ?_)
  refine keepsN_bind (keepsN_nSet fun s h => mk_ok h) fun _ => keepsN_ite keepsN_nFailChannel ?_
  exact keepsN_bind (keepsN_nSet fun s h => by simpa using h) fun _ => keepsN_nSurvive

theorem keepsN_nOpenRow {c row : Nat} : KeepsN (nOpenRow c row) := by
  refine keepsN_bind keepsN_nGet fun s => ?_
  split
  · exact keepsN_pure
  · refine keepsN_bind (keepsN_nSet fun s h => by split <;> simpa using h) fun _ => keepsN_bind keepsN_nGet fun s => ?_
    refine keepsN_bind (keepsN_nSet fun s h => mk_ok h) fun _ => keepsN_ite (keepsN_pure) ?_
    exact keepsN_bind (keepsN_nSet fun s h => by simpa using h) fun _ => keepsN_bind keepsN_nReport fun _ => keepsN_pure

theorem keepsN_nNearUE {c row slot l : Nat} : KeepsN (nNearUE c row slot l) :=
  keepsN_bind (keepsN_nSet fun s h => by simpa using h) fun _ => keepsN_nReport

theorem keepsN_nNearLine {l : Nat} : KeepsN (nNearLine l) := by
  refine keepsN_bind keepsN_nGet fun s => keepsN_ite (keepsN_pure) ?_
  refine keepsN_bind keepsN_nOpenRow fun ok => keepsN_bind keepsN_nGet fun s => ?_
  refine keepsN_ite (keepsN_bind keepsN_nNearUE fun _ => keepsN_pure) (keepsN_ite (keepsN_pure) ?_)
  refine keepsN_bind (keepsN_nSet fun s h => memOk_judged _ _ _ _ h) fun _ => ?_
  split
  · exact keepsN_pure
  · exact keepsN_bind keepsN_nNearUE fun _ => keepsN_pure
  · refine keepsN_bind (keepsN_nSet fun s h => by split <;> simpa using h) fun _ => ?_
    refine keepsN_bind keepsN_nSurvive fun _ => ?_
    exact keepsN_bind (keepsN_nEach _ fun _ => keepsN_nPin) fun _ => keepsN_pure

theorem keepsN_nHeartLine {l : Nat} : KeepsN (nHeartLine l) := by
  refine keepsN_bind keepsN_nGet fun s => keepsN_ite (keepsN_pure) ?_
  refine keepsN_bind (keepsN_nSet fun s h => memOk_judged _ _ _ _ h) fun _ => ?_
  split
  · exact keepsN_pure
  · refine keepsN_bind (keepsN_nSet fun s h => by simpa using h) fun _ => ?_
    exact keepsN_ite (keepsN_bind keepsN_nReport fun _ => keepsN_pure) (keepsN_bind keepsN_nSurvive fun _ => keepsN_pure)

theorem keepsN_nStoredLine {l : Nat} : KeepsN (nStoredLine l) :=
  keepsN_ite keepsN_nNearLine (keepsN_ite keepsN_nHeartLine (keepsN_bind keepsN_nGet fun _ => keepsN_pure))

theorem keepsN_nStoreLine {a : Nat} {bs : List Byte} {p : Bool} : KeepsN (nStoreLine a bs p) := by
  refine keepsN_bind keepsN_nGet fun s => ?_
  refine keepsN_bind (keepsN_nWhen (keepsN_bind keepsN_nOpenRow fun _ => keepsN_nSkip)) fun _ => ?_
  refine keepsN_bind (keepsN_ite keepsN_nStoredLine (keepsN_pure)) fun old => keepsN_nSet fun s h => ?_
  exact ite_ok ((memOk_changeRow ..).2 (memOk_putLine _ _ _ _ h)) (memOk_putLine _ _ _ _ h)

theorem keepsN_nHostEnd {a code : Nat} : KeepsN (nHostEnd a code) :=
  keepsN_bind (keepsN_nSet fun s h => by simpa using h) fun _ => keepsN_nReport
theorem keepsN_nPortEnd {p a : Nat} : KeepsN (nPortEnd p a) :=
  keepsN_bind (keepsN_nSet fun s h => by simpa using h) fun _ => keepsN_nReport

theorem keepsN_nRawWrite {a : Nat} {bs : List Byte} {p : Bool} : KeepsN (nRawWrite a bs p) := by
  refine keepsN_bind keepsN_nGet fun s => keepsN_ite (keepsN_pure) (keepsN_ite (keepsN_ite ?_ ?_) ?_)
  · exact keepsN_bind (keepsN_nSet fun s h => memOk_putLine _ _ _ _ h) fun _ => keepsN_pure
  · exact keepsN_bind keepsN_nHostEnd fun _ => keepsN_pure
  · split
    · refine keepsN_ite (keepsN_bind (keepsN_nSet fun s h => mk_ok h) fun _ => keepsN_pure) (keepsN_ite ?_ ?_)
      · exact keepsN_bind (keepsN_nSet fun s h => memOk_putLine _ _ _ _ h) fun _ => keepsN_pure
      · exact keepsN_bind (keepsN_nSet fun s h => mk_ok h) fun _ => keepsN_pure
    · exact keepsN_bind keepsN_nStoreLine fun _ => keepsN_pure

@[simp] theorem memOk_fst_ite {α : Type} {c : Prop} [Decidable c] {p q : State × α} :
    MemOk (if c then p else q).1 ↔ (c → MemOk p.1) ∧ (¬ c → MemOk q.1) := by
  by_cases h : c <;> simp [h]

/-! collector -/
@[simp] theorem memOk_writeEvent (s : State) (e : Nat) (ev : Ev) (h : MemOk s) : MemOk (writeEvent s e ev).1 := by
  unfold writeEvent
  extract_lets q tail log a r lost
  split
  · simpa using h
  · have ht := keepsN_nRawWrite (a := a) (bs := evBytes tail (if ev.src = 6 then { ev with code := 0x8000 + lost } else ev)) (p := false) (s, []) h
    revert ht
    rcases nRawWrite a _ false (s, []) with ⟨x, t, n⟩
    intro ht
    refine ite_ok ((memOk_sendMsix ..).2 ?_) ?_
    all_goals exact ite_ok ((memOk_setFld ..).2 ((memOk_setFld ..).2 ht)) ((memOk_setFld ..).2 ht)

@[simp] theorem memOk_takeEvent (s : State) (e src code : Nat) (lo hi : W64) (h :
    MemOk s) : MemOk (takeEvent s e src code lo hi).1 := by
  unfold takeEvent
  dsimp only
  repeat' split
  all_goals simp [h, memOk_writeEvent]

@[simp] theorem memOk_writeRec (s : State) (i : Nat) (f d : Bool) (r : Rec) (h : MemOk s) : MemOk (writeRec s i f d r).1 := by
  unfold writeRec
  dsimp only
  split
  · exact keepsN_nRawWrite (s, []) h
  · simpa using h

@[simp] theorem memOk_rewriteRec (s : State) (i : Nat) (f d : Bool) (r : Rec) (h :
    MemOk s) : MemOk (rewriteRec s i f d r).1 := by
  simp [rewriteRec, h]

@[simp] theorem memOk_finalise (s : State) (o : OpenRec) (h : MemOk s) : MemOk (finalise s o).1 := by
  unfold finalise
  repeat' split
  all_goals simp [h]

@[simp] theorem memOk_placed (s : State) (o : OpenRec) (tail : Nat) : MemOk (placed s o tail).1 ↔ MemOk s := by
  simp only [placed, memOk_fst_ite, memOk_setFld, memOk_notePrimary, mk_iff]
  tauto

@[simp] theorem memOk_placeRec (s : State) (f : Bool) (r : Rec) (h : MemOk s) : MemOk (placeRec s f r).1 := by
  unfold placeRec
  dsimp only
  have hw := memOk_writeRec s (s.fld .incPtr 32 32) f s.collector.lost r h
  split
  · simpa using h
  · split <;> simp_all

theorem memOk_placeOne (p : State × List OpenRec × List Note) (o : OpenRec) (h : MemOk p.1) : MemOk (placeOne p o).1 := by
  have hq := memOk_placeRec p.1 o.final o.rc h
  unfold placeOne
  revert hq
  rcases placeRec p.1 o.final o.rc with ⟨t, x, n⟩
  intro hq
  split
  · exact h
  · exact hq

theorem foldl_fst_ok {α β : Type} {f : State × β → α → State × β} (l : List α) (hf : ∀ p a, MemOk p.1 → MemOk (f p a).1)
    {p : State × β} (h : MemOk p.1) : MemOk (l.foldl f p).1 := by
  induction l generalizing p with
  | nil => exact h
  | cons a r ih => exact ih (hf p a h)

@[simp] theorem memOk_placeHeld (s : State) (l : List OpenRec) (h :
    MemOk s) : MemOk (placeHeld s l).1 := foldl_fst_ok l memOk_placeOne h

@[simp] theorem memOk_makeRoom (s : State) (l : List OpenRec) (h : MemOk s) : MemOk (makeRoom s l).1 := by
  unfold makeRoom
  repeat' split
  all_goals simp [h]

theorem memOk_openNew (s : State) (l : List OpenRec) (r : Rec) (h : MemOk s) : MemOk (openNew s l r).1 := by
  have hq := memOk_placeRec s false r h
  generalize hF : openNew = F
  delta openNew at hF
  subst hF
  beta_reduce
  revert hq
  generalize placeRec s false r = q
  rcases q with ⟨t, x, n⟩
  intro hq
  cases x with
  | none => simpa using hq
  | some o => simpa using memOk_makeRoom _ _ hq

theorem memOk_holdRec (s : State) (l : List OpenRec) (r : Rec) (h : MemOk s) : MemOk (holdRec s l r).1 := by
  unfold holdRec
  split <;> simp [h]

theorem memOk_coalesce (s : State) (o : OpenRec) (r : Rec) (h : MemOk s) : MemOk (coalesce s o r).1 := by
  unfold coalesce
  dsimp only
  split <;> simp [h]

theorem memOk_closeOne (r : Rec) (p : State × List OpenRec × List Note) (o : OpenRec) (h :
    MemOk p.1) : MemOk (closeOne r p o).1 := by
  unfold closeOne
  split <;> simp [h]

theorem memOk_closeSame (s : State) (r : Rec) (h : MemOk s) : MemOk (closeSame s r).1 := foldl_fst_ok _ (memOk_closeOne r) h

theorem memOk_takeIncident (s : State) (r : Rec) (h : MemOk s) : MemOk (takeIncident s r).1 := by
  unfold takeIncident
  have h := (memOk_addFld s .incStat 32 32 1).2 h
  dsimp only
  split
  · exact memOk_coalesce _ _ _ h
  · exact ite_fst_ok (memOk_openNew _ _ _ (memOk_closeSame _ _ h)) (memOk_holdRec _ _ _ (memOk_closeSame _ _ h))

theorem memOk_takeNote (s : State) (n : Note) (h : MemOk s) : MemOk (takeNote s n).1 := by
  cases n with
  | incident => exact memOk_takeIncident _ _ h
  | event => exact memOk_takeEvent _ _ _ _ _ _ h

@[simp] theorem memOk_settle (n : Nat) (l : List Note) (s : State) (h : MemOk s) : MemOk (settle n l s) := by
  induction n generalizing l s with
  | zero => simpa [settle] using h
  | succ n ih =>
    cases l with
    | nil => exact h
    | cons e r => exact ih _ _ (memOk_takeNote _ _ h)

end Sys2Proof.Machine
end

section
/-!
SUPPORT. Every action of the model keeps memory in canonical form, in the order of the model's definitions: each line follows from
the lines above it and the rules of the calculus, with the case splits of the action's own text.
-/

namespace Sys2Proof.Machine

theorem keepsAt_told {α : Type} {m : N α} (h : KeepsN m) {s : State} : KeepsAt (told m) s := by
  unfold told
  rw [keepsAt_get_bind]
  refine ⟨fun hs => ?_⟩
  have ht := h (s, []) hs
  revert ht
  rcases m (s, []) with ⟨a, t, l⟩
  intro ht
  exact memOk_settle _ _ _ ht

@[simp] theorem keepsAt_draw {s : State} : KeepsAt draw s := ⟨fun h => mk_ok h⟩
@[simp] theorem keepsAt_raise (l : List Note) {s : State} : KeepsAt (raise l) s := ⟨fun h => memOk_settle _ _ _ h⟩

/-! ### The named operations over registers and memory, the monad of the meanings -/

@[simp] theorem keepsAt_send {m : Msg} {s : State} : KeepsAt (send m) s := by
  simp [send]
@[simp] theorem keepsAt_rd {r : Reg} {s : State} : KeepsAt (rd r) s := by
  simp [rd]
@[simp] theorem keepsAt_wr {r : Reg} {v : W64} {s : State} : KeepsAt (wr r v) s := by
  simp [wr]
@[simp] theorem keepsAt_rdf {r : Reg} {lo n : Nat} {s : State} : KeepsAt (rdf r lo n) s := by
  simp [rdf]
@[simp] theorem keepsAt_wrf {r : Reg} {lo n v : Nat} {s : State} : KeepsAt (wrf r lo n v) s := by
  simp [wrf]
@[simp] theorem keepsAt_bump {r : Reg} {lo n : Nat} {s : State} : KeepsAt (bump r lo n) s := by
  simp [bump]

/-! ### The error collector, the event queues and denials, which raise one another -/

@[simp] theorem keepsAt_incident {cls sev code unit : Nat} {d0 d1 : W64} {s : State} :
    KeepsAt (incident cls sev code unit d0 d1) s := by
  simp [incident]
@[simp] theorem keepsAt_event {e src code : Nat} {lo hi : W64} {s : State} : KeepsAt (event e src code lo hi) s := by
  simp [event]
@[simp] theorem keepsAt_deny {r : Req} {write : Bool} {a sel cause : Nat} {s : State} :
    KeepsAt (deny r write a sel cause) s := by
  simp [deny]
@[simp] theorem keepsAt_checkLine {r : Req} {k : Acc} {a n : Nat} {s : State} : KeepsAt (checkLine r k a n) s := by
  simp only [checkLine, keepsAt_get_bind]
  split <;> simp

@[simp] theorem keepsAt_checkParts {r : Req} {k : Acc} {l : List (Nat × Nat)} {s : State} : KeepsAt (checkParts r k l) s := by
  induction l generalizing s with
  | nil => simp [checkParts]
  | cons e r ih =>
    simp [checkParts]
    intros
    split <;> simp [ih]

@[simp] theorem keepsAt_checkAcc {r : Req} {k : Acc} {a n : Nat} {s : State} : KeepsAt (checkAcc r k a n) s := by
  simp [checkAcc]

/-! ### The operations on stored lines, queues and recoveries as units perform them, with what they raise -/

@[simp] theorem keepsAt_applyPending {r : Reg} {s : State} : KeepsAt (applyPending r) s := by
  simp [applyPending]
@[simp] theorem keepsAt_setQState {q n : Nat} {s : State} : KeepsAt (setQState q n) s := by
  simp [setQState]
@[simp] theorem keepsAt_recovered {cls bound : Nat} {s : State} : KeepsAt (recovered cls bound) s := by
  simp [recovered]
@[simp] theorem keepsAt_survive {d : Dom} {bound cls sev code unit : Nat} {d0 : W64} {r : Reg} {s : State} :
    KeepsAt (survive d bound cls sev code unit d0 r) s := keepsAt_told keepsN_nSurvive
@[simp] theorem keepsAt_reportIn {d : Option Dom} {cls sev code unit : Nat} {d0 : W64} {r : Reg} {s : State} :
    KeepsAt (reportIn d cls sev code unit d0 r) s := keepsAt_told keepsN_nReport
@[simp] theorem keepsAt_recovers {d : Dom} {bound cls code unit : Nat} {s : State} :
    KeepsAt (recovers d bound cls code unit) s := keepsAt_told keepsN_nRecover
@[simp] theorem keepsAt_journalLost {s : State} : KeepsAt journalLost s := by
  simp [journalLost]
@[simp] theorem keepsAt_withdraw {d : Option Dom} {cls code unit : Nat} {d0 : W64} {r : Reg} {s : State} :
    KeepsAt (withdraw d cls code unit d0 r) s := keepsAt_told keepsN_nWithdraw
@[simp] theorem keepsAt_failChannel {c : Nat} {s : State} : KeepsAt (failChannel c) s := keepsAt_told keepsN_nFailChannel
@[simp] theorem keepsAt_noteHw {t bank row : Nat} {ue : Bool} {s : State} : KeepsAt (noteHw t bank row ue) s := by
  simp [noteHw]
@[simp] theorem keepsAt_nearLine {l : Nat} {s : State} : KeepsAt (nearLine l) s := keepsAt_told keepsN_nNearLine
@[simp] theorem keepsAt_heartLine {l : Nat} {s : State} : KeepsAt (heartLine l) s := keepsAt_told keepsN_nHeartLine
@[simp] theorem keepsAt_storedLine {l : Nat} {s : State} : KeepsAt (storedLine l) s := keepsAt_told keepsN_nStoredLine
@[simp] theorem keepsAt_hostEnd {a code : Nat} {s : State} : KeepsAt (hostEnd a code) s := keepsAt_told keepsN_nHostEnd
@[simp] theorem keepsAt_portEnd {p a : Nat} {s : State} : KeepsAt (portEnd p a) s := keepsAt_told keepsN_nPortEnd
@[simp] theorem keepsAt_rawWrite {a : Nat} {bs : List Byte} {p : Bool} {s : State} :
    KeepsAt (rawWrite a bs p) s := keepsAt_told keepsN_nRawWrite

/-! ### The paths to memory -/

@[simp] theorem keepsAt_portRead {p a n : Nat} {s : State} : KeepsAt (portRead p a n) s := by
  simp [portRead]

@[simp] theorem keepsAt_rawRead {a n : Nat} {s : State} : KeepsAt (rawRead a n) s := by
  simp only [rawRead, keepsAt_get_bind]
  repeat' split
  all_goals simp

@[simp] theorem keepsAt_rawLine {l : Nat} {x : Sector} {s : State} : KeepsAt (rawLine l x) s := by
  simp [rawLine]
@[simp] theorem keepsAt_cleanSector {g a : Nat} {s : State} : KeepsAt (cleanSector g a) s := by
  simp only [cleanSector, keepsAt_get_bind]
  split <;> simp
@[simp] theorem keepsAt_actSector {op g a : Nat} {s : State} : KeepsAt (actSector op g a) s := by
  simp [actSector]

@[simp] theorem keepsAt_cmoStep {g : Nat} {s : State} : KeepsAt (cmoStep g) s := by
  simp only [cmoStep, keepsAt_get_bind]
  repeat' split
  all_goals simp

@[simp] theorem keepsAt_cmoRun {g n : Nat} {s : State} : KeepsAt (cmoRun g n) s := by
  induction n generalizing s with
  | zero => simp [cmoRun]
  | succ n ih => simp [cmoRun, ih]

@[simp] theorem keepsAt_cmoGo {s : State} : KeepsAt cmoGo s := by
  simp [cmoGo]
@[simp] theorem keepsAt_landFill {g a : Nat} {s : State} : KeepsAt (landFill g a) s := by
  simp only [landFill, keepsAt_get_bind]
  split <;> simp
@[simp] theorem keepsAt_takeWay {g base : Nat} {s : State} : KeepsAt (takeWay g base) s := by
  unfold takeWay
  aesop

@[simp] theorem keepsAt_install {g a : Nat} {x : Sector} {s : State} : KeepsAt (install g a x) s := by
  simp [install]
  intros
  split <;> simp

@[simp] theorem keepsAt_needSector {g a : Nat} {s : State} : KeepsAt (needSector g a) s := by
  simp only [needSector, keepsAt_get_bind]
  split <;> simp
@[simp] theorem keepsAt_canopyEvent {g k a : Nat} {s : State} : KeepsAt (canopyEvent g k a) s := by
  simp [canopyEvent]

@[simp] theorem keepsAt_deliver {crew : Bool} {g a : Nat} {x : Sector} {s : State} : KeepsAt (deliver crew g a x) s := by
  simp only [deliver]
  repeat' split
  all_goals simp

@[simp] theorem keepsAt_canRead {crew : Bool} {g pol a n : Nat} {s : State} : KeepsAt (canRead crew g pol a n) s := by
  simp [canRead]
  intros
  split <;> simp

@[simp] theorem keepsAt_rawPut {a : Nat} {bs : List Byte} {p : Bool} {s : State} : KeepsAt (rawPut a bs p) s := by
  simp [rawPut]

@[simp] theorem keepsAt_canWrite {g pol a : Nat} {bs : List Byte} {p : Bool} {s : State} :
    KeepsAt (canWrite g pol a bs p) s := by
  simp only [canWrite, keepsAt_get_bind]
  split <;> simp

@[simp] theorem keepsAt_crewRead {g pol a n : Nat} {s : State} : KeepsAt (crewRead g pol a n) s := by
  simp [crewRead]
@[simp] theorem keepsAt_crewWrite {g pol a : Nat} {bs : List Byte} {p : Bool} {s : State} :
    KeepsAt (crewWrite g pol a bs p) s := by
  simp [crewWrite]
@[simp] theorem keepsAt_busRead {pol a n : Nat} {s : State} : KeepsAt (busRead pol a n) s := by
  simp [busRead]
@[simp] theorem keepsAt_busWrite {pol a : Nat} {bs : List Byte} {p : Bool} {s : State} : KeepsAt (busWrite pol a bs p) s := by
  simp [busWrite]

@[simp] theorem keepsAt_busReadAll {pol : Nat} {l : List (Nat × Nat)} {s : State} : KeepsAt (busReadAll pol l) s := by
  induction l generalizing s with
  | nil => simp [busReadAll]
  | cons e r ih => simp [busReadAll, ih]

@[simp] theorem keepsAt_busWriteAll {pol : Nat} {poisoned : Bool} {bs : List Byte} {a0 : Nat} {l : List (Nat × Nat)}
    {s : State} :
    KeepsAt (busWriteAll pol poisoned bs a0 l) s := by
  induction l generalizing s with
  | nil => simp [busWriteAll]
  | cons e r ih => simp [busWriteAll, ih]

@[simp] theorem keepsAt_maintain {op : Nat} {sel : Nat → Bool} {s : State} : KeepsAt (maintain op sel) s := by
  simp [maintain]

/-! ### The version directory -/

@[simp] theorem keepsAt_noteEpFault {code master idx : Nat} {s : State} : KeepsAt (noteEpFault code master idx) s := by
  simp [noteEpFault]
@[simp] theorem keepsAt_epHalt {s : State} : KeepsAt epHalt s := by
  simp [epHalt]
@[simp] theorem keepsAt_epCheckAll {l : List Nat} {s : State} : KeepsAt (epCheckAll l) s := by
  simp [epCheckAll]
@[simp] theorem keepsAt_epCheck {page : Nat} {s : State} : KeepsAt (epCheck page) s := by
  simp only [epCheck, keepsAt_get_bind]
  split <;> simp
@[simp] theorem keepsAt_landVer {r : Req} {write : Bool} {a : Nat} {s : State} : KeepsAt (landVer r write a) s := by
  unfold landVer
  aesop
@[simp] theorem keepsAt_epCount {s : State} : KeepsAt epCount s := by
  simp +contextual [epCount]

/-! ### Reads of registers over the bus, and what every register access is checked for before it takes effect -/

@[simp] theorem keepsAt_regCheck {r : Req} {k : Acc} {a n : Nat} {s : State} : KeepsAt (regCheck r k a n) s := by
  unfold regCheck
  aesop

@[simp] theorem keepsAt_regBusRead {r : Req} {a n : Nat} {s : State} : KeepsAt (regBusRead r a n) s := by
  simp [regBusRead]
  intros
  split <;> simp

/-! ### How a register write is judged and what it stores -/

@[simp] theorem keepsAt_refuse {b : Blk} {a code : Nat} {s : State} : KeepsAt (refuse b a code) s := by
  simp [refuse]

@[simp] theorem keepsAt_storeReg {r : Reg} {v : W64} {s : State} : KeepsAt (storeReg r v) s := by
  simp only [storeReg]
  repeat' split
  all_goals simp +contextual

@[simp] theorem keepsAt_endQuiesce {b : Blk} {s : State} : KeepsAt (endQuiesce b) s := by
  simp [endQuiesce]

/-! ### Translation -/

@[simp] theorem keepsAt_readPte {r : Req} {a : Nat} {s : State} : KeepsAt (readPte r a) s := by
  simp [readPte]
  intros
  split <;> simp

@[simp] theorem keepsAt_noteWalk {g : Nat} {w : WalkEnt} {s : State} : KeepsAt (noteWalk g w) s := by
  simp +contextual [noteWalk]

@[simp] theorem keepsAt_walkFrom {p : Port} {va n i : Nat} {s : State} : KeepsAt (walkFrom p va n i) s := by
  induction n generalizing i s with
  | zero =>
    unfold walkFrom
    aesop
  | succ n ih =>
    unfold walkFrom
    aesop

@[simp] theorem keepsAt_installTlb {g : Nat} {e : TlbEntry} {s : State} : KeepsAt (installTlb g e) s := by
  simp [installTlb]
@[simp] theorem keepsAt_lookTlb {p : Port} {va : Nat} {s : State} : KeepsAt (lookTlb p va) s := by
  unfold lookTlb
  aesop
@[simp] theorem keepsAt_installRc {t : Nat} {e : TlbEntry} {s : State} : KeepsAt (installRc t e) s := by
  simp +contextual [installRc]
@[simp] theorem keepsAt_lookup {p : Port} {far : Bool} {o n va : Nat} {s : State} : KeepsAt (lookup p far o n va) s := by
  unfold lookup
  aesop
@[simp] theorem keepsAt_sendAts {q : AtsReq} {s : State} : KeepsAt (sendAts q) s := by
  simp +contextual [sendAts]

@[simp] theorem keepsAt_hostTr {p : Port} {write noWrite : Bool} {pol pa : Nat} {s : State} :
    KeepsAt (hostTr p write noWrite pol pa) s := by
  simp only [hostTr, keepsAt_get_bind]
  repeat' split
  all_goals simp

@[simp] theorem keepsAt_resolve {p : Port} {u : Use} {va page : Nat} {s : State} : KeepsAt (resolve p u va page) s := by
  simp [resolve]
  intros
  split <;> simp

@[simp] theorem keepsAt_trLeaf {p : Port} {u : Use} {far : Bool} {o n va : Nat} {s : State} :
    KeepsAt (trLeaf p u far o n va) s := by
  simp [trLeaf]
  intros
  repeat' split
  all_goals simp

@[simp] theorem keepsAt_translate {p : Port} {u : Use} {far : Bool} {o n va : Nat} {s : State} :
    KeepsAt (translate p u far o n va) s := by
  unfold translate
  aesop

/-! ### Hardware queues -/

@[simp] theorem keepsAt_visited {n q : Nat} {s : State} : KeepsAt (visited n q) s := by
  simp [visited]
@[simp] theorem keepsAt_stopQueue {q err : Nat} {s : State} : KeepsAt (stopQueue q err) s := by
  simp [stopQueue]

@[simp] theorem keepsAt_readPhys {r : Req} {a n : Nat} {s : State} : KeepsAt (readPhys r a n) s := by
  simp [readPhys]
  intros
  split <;> simp

@[simp] theorem keepsAt_bootFetch {host : Bool} {a n : Nat} {s : State} : KeepsAt (bootFetch host a n) s := by
  simp [bootFetch]
  intros
  split <;> simp

@[simp] theorem keepsAt_writePhys {r : Req} {a : Nat} {bs : List Byte} {s : State} : KeepsAt (writePhys r a bs) s := by
  unfold writePhys
  aesop

@[simp] theorem keepsAt_setHead {q v : Nat} {s : State} : KeepsAt (setHead q v) s := by
  simp [setHead]
  intros
  split <;> simp

@[simp] theorem keepsAt_ringAt {q : Nat} {write : Bool} {a : Nat} {s : State} : KeepsAt (ringAt q write a) s := by
  simp [ringAt]
@[simp] theorem keepsAt_readHead {q : Nat} {s : State} : KeepsAt (readHead q) s := by
  unfold readHead
  aesop

@[simp] theorem keepsAt_headEntry {q : Nat} {s : State} : KeepsAt (headEntry q) s := by
  simp [headEntry]
  intros
  split <;> simp

@[simp] theorem keepsAt_seqMismatch {q : Nat} {s : State} : KeepsAt (seqMismatch q) s := by
  simp [seqMismatch]
  intros
  split <;> simp

@[simp] theorem keepsAt_writeHeld {q n : Nat} {s : State} : KeepsAt (writeHeld q n) s := by
  induction n generalizing s with
  | zero => simp [writeHeld]
  | succ n ih =>
    simp only [writeHeld, keepsAt_get_bind]
    split
    · simp
    · simp +contextual [ih]

@[simp] theorem keepsAt_writeLost {q : Nat} {s : State} : KeepsAt (writeLost q) s := by
  simp +contextual [writeLost]
@[simp] theorem keepsAt_queueIncident {q code : Nat} {s : State} : KeepsAt (queueIncident q code) s := by
  simp [queueIncident]
@[simp] theorem keepsAt_ringBell {r : Req} {q : Nat} {v : W64} {s : State} : KeepsAt (ringBell r q v) s := by
  simp [ringBell]

@[simp] theorem keepsAt_takeRecord {q op : Nat} {s : State} : KeepsAt (takeRecord q op) s := by
  simp [takeRecord]
  intros
  split <;> simp

@[simp] theorem keepsAt_startThread {k q : Nat} {b : List Byte} {s : State} : KeepsAt (startThread k q b) s := by
  simp [startThread]
@[simp] theorem keepsAt_itemStatus {g q seq : Nat} {status : W64} {s : State} : KeepsAt (itemStatus g q seq status) s := by
  simp [itemStatus]
@[simp] theorem keepsAt_dispatchRun {q : Nat} {s : State} : KeepsAt (dispatchRun q) s := by
  unfold dispatchRun
  aesop

@[simp] theorem keepsAt_dispatchBarrier {q : Nat} {s : State} : KeepsAt (dispatchBarrier q) s := by
  simp [dispatchBarrier]
  intros
  split <;> simp

@[simp] theorem keepsAt_clearBarrier {q : Nat} {s : State} : KeepsAt (clearBarrier q) s := by
  simp [clearBarrier]

@[simp] theorem keepsAt_dispatchSignal {q : Nat} {s : State} : KeepsAt (dispatchSignal q) s := by
  simp [dispatchSignal]
  intros
  split <;> simp

@[simp] theorem keepsAt_endItem {k : Nat} {status : W64} {s : State} : KeepsAt (endItem k status) s := by
  simp only [endItem, keepsAt_get_bind]
  split <;> simp
@[simp] theorem keepsAt_tideStart {q : Nat} {s : State} : KeepsAt (tideStart q) s := by
  simp [tideStart]

/-! ### Recoveries -/

@[simp] theorem keepsAt_park {k : Nat} {s : State} : KeepsAt (park k) s := by
  simp [park]
@[simp] theorem keepsAt_resetThread {k : Nat} {s : State} : KeepsAt (resetThread k) s := by
  simp [resetThread]
@[simp] theorem keepsAt_zeroTree {t : Nat} {s : State} : KeepsAt (zeroTree t) s := by
  simp [zeroTree]
@[simp] theorem keepsAt_fenceTree {d : Option Dom} {t : Nat} {s : State} : KeepsAt (fenceTree d t) s := by
  simp [fenceTree]
@[simp] theorem keepsAt_contain {t a : Nat} {s : State} : KeepsAt (contain t a) s := by
  simp [contain]
@[simp] theorem keepsAt_failBank {t bank row : Nat} {s : State} : KeepsAt (failBank t bank row) s := by
  simp [failBank]
@[simp] theorem keepsAt_remap {t bank row : Nat} {inCopy copied : Bool} {s : State} :
    KeepsAt (remap t bank row inCopy copied) s := by
  simp [remap]

/-! ### The memory tiers' own events -/

@[simp] theorem keepsAt_refreshNb {c : Nat} {s : State} : KeepsAt (refreshNb c) s := by
  simp [refreshNb]
@[simp] theorem keepsAt_fatalError {s : State} : KeepsAt fatalError s := by
  simp [fatalError]

@[simp] theorem keepsAt_patrolNb {c : Nat} {tags : List TagErr} {finds : NearFinds} {s : State} :
    KeepsAt (patrolNb c tags finds) s := by
  unfold patrolNb
  refine .bind ?_ fun _ t _ => by simp
  rw [keepsAt_modify]
  exact fun h => (foldl_iff _ (fun s e => memOk_strikeRow ..) _).2 ((foldl_iff _ (fun s e => memOk_strikeNear ..) s).2 h)

@[simp] theorem keepsAt_retrainNb {c : Nat} {ok : Bool} {s : State} : KeepsAt (retrainNb c ok) s := by
  simp [retrainNb]
@[simp] theorem keepsAt_spareLine {t bank row : Nat} {poison inCopy copied : Bool} {s : State} :
    KeepsAt (spareLine t bank row poison inCopy copied) s := by
  simp [spareLine]

@[simp] theorem keepsAt_writebackHw {t bank row : Nat} {w : WriteBack} {s : State} :
    KeepsAt (writebackHw t bank row w) s := by
  simp only [writebackHw, keepsAt_get_bind]
  split <;> simp

@[simp] theorem keepsAt_strikeHeart {t : Nat} {x : HeartErr} {s : State} : KeepsAt (strikeHeart t x) s := by
  unfold strikeHeart
  split <;> simp

@[simp] theorem keepsAt_scrubLent {t bank row g a : Nat} {x : Sector} {s : State} :
    KeepsAt (scrubLent t bank row g a x) s := by
  unfold scrubLent
  split <;> simp

@[simp] theorem keepsAt_scrubBank {t bank row : Nat} {s : State} : KeepsAt (scrubBank t bank row) s := by
  simp only [scrubBank, keepsAt_get_bind]
  repeat' split
  all_goals simp

@[simp] theorem keepsAt_patrolHw {t : Nat} {errs : List HeartErr} {s : State} : KeepsAt (patrolHw t errs) s := by
  simp [patrolHw]

@[simp] theorem keepsAt_tagError {g base : Nat} {s : State} : KeepsAt (tagError g base) s := by
  simp [tagError]
  intros
  split <;> simp

@[simp] theorem keepsAt_strikeCanopy {g : Nat} {x : CanErr} {s : State} : KeepsAt (strikeCanopy g x) s := by
  unfold strikeCanopy
  aesop
@[simp] theorem keepsAt_fillCanopy {g : Nat} {fill : CanFill} {s : State} : KeepsAt (fillCanopy g fill) s := by
  simp [fillCanopy]
@[simp] theorem keepsAt_startCmo {g op : Nat} {scope : Bool} {s : State} : KeepsAt (startCmo g op scope) s := by
  simp [startCmo]

@[simp] theorem keepsAt_endCmo {g : Nat} {s : State} : KeepsAt (endCmo g) s := by
  simp [endCmo]
  intros
  split <;> simp

@[simp] theorem keepsAt_servePosted {p : Nat} {s : State} : KeepsAt (servePosted p) s := by
  simp [servePosted]
@[simp] theorem keepsAt_upFb {p : Nat} {caps : List Nat} {s : State} : KeepsAt (upFb p caps) s := by
  simp [upFb]
@[simp] theorem keepsAt_lossFb {p : Nat} {s : State} : KeepsAt (lossFb p) s := by
  simp [lossFb]
@[simp] theorem keepsAt_viralFb {p : Nat} {s : State} : KeepsAt (viralFb p) s := by
  simp [viralFb]

@[simp] theorem keepsAt_timeoutFb {p k : Nat} {s : State} : KeepsAt (timeoutFb p k) s := by
  simp only [timeoutFb, keepsAt_get_bind]
  repeat' split
  all_goals simp

/-! ### Invalidation of translations, the host's translation and page-request answers -/

@[simp] theorem keepsAt_rehold {w : Option Waiter} {old new : Hold} {s : State} : KeepsAt (rehold w old new) s := by
  unfold rehold
  split <;> simp +contextual
@[simp] theorem keepsAt_startInv {op : Nat} {world : Bool} {s : State} : KeepsAt (startInv op world) s := by
  simp [startInv]
@[simp] theorem keepsAt_endInv {s : State} : KeepsAt endInv s := by
  simp [endInv]
@[simp] theorem keepsAt_atsInvalidate {base size : Nat} {s : State} : KeepsAt (atsInvalidate base size) s := by
  simp [atsInvalidate]
@[simp] theorem keepsAt_hostFail {w : Option Waiter} {addr : Nat} {s : State} : KeepsAt (hostFail w addr) s := by
  unfold hostFail
  split <;> simp
@[simp] theorem keepsAt_atsDenied {k : Nat} {q : AtsReq} {s : State} : KeepsAt (atsDenied k q) s := by
  simp [atsDenied]

@[simp] theorem keepsAt_atsDone {k hpa size : Nat} {r w : Bool} {s : State} : KeepsAt (atsDone k hpa size r w) s := by
  simp only [atsDone, keepsAt_get_bind]
  repeat' split
  all_goals simp

@[simp] theorem keepsAt_prgDone {k : Nat} {code : PrgCode} {s : State} : KeepsAt (prgDone k code) s := by
  simp only [prgDone, keepsAt_get_bind]
  repeat' split
  all_goals simp

@[simp] theorem keepsAt_prgExpired {k : Nat} {s : State} : KeepsAt (prgExpired k) s := by
  simp only [prgExpired, keepsAt_get_bind]
  split <;> simp
@[simp] theorem keepsAt_sendPending {s : State} : KeepsAt sendPending s := by
  refine ⟨fun h => ite_ok h (foldl_ok _ (fun s e h => ?_) h)⟩
  simpa using h
@[simp] theorem keepsAt_atsOff {s : State} : KeepsAt atsOff s := by
  simp [atsOff]
@[simp] theorem keepsAt_cfgSet {c : CfgReq} {s : State} : KeepsAt (cfgSet c) s := by
  unfold cfgSet
  split <;> simp
@[simp] theorem keepsAt_configure {c : CfgReq} {s : State} : KeepsAt (configure c) s := by
  simp [configure]
@[simp] theorem keepsAt_noteAer {i : Nat} {s : State} : KeepsAt (noteAer i) s := by
  simp [noteAer]
@[simp] theorem keepsAt_unmaskMsix {e : MsixEntry} {s : State} : KeepsAt (unmaskMsix e) s := by
  simp [unmaskMsix]
@[simp] theorem keepsAt_setPcieLink {speed width flit : Nat} {s : State} : KeepsAt (setPcieLink speed width flit) s := by
  simp [setPcieLink]

@[simp] theorem keepsAt_hostFails {line : Nat} {e : HostEnd} {s : State} : KeepsAt (hostFails line e) s := by
  simp only [hostFails]
  repeat' split
  all_goals simp

@[simp] theorem keepsAt_bar2Part {wr : Bool} {a n : Nat} {bs : List Byte} {s : State} : KeepsAt (bar2Part wr a n bs) s := by
  unfold bar2Part
  aesop
@[simp] theorem keepsAt_bar2 {off : Nat} {wr : Bool} {n : Nat} {bs : List Byte} {s : State} :
    KeepsAt (bar2 off wr n bs) s := by
  simp [bar2]

/-! ### The landings as links -/

@[simp] theorem keepsAt_sendData {l : Nat} {c rest : List Byte} {s : State} : KeepsAt (sendData l c rest) s := by
  simp [sendData]

@[simp] theorem keepsAt_flow {l n : Nat} {s : State} : KeepsAt (flow l n) s := by
  induction n generalizing s with
  | zero => simp [flow]
  | succ n ih =>
    unfold flow
    aesop

@[simp] theorem keepsAt_flows {l : Nat} {s : State} : KeepsAt (flows l) s := by
  simp [flows]
@[simp] theorem keepsAt_sendOn {k : PktKind} {l : Nat} {p : Packet} {s : State} : KeepsAt (sendOn k l p) s := by
  simp [sendOn]
@[simp] theorem keepsAt_sendPacket {p : Packet} {s : State} : KeepsAt (sendPacket p) s := by
  simp only [sendPacket, keepsAt_get_bind]
  split <;> simp

@[simp] theorem keepsAt_sendKept {p : Packet} {tries : Nat} {s : State} : KeepsAt (sendKept p tries) s := by
  simp [sendKept]
  intros
  split <;> simp

@[simp] theorem keepsAt_sendReply {p : Packet} {s : State} : KeepsAt (sendReply p) s := by
  simp [sendReply]
@[simp] theorem keepsAt_resendReplies {p : Packet} {s : State} : KeepsAt (resendReplies p) s := by
  simp [resendReplies]
@[simp] theorem keepsAt_sendAck {p : Packet} {code sub conds : Nat} {s : State} : KeepsAt (sendAck p code sub conds) s := by
  simp [sendAck]
@[simp] theorem keepsAt_setLandState {l n : Nat} {s : State} : KeepsAt (setLandState l n) s := by
  simp [setLandState]
@[simp] theorem keepsAt_failRun {l q row code sub : Nat} {s : State} : KeepsAt (failRun l q row code sub) s := by
  simp only [failRun, keepsAt_get_bind]
  split <;> simp
@[simp] theorem keepsAt_bumpFerry {t k : Nat} {s : State} : KeepsAt (bumpFerry t k) s := by
  simp [bumpFerry]
@[simp] theorem keepsAt_endBad {l : Nat} {r : LRun} {code sub : Nat} {s : State} : KeepsAt (endBad l r code sub) s := by
  simp [endBad]

@[simp] theorem keepsAt_endGood {l : Nat} {r : LRun} {s : State} : KeepsAt (endGood l r) s := by
  simp [endGood]
  intros
  split <;> simp

@[simp] theorem keepsAt_sendRun {l : Nat} {r : LRun} {row : Nat} {p : Nat → Packet} {s : State} :
    KeepsAt (sendRun l r row p) s := by
  simp [sendRun]
  intros
  split <;> simp

@[simp] theorem keepsAt_downLanding {l : Nat} {s : State} : KeepsAt (downLanding l) s := by
  simp [downLanding]
@[simp] theorem keepsAt_fenceLanding {l : Nat} {s : State} : KeepsAt (fenceLanding l) s := by
  simp [fenceLanding]
@[simp] theorem keepsAt_startTrain {l : Nat} {s : State} : KeepsAt (startTrain l) s := by
  simp [startTrain]
@[simp] theorem keepsAt_learnPeer {l : Nat} {p : TrainInfo} {s : State} : KeepsAt (learnPeer l p) s := by
  simp [learnPeer]
@[simp] theorem keepsAt_judgeBundle {l : Nat} {s : State} : KeepsAt (judgeBundle l) s := by
  simp [judgeBundle]
@[simp] theorem keepsAt_trained {l : Nat} {p : PeerInfo} {s : State} : KeepsAt (trained l p) s := by
  simp [trained]
@[simp] theorem keepsAt_tryTrain {l : Nat} {p : PeerInfo} {s : State} : KeepsAt (tryTrain l p) s := by
  simp [tryTrain]
@[simp] theorem keepsAt_retrainLanding {l : Nat} {s : State} : KeepsAt (retrainLanding l) s := by
  simp [retrainLanding]
@[simp] theorem keepsAt_unfenceLanding {l : Nat} {s : State} : KeepsAt (unfenceLanding l) s := by
  simp [unfenceLanding]
@[simp] theorem keepsAt_loseLane {l lane : Nat} {s : State} : KeepsAt (loseLane l lane) s := by
  simp [loseLane]
@[simp] theorem keepsAt_resendHeld {l : Nat} {s : State} : KeepsAt (resendHeld l) s := by
  simp [resendHeld]
@[simp] theorem keepsAt_endRetrain {l : Nat} {s : State} : KeepsAt (endRetrain l) s := by
  simp [endRetrain]

@[simp] theorem keepsAt_trainFlit {l : Nat} {p : TrainInfo} {s : State} : KeepsAt (trainFlit l p) s := by
  simp only [trainFlit, keepsAt_get_bind]
  repeat' split
  all_goals simp

@[simp] theorem keepsAt_takeAck {l a : Nat} {s : State} : KeepsAt (takeAck l a) s := by
  simp [takeAck]
@[simp] theorem keepsAt_replay {l : Nat} {s : State} : KeepsAt (replay l) s := by
  simp [replay]
@[simp] theorem keepsAt_replayLanding {l : Nat} {s : State} : KeepsAt (replayLanding l) s := by
  simp [replayLanding]
@[simp] theorem keepsAt_dataFlit {l seq a : Nat} {s : State} : KeepsAt (dataFlit l seq a) s := by
  simp [dataFlit]
@[simp] theorem keepsAt_idleFlit {l a : Nat} {s : State} : KeepsAt (idleFlit l a) s := by
  simp [idleFlit]
@[simp] theorem keepsAt_nakFlit {l a : Nat} {s : State} : KeepsAt (nakFlit l a) s := by
  simp [nakFlit]
@[simp] theorem keepsAt_blameLane {l lane : Nat} {s : State} : KeepsAt (blameLane l lane) s := by
  simp [blameLane]
@[simp] theorem keepsAt_badCodeword {l first : Nat} {e : List (Nat × Nat)} {s : State} :
    KeepsAt (badCodeword l first e) s := by
  simp [badCodeword]

@[simp] theorem keepsAt_codewordAt {l first : Nat} {e : List (Nat × Nat)} {s : State} : KeepsAt (codewordAt l first e) s := by
  simp only [codewordAt, keepsAt_get_bind]
  repeat' split
  all_goals simp

/-! ### The epoch machinery -/

@[simp] theorem keepsAt_epResult {code : Nat} {s : State} : KeepsAt (epResult code) s := by
  simp [epResult]
@[simp] theorem keepsAt_epLoad {s : State} : KeepsAt epLoad s := by
  simp [epLoad]
@[simp] theorem keepsAt_clearEntries {s : State} : KeepsAt clearEntries s := by
  simp [clearEntries]
@[simp] theorem keepsAt_epUnload {s : State} : KeepsAt epUnload s := by
  simp [epUnload]
@[simp] theorem keepsAt_slicePage {i : Nat} {s : State} : KeepsAt (slicePage i) s := by
  simp [slicePage]
@[simp] theorem keepsAt_maintainFrame {op f : Nat} {s : State} : KeepsAt (maintainFrame op f) s := by
  simp [maintainFrame]

@[simp] theorem keepsAt_badLines {l : List Nat} {s : State} : KeepsAt (badLines l) s := by
  induction l generalizing s with
  | nil => simp [badLines]
  | cons e r ih => simp [badLines, ih]

@[simp] theorem keepsAt_readFrame {f : Nat} {s : State} : KeepsAt (readFrame f) s := by
  simp [readFrame]
@[simp] theorem keepsAt_copyFrame {src dst : Nat} {s : State} : KeepsAt (copyFrame src dst) s := by
  simp +contextual [copyFrame]
@[simp] theorem keepsAt_setEpState {i n : Nat} {s : State} : KeepsAt (setEpState i n) s := by
  simp [setEpState]
@[simp] theorem keepsAt_declPage {set_ i : Nat} {s : State} : KeepsAt (declPage set_ i) s := by
  simp [declPage]
@[simp] theorem keepsAt_sendJournal {r : JRec} {k : Nat} {s : State} : KeepsAt (sendJournal r k) s := by
  simp only [sendJournal, keepsAt_get_bind]
  split <;> simp

@[simp] theorem keepsAt_pumpJournal {n : Nat} {s : State} : KeepsAt (pumpJournal n) s := by
  induction n generalizing s with
  | zero => simp [pumpJournal]
  | succ n ih =>
    unfold pumpJournal
    aesop

@[simp] theorem keepsAt_queueJournal {kind index epoch pages pcrc digest frame : Nat} {s : State} :
    KeepsAt (queueJournal kind index epoch pages pcrc digest frame) s := by
  simp [queueJournal]
@[simp] theorem keepsAt_sealPage {i : Nat} {s : State} : KeepsAt (sealPage i) s := by
  simp [sealPage]
@[simp] theorem keepsAt_discardPage {i : Nat} {s : State} : KeepsAt (discardPage i) s := by
  simp +contextual [discardPage]
@[simp] theorem keepsAt_commitEvent {ctrl : W64} {code pages digest : Nat} {s : State} :
    KeepsAt (commitEvent ctrl code pages digest) s := by
  simp [commitEvent]
@[simp] theorem keepsAt_requestCommit {s : State} : KeepsAt requestCommit s := by
  simp [requestCommit]
@[simp] theorem keepsAt_cancelCommit {s : State} : KeepsAt cancelCommit s := by
  simp [cancelCommit]
@[simp] theorem keepsAt_dropCommit {s : State} : KeepsAt dropCommit s := by
  simp [dropCommit]
@[simp] theorem keepsAt_setEpoch {e : Nat} {s : State} : KeepsAt (setEpoch e) s := by
  simp [setEpoch]
@[simp] theorem keepsAt_scrubStarts {s : State} : KeepsAt scrubStarts s := by
  simp +contextual [scrubStarts]
@[simp] theorem keepsAt_drainedScrub {s : State} : KeepsAt drainedScrub s := by
  simp [drainedScrub]
@[simp] theorem keepsAt_refuseCommit {s : State} : KeepsAt refuseCommit s := by
  simp [refuseCommit]
@[simp] theorem keepsAt_flipPages {s : State} : KeepsAt flipPages s := by
  simp [flipPages]
@[simp] theorem keepsAt_flip {s : State} : KeepsAt flip s := by
  simp [flip]
@[simp] theorem keepsAt_commitStep4 {s : State} : KeepsAt commitStep4 s := by
  simp [commitStep4]

@[simp] theorem keepsAt_commitGo {s : State} : KeepsAt commitGo s := by
  simp [commitGo]
  intros
  split <;> simp

@[simp] theorem keepsAt_drainTimeout {s : State} : KeepsAt drainTimeout s := by
  simp [drainTimeout]
@[simp] theorem keepsAt_setWindow {b : Bool} {s : State} : KeepsAt (setWindow b) s := by
  simp [setWindow]
@[simp] theorem keepsAt_loseJournal {s : State} : KeepsAt loseJournal s := by
  simp [loseJournal]
@[simp] theorem keepsAt_journalTimedOut {s : State} : KeepsAt journalTimedOut s := by
  simp [journalTimedOut]
@[simp] theorem keepsAt_resyncJournal {s : State} : KeepsAt resyncJournal s := by
  simp [resyncJournal]
@[simp] theorem keepsAt_takeJack {ok : Bool} {num : Nat} {s : State} : KeepsAt (takeJack ok num) s := by
  simp only [takeJack, keepsAt_get_bind]
  split <;> simp
@[simp] theorem keepsAt_repeatJournal {tid : Nat} {s : State} : KeepsAt (repeatJournal tid) s := by
  simp only [repeatJournal, keepsAt_get_bind]
  split <;> simp
@[simp] theorem keepsAt_sendJack {p : Packet} {ok : Bool} {num : Nat} {s : State} : KeepsAt (sendJack p ok num) s := by
  simp [sendJack]
@[simp] theorem keepsAt_setReceived {l : List (Nat × Nat)} {s : State} : KeepsAt (setReceived l) s := by
  simp [setReceived]
@[simp] theorem keepsAt_handleRecord {p : Packet} {r : RxRec} {s : State} : KeepsAt (handleRecord p r) s := by
  simp [handleRecord]

@[simp] theorem keepsAt_handleDue {p : Packet} {n : Nat} {s : State} : KeepsAt (handleDue p n) s := by
  induction n generalizing s with
  | zero => simp [handleDue]
  | succ n ih =>
    unfold handleDue
    aesop

@[simp] theorem keepsAt_rxPart {l : Nat} {r : RxRec} {p : Packet} {s : State} : KeepsAt (rxPart l r p) s := by
  unfold rxPart
  aesop

@[simp] theorem keepsAt_journalPacket {l : Nat} {p : Packet} {s : State} : KeepsAt (journalPacket l p) s := by
  simp only [journalPacket, keepsAt_get_bind]
  split
  · refine .bind (by simp) fun _ t _ => .bind (keepsAt_forAll fun e u => ?_) fun _ v _ => by simp
    rw [keepsAt_get_bind]
    split <;> simp
  · split <;> simp

@[simp] theorem keepsAt_startJournal {s : State} : KeepsAt startJournal s := by
  simp [startJournal]

/-! ### Tide -/

@[simp] theorem keepsAt_tideSync {code : Nat} {lo : W64} {s : State} : KeepsAt (tideSync code lo) s := by
  simp [tideSync]
@[simp] theorem keepsAt_setLock {b : Bool} {s : State} : KeepsAt (setLock b) s := by
  simp [setLock]
@[simp] theorem keepsAt_phaseSample {ref : W64} {step : Bool} {s : State} : KeepsAt (phaseSample ref step) s := by
  simp [phaseSample]

@[simp] theorem keepsAt_tideMarkEdge {s : State} : KeepsAt tideMarkEdge s := by
  simp only [tideMarkEdge, keepsAt_get_bind]
  repeat' split
  all_goals simp

@[simp] theorem keepsAt_setTide {v : W64} {s : State} : KeepsAt (setTide v) s := by
  simp only [setTide, keepsAt_get_bind]
  repeat' split
  all_goals simp

@[simp] theorem keepsAt_sendBeacons {s : State} : KeepsAt sendBeacons s := by
  simp [sendBeacons]
@[simp] theorem keepsAt_upstreamLost {s : State} : KeepsAt upstreamLost s := by
  simp [upstreamLost]
@[simp] theorem keepsAt_useBeacon {l : Nat} {b : BeaconMsg} {s : State} : KeepsAt (useBeacon l b) s := by
  simp [useBeacon]
@[simp] theorem keepsAt_takeBeacon {l : Nat} {b : BeaconMsg} {s : State} : KeepsAt (takeBeacon l b) s := by
  simp [takeBeacon]
@[simp] theorem keepsAt_takeWaiting {s : State} : KeepsAt takeWaiting s := by
  simp [takeWaiting]
@[simp] theorem keepsAt_beaconLost {l : Nat} {s : State} : KeepsAt (beaconLost l) s := by
  simp [beaconLost]
@[simp] theorem keepsAt_holdoverEnds {s : State} : KeepsAt holdoverEnds s := by
  simp [holdoverEnds]
@[simp] theorem keepsAt_ttMiss {i act fire : Nat} {s : State} : KeepsAt (ttMiss i act fire) s := by
  simp [ttMiss]
@[simp] theorem keepsAt_ttArm {i : Nat} {s : State} : KeepsAt (ttArm i) s := by
  simp [ttArm]
@[simp] theorem keepsAt_ttEnable {s : State} : KeepsAt ttEnable s := by
  simp [ttEnable]
@[simp] theorem keepsAt_ttArmRel {s : State} : KeepsAt ttArmRel s := by
  simp [ttArmRel]
@[simp] theorem keepsAt_originSet {s : State} : KeepsAt originSet s := by
  simp [originSet]
@[simp] theorem keepsAt_originStep {s : State} : KeepsAt originStep s := by
  simp [originStep]

@[simp] theorem keepsAt_ttCommit {i : Nat} {s : State} : KeepsAt (ttCommit i) s := by
  unfold ttCommit
  refine .bind ?_ fun _ t _ => by simp
  rw [keepsAt_modify]
  refine fun h => mk_ok (foldl_ok _ (fun s w h => ?_) h)
  split <;> simpa using h

@[simp] theorem keepsAt_ttFire {i act bist : Nat} {s : State} : KeepsAt (ttFire i act bist) s := by
  simp only [ttFire, keepsAt_get_bind]
  split <;> simp
@[simp] theorem keepsAt_ttNoEffect {s : State} : KeepsAt ttNoEffect s := by
  simp [ttNoEffect]
@[simp] theorem keepsAt_ttStart {qs : List Nat} {s : State} : KeepsAt (ttStart qs) s := by
  simp [ttStart]
@[simp] theorem keepsAt_ttRefresh {mask : Nat} {s : State} : KeepsAt (ttRefresh mask) s := by
  simp [ttRefresh]
@[simp] theorem keepsAt_ttDeadline {i : Nat} {s : State} : KeepsAt (ttDeadline i) s := by
  simp only [ttDeadline, keepsAt_get_bind]
  split <;> simp

/-! ### The structure image -/

@[simp] theorem keepsAt_setDigest {d : BitVec 512} {s : State} : KeepsAt (setDigest d) s := by
  simp [setDigest]
@[simp] theorem keepsAt_setSkew {t n : Nat} {s : State} : KeepsAt (setSkew t n) s := by
  simp only [setSkew, keepsAt_get_bind]
  split <;> simp
@[simp] theorem keepsAt_formArrays {t : Nat} {s : State} : KeepsAt (formArrays t) s := by
  simp [formArrays]

@[simp] theorem keepsAt_applyDefaults {b : List Byte} {s : State} : KeepsAt (applyDefaults b) s := by
  simp only [applyDefaults, keepsAt_get_bind]
  refine .bind (by simp) fun _ t _ => .bind (keepsAt_forAll fun e u => ?_) fun _ v _ => by simp
  split <;> simp

@[simp] theorem keepsAt_applyTide {b : List Byte} {s : State} : KeepsAt (applyTide b) s := by
  simp [applyTide]
@[simp] theorem keepsAt_applyAccess {b : List Byte} {s : State} : KeepsAt (applyAccess b) s := by
  simp [applyAccess]
@[simp] theorem keepsAt_takeOut {u : UnitRef} {s : State} : KeepsAt (takeOut u) s := by
  unfold takeOut
  split <;> simp

@[simp] theorem keepsAt_applySects {new : AList (List Byte)} {failed : List UnitRef} {rerig : Bool} {s : State} :
    KeepsAt (applySects new failed rerig) s := by
  simp only [applySects]
  refine .bind (by simp) fun _ t _ => ?_
  rw [keepsAt_get_bind]
  refine .bind (by simp) fun _ u _ => .bind (by simp) fun _ v _ => ?_
  rw [keepsAt_get_bind]
  split
  on_goal 1 =>
    refine .bind ?_ fun _ w _ => .bind (by simp) fun _ w _ => ?_
    · rw [keepsAt_set]
      simp +contextual
  all_goals
    refine .bind (by simp) fun _ w _ => .bind (by simp) fun _ w _ => .bind (keepsAt_forAll fun p x => by simp) fun _ w _ =>
      .bind (keepsAt_forAll fun l x => by simp) fun _ w _ => ?_
    split
    all_goals
      refine .bind (by simp) fun _ w _ => ?_
      split
      all_goals
        refine .bind (by simp) fun _ w _ => ?_
        split <;> simp

@[simp] theorem keepsAt_rerigStart {s : State} : KeepsAt rerigStart s := by
  simp [rerigStart]
@[simp] theorem keepsAt_rerigEnd {us : Nat} {failed : List UnitRef} {s : State} : KeepsAt (rerigEnd us failed) s := by
  simp only [rerigEnd, keepsAt_get_bind]
  split <;> simp
@[simp] theorem keepsAt_blockOut {t n b : Nat} {s : State} : KeepsAt (blockOut t n b) s := by
  simp [blockOut]
@[simp] theorem keepsAt_substitute {t n b row spare : Nat} {s : State} : KeepsAt (substitute t n b row spare) s := by
  simp [substitute]

/-! ### Jobs -/

@[simp] theorem keepsAt_refuseToken {code : Nat} {s : State} : KeepsAt (refuseToken code) s := by
  simp [refuseToken]
@[simp] theorem keepsAt_startJob {s : State} : KeepsAt startJob s := by
  simp [startJob]
@[simp] theorem keepsAt_endJob {s : State} : KeepsAt endJob s := by
  simp [endJob]
@[simp] theorem keepsAt_dropManifest {f : Nat} {s : State} : KeepsAt (dropManifest f) s := by
  simp [dropManifest]

@[simp] theorem keepsAt_dropJobRuns {s : State} : KeepsAt dropJobRuns s := by
  unfold dropJobRuns
  refine .bind (keepsAt_forAll fun e u => ?_) fun _ v _ => keepsAt_forAll fun l u => ?_
  · simp only [keepsAt_get_bind]
    split <;> simp
  · rw [keepsAt_modify]
    intro h
    exact ite_ok h ((memOk_setLink ..).2 h)

@[simp] theorem keepsAt_stopJobQueues {s : State} : KeepsAt stopJobQueues s := by
  simp [stopJobQueues]
@[simp] theorem keepsAt_drainJob {s : State} : KeepsAt drainJob s := by
  simp [drainJob]
@[simp] theorem keepsAt_scrubAll {far : Bool} {s : State} : KeepsAt (scrubAll far) s := by
  simp +contextual [scrubAll]
@[simp] theorem keepsAt_scrubEnds {us : Nat} {s : State} : KeepsAt (scrubEnds us) s := by
  simp [scrubEnds]
@[simp] theorem keepsAt_scrubJob {us : Nat} {s : State} : KeepsAt (scrubJob us) s := by
  simp [scrubJob]
@[simp] theorem keepsAt_scrubFar {us : Nat} {s : State} : KeepsAt (scrubFar us) s := by
  simp +contextual [scrubFar]

/-! ### Host resets and the power states of the PCIe function -/

@[simp] theorem keepsAt_resetPort {s : State} : KeepsAt resetPort s := by
  simp [resetPort]
@[simp] theorem keepsAt_endHostWaits {l : List (Waiter × Nat × Bool)} {gone : Waiter → Bool} {s : State} :
    KeepsAt (endHostWaits l gone) s := by
  simp [endHostWaits]
@[simp] theorem keepsAt_endReset {s : State} : KeepsAt endReset s := by
  simp [endReset]
@[simp] theorem keepsAt_resetScrub {s : State} : KeepsAt resetScrub s := by
  simp [resetScrub]
@[simp] theorem keepsAt_resetGo {s : State} : KeepsAt resetGo s := by
  simp [resetGo]
@[simp] theorem keepsAt_hostReset {s : State} : KeepsAt hostReset s := by
  simp [hostReset]
@[simp] theorem keepsAt_endRerig {us : Nat} {failed : List UnitRef} {s : State} : KeepsAt (endRerig us failed) s := by
  simp [endRerig]
@[simp] theorem keepsAt_endScrub {us : Nat} {s : State} : KeepsAt (endScrub us) s := by
  simp [endScrub]
@[simp] theorem keepsAt_enterD3 {s : State} : KeepsAt enterD3 s := by
  simp [enterD3]
@[simp] theorem keepsAt_enterD0 {s : State} : KeepsAt enterD0 s := by
  simp [enterD0]

/-! ### Self-test slices -/

@[simp] theorem keepsAt_noteCycle {s : State} : KeepsAt noteCycle s := by
  simp [noteCycle]
@[simp] theorem keepsAt_bistStart {sel : Nat} {s : State} : KeepsAt (bistStart sel) s := by
  simp only [bistStart, keepsAt_get_bind]
  split <;> simp
@[simp] theorem keepsAt_bistAbandon {s : State} : KeepsAt bistAbandon s := by
  simp [bistAbandon]
@[simp] theorem keepsAt_bistRecord {code sev unit : Nat} {s : State} : KeepsAt (bistRecord code sev unit) s := by
  simp [bistRecord]

@[simp] theorem keepsAt_mendBlock {sub : Bool} {t b : Nat} {row : Option Nat} {clean : Bool} {s : State} :
    KeepsAt (mendBlock sub t b row clean) s := by
  simp only [mendBlock, keepsAt_get_bind]
  split <;> simp

@[simp] theorem keepsAt_emptyWay {g way : Nat} {s : State} : KeepsAt (emptyWay g way) s := by
  unfold emptyWay
  rw [keepsAt_get_bind]
  exact keepsAt_forAll fun l t => keepsAt_forAll fun e u => by simp

@[simp] theorem keepsAt_bistFailed {x : Slice} {rows : List Nat} {clean : Bool} {s : State} :
    KeepsAt (bistFailed x rows clean) s := by
  simp only [bistFailed]
  repeat' split
  all_goals simp

@[simp] theorem keepsAt_bistPoisoned {kind i : Nat} {s : State} : KeepsAt (bistPoisoned kind i) s := by
  unfold bistPoisoned
  split <;> simp

@[simp] theorem keepsAt_bistRun {res : BistResult} {s : State} : KeepsAt (bistRun res) s := by
  simp only [bistRun, keepsAt_get_bind]
  repeat' split
  all_goals simp +contextual

@[simp] theorem keepsAt_bistLate {s : State} : KeepsAt bistLate s := by
  simp [bistLate]

/-! ### The boot and security processor -/

@[simp] theorem keepsAt_pickComp {c : Nat} {l : List Nat} {s : State} : KeepsAt (pickComp c l) s := by
  induction l generalizing s with
  | nil => simp [pickComp]
  | cons e r ih =>
    unfold pickComp
    aesop

@[simp] theorem keepsAt_pickSlots {c : Nat} {s : State} : KeepsAt (pickSlots c) s := by
  simp [pickSlots]
@[simp] theorem keepsAt_showCounters {s : State} : KeepsAt showCounters s := by
  simp [showCounters]
@[simp] theorem keepsAt_drawNonce {s : State} : KeepsAt drawNonce s := by
  simp [drawNonce]
@[simp] theorem keepsAt_bootFails {stage : Nat} {s : State} : KeepsAt (bootFails stage) s := by
  simp [bootFails]
@[simp] theorem keepsAt_bootHalts {stage : Nat} {s : State} : KeepsAt (bootHalts stage) s := by
  simp [bootHalts]

@[simp] theorem keepsAt_bootStructure {env : ColdEnv} {s : State} : KeepsAt (bootStructure env) s := by
  simp only [bootStructure, keepsAt_get_bind]
  split
  on_goal 1 => refine .bind (by simp) fun _ t _ => ?_
  all_goals
    refine .bind (by simp) fun o u _ => ?_
    split <;> simp

@[simp] theorem keepsAt_startService {entry k : Nat} {s : State} : KeepsAt (startService entry k) s := by
  simp [startService]

@[simp] theorem keepsAt_bootService {env : ColdEnv} {s : State} : KeepsAt (bootService env) s := by
  simp [bootService]
  intros
  split <;> simp

@[simp] theorem keepsAt_bootMemory {env : ColdEnv} {s : State} : KeepsAt (bootMemory env) s := by
  unfold bootMemory
  rw [keepsAt_ite, keepsAt_ite]
  refine ⟨fun _ => keepsAt_bootFails, fun _ => ⟨fun _ => keepsAt_bootFails, fun _ => .bind keepsAt_wrf fun _ t _ =>
    .bind ?_ fun _ u _ => keepsAt_bootService⟩⟩
  rw [keepsAt_modify]
  exact fun h => mk_ok (keepMem_ok _ _ h)

@[simp] theorem keepsAt_bootCold {env : ColdEnv} {s : State} : KeepsAt (bootCold env) s := by
  simp [bootCold]
  intros
  split <;> simp

@[simp] theorem keepsAt_rollCommit {world : Bool} {s : State} : KeepsAt (rollCommit world) s := by
  simp [rollCommit]
@[simp] theorem keepsAt_writeOwner {keys : List (List Byte)} {s : State} : KeepsAt (writeOwner keys) s := by
  simp [writeOwner]
@[simp] theorem keepsAt_eraseCert {s : State} : KeepsAt eraseCert s := by
  simp [eraseCert]
@[simp] theorem keepsAt_mboxBusy {s : State} : KeepsAt mboxBusy s := by
  simp [mboxBusy]
@[simp] theorem keepsAt_mailbox {want : Option Nat} {flashOk : Bool} {s : State} : KeepsAt (mailbox want flashOk) s := by
  unfold mailbox
  aesop
@[simp] theorem keepsAt_takeToken {t : List Byte} {s : State} : KeepsAt (takeToken t) s := by
  simp [takeToken]
@[simp] theorem keepsAt_clearSecrets {level : Nat} {s : State} : KeepsAt (clearSecrets level) s := by
  unfold clearSecrets
  simp +contextual
@[simp] theorem keepsAt_secretsEnd {ok : Bool} {s : State} : KeepsAt (secretsEnd ok) s := by
  simp only [secretsEnd, keepsAt_get_bind]
  split <;> simp

/-! ### The module's power controller, its resets and its PMBus target -/

@[simp] theorem keepsAt_setDuty {s : State} : KeepsAt setDuty s := by
  simp [setDuty]
@[simp] theorem keepsAt_powerRecord {sev code : Nat} {d0 : W64} {s : State} : KeepsAt (powerRecord sev code d0) s := by
  simp [powerRecord]
@[simp] theorem keepsAt_brakeOn {s : State} : KeepsAt brakeOn s := by
  simp [brakeOn]
@[simp] theorem keepsAt_brakeOff {s : State} : KeepsAt brakeOff s := by
  simp [brakeOff]
@[simp] theorem keepsAt_measure {watts bound : Nat} {s : State} : KeepsAt (measure watts bound) s := by
  simp [measure]
@[simp] theorem keepsAt_powerOff {latch : Bool} {s : State} : KeepsAt (powerOff latch) s := by
  simp +contextual [powerOff]
@[simp] theorem keepsAt_thermal {t : List Nat} {s : State} : KeepsAt (thermal t) s := by
  simp [thermal]
@[simp] theorem keepsAt_underWarning {s : State} : KeepsAt underWarning s := by
  simp [underWarning]
@[simp] theorem keepsAt_lockout {over_ : Bool} {s : State} : KeepsAt (lockout over_) s := by
  simp [lockout]
@[simp] theorem keepsAt_underLockout {s : State} : KeepsAt underLockout s := by
  simp [underLockout]
@[simp] theorem keepsAt_railFails {rail : Nat} {s : State} : KeepsAt (railFails rail) s := by
  simp [railFails]
@[simp] theorem keepsAt_releaseRail {s : State} : KeepsAt releaseRail s := by
  simp [releaseRail]
@[simp] theorem keepsAt_leakFound {s : State} : KeepsAt leakFound s := by
  simp [leakFound]
@[simp] theorem keepsAt_vinRises {vin : Nat} {s : State} : KeepsAt (vinRises vin) s := by
  simp +contextual [vinRises]
@[simp] theorem keepsAt_coldStartGo {env : ColdEnv} {s : State} : KeepsAt (coldStartGo env) s := by
  simp [coldStartGo]
@[simp] theorem keepsAt_clearPwrStat {s : State} : KeepsAt clearPwrStat s := by
  simp [clearPwrStat]
@[simp] theorem keepsAt_pmbus {n v : Nat} {s : State} : KeepsAt (pmbus n v) s := by
  simp [pmbus]
@[simp] theorem keepsAt_clearFaultBits {s : State} : KeepsAt clearFaultBits s := by
  simp [clearFaultBits]
@[simp] theorem keepsAt_inputCurrent {s : State} : KeepsAt inputCurrent s := by
  simp only [inputCurrent, keepsAt_get_bind]
  split <;> simp
@[simp] theorem keepsAt_pmbusOther {code : Nat} {s : State} : KeepsAt (pmbusOther code) s := by
  simp [pmbusOther]

/-! ### What a write of each register does beside storing its value, and register writes over the bus -/

@[simp] theorem keepsAt_quiesce {b : Blk} {n : Nat} {s : State} : KeepsAt (quiesce b n) s := by
  simp [quiesce]
@[simp] theorem keepsAt_requestQuiet {b : Blk} {s : State} : KeepsAt (requestQuiet b) s := by
  simp [requestQuiet]
@[simp] theorem keepsAt_clearTelem {v : W64} {s : State} : KeepsAt (clearTelem v) s := by
  simp [clearTelem]
@[simp] theorem keepsAt_ringOn {s : State} : KeepsAt ringOn s := by
  simp +contextual [ringOn]
@[simp] theorem keepsAt_headMoved {s : State} : KeepsAt headMoved s := by
  simp [headMoved]
@[simp] theorem keepsAt_windowEnds {k : Nat} {s : State} : KeepsAt (windowEnds k) s := by
  simp only [windowEnds, keepsAt_get_bind]
  split <;> simp +contextual
@[simp] theorem keepsAt_unfenceAll {v : W64} {s : State} : KeepsAt (unfenceAll v) s := by
  simp [unfenceAll]
@[simp] theorem keepsAt_setSoft {t th : Nat} {v : W64} {s : State} : KeepsAt (setSoft t th v) s := by
  simp [setSoft]
@[simp] theorem keepsAt_epCommand {v : W64} {s : State} : KeepsAt (epCommand v) s := by
  simp [epCommand]
@[simp] theorem keepsAt_clearRegs {v : W64} {i : Nat} {l : List Reg} {s : State} : KeepsAt (clearRegs v i l) s := by
  simp [clearRegs]
@[simp] theorem keepsAt_writeEffect {r : Req} {g : Reg} {old v : W64} {s : State} : KeepsAt (writeEffect r g old v) s := by
  unfold writeEffect
  split <;> simp

@[simp] theorem keepsAt_putReg {r : Req} {g : Reg} {v : W64} {s : State} : KeepsAt (putReg r g v) s := by
  simp only [putReg, keepsAt_get_bind]
  split
  · simp
  · rw [keepsAt_ite]
    refine ⟨fun _ => by simp, fun _ => .bind (keepsAt_forAll fun w t => ?_) fun _ u _ => by simp⟩
    rw [keepsAt_modify]
    split <;> simp
  · simp
  · simp

@[simp] theorem keepsAt_writeWaitingRegs {s : State} : KeepsAt writeWaitingRegs s := by
  simp only [writeWaitingRegs, keepsAt_get_bind]
  refine .bind (by simp) fun _ t _ => keepsAt_forAll fun p u => ?_
  split
  · split
    · simp only [keepsAt_get_bind]
      split <;> simp
    · simp
  · simp

@[simp] theorem keepsAt_regBusWrite {r : Req} {a n : Nat} {v : W64} {s : State} : KeepsAt (regBusWrite r a n v) s := by
  unfold regBusWrite
  aesop

@[simp] theorem keepsAt_reach {r : Req} {a n : Nat} {s : State} : KeepsAt (reach r a n) s := by
  simp [reach]
  intros
  split <;> simp

@[simp] theorem keepsAt_reachWrite {r : Req} {a n : Nat} {v : W64} {s : State} : KeepsAt (reachWrite r a n v) s := by
  simp [reachWrite]
  intros
  split <;> simp

@[simp] theorem keepsAt_busWriteReg {r : Req} {a n : Nat} {v : W64} {s : State} : KeepsAt (busWriteReg r a n v) s := by
  unfold busWriteReg
  split <;> simp
@[simp] theorem keepsAt_writeReg {r : Req} {g : Reg} {v : Nat} {s : State} : KeepsAt (writeReg r g v) s := by
  simp [writeReg]
@[simp] theorem keepsAt_withRegs {m : M Unit} {s : State} (hm : ∀ s, KeepsAt m s) : KeepsAt (withRegs m) s := by
  simp [withRegs, hm]
@[simp] theorem keepsAt_watchdogExpires {k : Nat} {s : State} : KeepsAt (watchdogExpires k) s := by
  simp [watchdogExpires]

@[simp] theorem keepsAt_recoveryLate {d : Domain} {s : State} : KeepsAt (recoveryLate d) s := by
  simp only [recoveryLate, keepsAt_get_bind]
  repeat' split
  all_goals simp

/-! ### Translated accesses of any length by a master that is no crew thread -/

@[simp] theorem keepsAt_trPages {p : Port} {u : Use} {far : Bool} {o n : Nat} {l : List (Nat × Nat)} {s : State} :
    KeepsAt (trPages p u far o n l) s := by
  induction l generalizing s with
  | nil => simp [trPages]
  | cons e r ih =>
    unfold trPages
    aesop

@[simp] theorem keepsAt_trSegs {p : Port} {u : Use} {far : Bool} {va n : Nat} {s : State} :
    KeepsAt (trSegs p u far va n) s := by
  simp [trSegs]

@[simp] theorem keepsAt_segsOk {r : Req} {k : Acc} {l : List Seg} {s : State} : KeepsAt (segsOk r k l) s := by
  induction l generalizing s with
  | nil => simp [segsOk]
  | cons e r ih =>
    unfold segsOk
    aesop

@[simp] theorem keepsAt_readParts {pol : Nat} {l : List (Nat × Nat)} {s : State} : KeepsAt (readParts pol l) s := by
  induction l generalizing s with
  | nil => simp [readParts]
  | cons e r ih => simp [readParts, ih]

@[simp] theorem keepsAt_readSegs {r : Req} {l : List Seg} {s : State} : KeepsAt (readSegs r l) s := by
  induction l generalizing s with
  | nil => simp [readSegs]
  | cons e r ih =>
    unfold readSegs
    aesop

@[simp] theorem keepsAt_writeParts {pol : Nat} {l : List (Nat × Nat)} {r : PBytes} {s : State} :
    KeepsAt (writeParts pol l r) s := by
  induction l generalizing r s with
  | nil => simp [writeParts]
  | cons e r ih => simp [writeParts, ih]

@[simp] theorem keepsAt_writeSegs {r : Req} {l : List Seg} {l2 : PBytes} {s : State} : KeepsAt (writeSegs r l l2) s := by
  induction l generalizing l2 s with
  | nil => simp [writeSegs]
  | cons e es ih =>
    unfold writeSegs
    aesop

@[simp] theorem keepsAt_blurBytes {wrote : List (Nat × Nat)} {l : List Seg} {r : PBytes} {s : State} :
    KeepsAt (blurBytes wrote l r) s := by
  induction l generalizing r s with
  | nil => simp [blurBytes]
  | cons g rest ih =>
    refine .bind (keepsAt_mapAll fun i t => ?_) fun here t _ => by simp [ih]
    simp

/-! ### The crew threads -/

@[simp] theorem keepsAt_commitPtrs {k : Nat} {p : Ptrs} {s : State} : KeepsAt (commitPtrs k p) s := by
  simp [commitPtrs]
@[simp] theorem keepsAt_permit {p : Port} {u : Use} {pa n i2 : Nat} {s : State} : KeepsAt (permit p u pa n i2) s := by
  unfold permit
  aesop

@[simp] theorem keepsAt_grant {p : Port} {u : Use} {pa pol n i2 : Nat} {s : State} : KeepsAt (grant p u pa pol n i2) s := by
  simp [grant]
  intros
  split <;> simp

@[simp] theorem keepsAt_transl {p : Port} {u : Use} {far : Bool} {o n va i2 : Nat} {s : State} :
    KeepsAt (transl p u far o n va i2) s := by
  simp [transl]
  intros
  split <;> simp

@[simp] theorem keepsAt_useClaim {t c o n : Nat} {s : State} : KeepsAt (useClaim t c o n) s := by
  simp [useClaim]
@[simp] theorem keepsAt_placeOf {k : Nat} {o : Opnd} {u : Use} {n : Nat} {s : State} : KeepsAt (placeOf k o u n) s := by
  unfold placeOf
  split <;> simp

@[simp] theorem keepsAt_readPlace {k : Nat} {l : Place} {s : State} : KeepsAt (readPlace k l) s := by
  simp [readPlace]
  intros
  split <;> simp

@[simp] theorem keepsAt_putPlace {k : Nat} {l : Place} {v : Nat} {p : Bool} {s : State} : KeepsAt (putPlace k l v p) s := by
  simp [putPlace]
@[simp] theorem keepsAt_writePlace {k : Nat} {l : Place} {v : Nat} {s : State} : KeepsAt (writePlace k l v) s := by
  simp [writePlace]
@[simp] theorem keepsAt_srcOf {k : Nat} {o : Opnd} {n : Nat} {s : State} : KeepsAt (srcOf k o n) s := by
  unfold srcOf
  split <;> simp
@[simp] theorem keepsAt_readP {k : Nat} {x : Src} {s : State} : KeepsAt (readP k x) s := by
  unfold readP
  split <;> simp

@[simp] theorem keepsAt_readSrc {k : Nat} {x : Src} {s : State} : KeepsAt (readSrc k x) s := by
  simp [readSrc]
  intros
  split <;> simp

@[simp] theorem keepsAt_writeP {k : Nat} {l : Place} {v : Nat} {x : Option Nat} {s : State} : KeepsAt (writeP k l v x) s := by
  unfold writeP
  split <;> simp
@[simp] theorem keepsAt_putProduct {k : Nat} {v : BitVec 128} {s : State} : KeepsAt (putProduct k v) s := by
  simp [putProduct]
@[simp] theorem keepsAt_putQuotient {k : Nat} {q r : W64} {s : State} : KeepsAt (putQuotient k q r) s := by
  simp [putQuotient]
@[simp] theorem keepsAt_landAll {k : Nat} {s : State} : KeepsAt (landAll k) s := by
  simp only [landAll, keepsAt_get_bind]
  split <;> simp
@[simp] theorem keepsAt_landMul {k : Nat} {s : State} : KeepsAt (landMul k) s := by
  simp only [landMul, keepsAt_get_bind]
  split <;> simp
@[simp] theorem keepsAt_landDiv {k : Nat} {s : State} : KeepsAt (landDiv k) s := by
  simp only [landDiv, keepsAt_get_bind]
  split <;> simp

@[simp] theorem keepsAt_ageDeliveries {k : Nat} {s : State} : KeepsAt (ageDeliveries k) s := by
  simp [ageDeliveries]
  intros
  split <;> simp

@[simp] theorem keepsAt_crewQuiet {k : Nat} {s : State} : KeepsAt (crewQuiet k) s := by
  simp [crewQuiet]
@[simp] theorem keepsAt_beginInstr {k : Nat} {s : State} : KeepsAt (beginInstr k) s := by
  simp [beginInstr]

@[simp] theorem keepsAt_writeFrame {k : Nat} {w : Bool} {f : Nat} {bs : List Byte} {s : State} :
    KeepsAt (writeFrame k w f bs) s := by
  simp only [writeFrame, keepsAt_ite, keepsAt_pure, implies_true, true_and, keepsAt_get_bind]
  refine fun _ => keepsAt_tryCatch (by simp) fun e t => ?_
  split <;> simp

@[simp] theorem keepsAt_landAt {k : Nat} {w : Bool} {f pc vec : Nat} {p : Ptrs} {s : State} :
    KeepsAt (landAt k w f pc vec p) s := by
  simp [landAt]
@[simp] theorem keepsAt_thirdFault {k v0 v1 v2 : Nat} {s : State} : KeepsAt (thirdFault k v0 v1 v2) s := by
  simp [thirdFault]

@[simp] theorem keepsAt_enterDouble {k : Nat} {e : Exn} {p : Ptrs} {s0 : State} {x : Stop} {s : State} :
    KeepsAt (enterDouble k e p s0 x) s := by
  simp [enterDouble]
  intros
  split <;> simp

@[simp] theorem keepsAt_enterNow {k : Nat} {e : Exn} {p : Ptrs} {s : State} : KeepsAt (enterNow k e p) s := by
  simp [enterNow]
  intros
  split <;> simp

@[simp] theorem keepsAt_enterArith {k : Nat} {s : State} : KeepsAt (enterArith k) s := by
  simp [enterArith]
@[simp] theorem keepsAt_uncount {k : Nat} {s : State} : KeepsAt (uncount k) s := by
  simp [uncount]
@[simp] theorem keepsAt_enter {k : Nat} {e : Exn} {p : Ptrs} {early : Bool} {s : State} : KeepsAt (enter k e p early) s := by
  simp [enter]
@[simp] theorem keepsAt_enterRaised {k : Nat} {s : State} : KeepsAt (enterRaised k) s := by
  simp only [enterRaised, keepsAt_get_bind]
  split <;> simp
@[simp] theorem keepsAt_enterFault {k vec sub : Nat} {info info2 : W64} {res : Bool} {s : State} :
    KeepsAt (enterFault k vec sub info info2 res) s := by
  simp [enterFault]

@[simp] theorem keepsAt_settleStop {k : Nat} {m : M Unit} {s : State} (hm : ∀ s, KeepsAt m s) :
    KeepsAt (settleStop k m) s := by
  refine keepsAt_tryCatch (hm s) fun e t => ?_
  cases e <;> simp

@[simp] theorem keepsAt_entryGoesOn {k : Nat} {s : State} : KeepsAt (entryGoesOn k) s := by
  simp [entryGoesOn]
@[simp] theorem keepsAt_report {k conds : Nat} {pc : W64} {startNo : Nat} {s : State} :
    KeepsAt (report k conds pc startNo) s := by
  simp [report]
@[simp] theorem keepsAt_takeArith {k : Nat} {s : State} : KeepsAt (takeArith k) s := by
  simp [takeArith]
@[simp] theorem keepsAt_reportHere {k conds : Nat} {s : State} : KeepsAt (reportHere k conds) s := by
  simp [reportHere]
@[simp] theorem keepsAt_finish {k len : Nat} {rep : Bool} {x : Ending} {s : State} : KeepsAt (finish k len rep x) s := by
  unfold finish
  split <;> simp
@[simp] theorem keepsAt_takeIrq {k : Nat} {s : State} : KeepsAt (takeIrq k) s := by
  simp only [takeIrq, keepsAt_get_bind]
  split <;> simp

/-- What comes at a boundary keeps memory in canonical form. -/
theorem keepsAt_of_boundary {s t : State} {k : Nat} {m : M Unit} (h : s.boundary k = some m) : KeepsAt m t := by
  simp only [State.boundary, Option.ite_none_left_eq_some] at h
  obtain ⟨-, h⟩ := h
  split at h
  · obtain rfl := Option.some.inj h
    exact keepsAt_takeArith
  · obtain ⟨-, h⟩ := Option.ite_none_right_eq_some.mp h
    obtain rfl := Option.some.inj h
    exact keepsAt_takeIrq

@[simp] theorem keepsAt_starts {t : Tid} {len : Nat} {body : Nat → M Ending} {s : State} (hbody : ∀ a s, KeepsAt (body a) s) :
    KeepsAt (starts t len body) s := by
  simp only [starts, keepsAt_get_bind]
  rw [keepsAt_ite]
  refine ⟨fun _ => by simp, fun _ => ⟨fun hs => (keepsAt_settleStop fun u => ?_).ends hs⟩⟩
  rw [keepsAt_ite, keepsAt_ite]
  refine ⟨fun _ => by simp, fun _ => ⟨fun _ => by simp, fun _ => ?_⟩⟩
  split
  next m hm => exact keepsAt_of_boundary hm
  next =>
    refine .bind (by simp) fun _ v _ => keepsAt_tryCatch (by simp [hbody]) fun e w => ?_
    split <;> simp [hs]

@[simp] theorem keepsAt_encoded {k : Nat} {w : IWord} {sl : Slots} {legal rep : Bool} {s : State} :
    KeepsAt (encoded k w sl legal rep) s := by
  simp [encoded]

@[simp] theorem keepsAt_compute {k : Nat} {w : IWord} {zd za zb i2d i2a : Nat} {s : State} :
    KeepsAt (compute k w zd za zb i2d i2a) s := by
  simp only [compute, keepsAt_get_bind]
  split <;> simp

/-! ### The stored formats -/

@[simp] theorem keepsAt_tally {tag : Nat} {t : Tel} {s : State} : KeepsAt (tally tag t) s := by
  simp +contextual [tally]
@[simp] theorem keepsAt_rnd {rm : Nat} {s : State} : KeepsAt (rnd rm) s := by
  simp [rnd]
@[simp] theorem keepsAt_srCtx {unit ltree : Nat} {stream : W64} {s : State} : KeepsAt (srCtx unit ltree stream) s := by
  simp [srCtx]

/-! ### The ferries -/

@[simp] theorem keepsAt_ferryFail {α : Type} {code : Nat} {s : State} : KeepsAt (ferryFail code : M α) s := by
  simp [ferryFail]
@[simp] theorem keepsAt_ferryStatus {f : Nat} {m : Manifest} {w : Nat} {s : State} : KeepsAt (ferryStatus f m w) s := by
  unfold ferryStatus
  aesop
@[simp] theorem keepsAt_ferryIdle {f : Nat} {s : State} : KeepsAt (ferryIdle f) s := by
  simp [ferryIdle]
@[simp] theorem keepsAt_ferryEnd {f code : Nat} {s : State} : KeepsAt (ferryEnd f code) s := by
  unfold ferryEnd
  aesop
@[simp] theorem keepsAt_ferryDo {f : Nat} {m : M Unit} {s : State} (hm : ∀ s, KeepsAt m s) : KeepsAt (ferryDo f m) s := by
  refine keepsAt_tryCatch (hm s) fun e t => ?_
  cases e <;> simp

@[simp] theorem keepsAt_ferrySegs {f : Nat} {m : Manifest} {write : Bool} {va n : Nat} {s : State} :
    KeepsAt (ferrySegs f m write va n) s := by
  unfold ferrySegs
  aesop

@[simp] theorem keepsAt_ferryRead {f : Nat} {m : Manifest} {l : List Seg} {s : State} : KeepsAt (ferryRead f m l) s := by
  simp [ferryRead]
  intros
  split <;> simp

@[simp] theorem keepsAt_ferryWrite {f : Nat} {m : Manifest} {l : List Seg} {b : PBytes} {s : State} :
    KeepsAt (ferryWrite f m l b) s := by
  simp [ferryWrite]
@[simp] theorem keepsAt_ferryDesc {f : Nat} {m : Manifest} {s : State} : KeepsAt (ferryDesc f m) s := by
  simp [ferryDesc]
@[simp] theorem keepsAt_ferryPeek {f : Nat} {s : State} : KeepsAt (ferryPeek f) s := by
  simp only [ferryPeek, keepsAt_get_bind]
  split <;> simp

@[simp] theorem keepsAt_startManifest {f n : Nat} {s : State} : KeepsAt (startManifest f n) s := by
  simp [startManifest]
  intros
  split <;> simp

@[simp] theorem keepsAt_ferryRow {f : Nat} {m : Manifest} {d : List Byte} {s : State} : KeepsAt (ferryRow f m d) s := by
  simp only [ferryRow]
  split <;> simp +contextual

@[simp] theorem keepsAt_ferryRows {f : Nat} {d : List Byte} {n : Nat} {s : State} : KeepsAt (ferryRows f d n) s := by
  induction n generalizing s with
  | zero => simp [ferryRows]
  | succ n ih =>
    unfold ferryRows
    aesop

@[simp] theorem keepsAt_ferryCrc {f : Nat} {m : Manifest} {d : List Byte} {s : State} : KeepsAt (ferryCrc f m d) s := by
  simp [ferryCrc]

@[simp] theorem keepsAt_runDesc {f op : Nat} {s : State} : KeepsAt (runDesc f op) s := by
  simp only [runDesc, keepsAt_get_bind]
  split
  · simp
  · split
    · simp
    · rw [keepsAt_ite]
      refine ⟨fun _ => by simp, fun _ => keepsAt_ferryDo fun u => .bind (by simp) fun d v _ => ?_⟩
      rw [keepsAt_ite]
      refine ⟨fun _ => ?_, fun _ => by simp⟩
      split
      on_goal 1 => refine .bind (by simp) fun _ w _ => ?_
      all_goals
        refine .bind (by simp) fun _ x _ => ?_
        rw [keepsAt_get_bind]
        split
        all_goals
          refine .bind (by simp) fun _ y _ => .bind ?_ fun _ z _ => by simp
          rw [keepsAt_modify]
          split <;> simp

@[simp] theorem keepsAt_endManifest {f : Nat} {s : State} : KeepsAt (endManifest f) s := by
  simp only [endManifest, keepsAt_get_bind]
  repeat' split
  all_goals simp

/-! ### The landings as masters and targets -/

@[simp] theorem keepsAt_landPages {rq : Req} {write : Bool} {l : List (Nat × Nat)} {s : State} :
    KeepsAt (landPages rq write l) s := by
  induction l generalizing s with
  | nil => simp [landPages]
  | cons e r ih =>
    unfold landPages
    aesop

@[simp] theorem keepsAt_landCheck {r : Req} {k : Acc} {l : List Seg} {s : State} : KeepsAt (landCheck r k l) s := by
  induction l generalizing s with
  | nil => simp [landCheck]
  | cons e r ih =>
    unfold landCheck
    aesop

@[simp] theorem keepsAt_landSegs {r : Req} {write : Bool} {a n : Nat} {s : State} : KeepsAt (landSegs r write a n) s := by
  unfold landSegs
  aesop

@[simp] theorem keepsAt_changeRun {l q : Nat} {f : LRun → LRun} {s : State} : KeepsAt (changeRun l q f) s := by
  simp [changeRun]
  intros
  split <;> simp_all

@[simp] theorem keepsAt_sendNext {l q : Nat} {s : State} : KeepsAt (sendNext l q) s := by
  unfold sendNext
  aesop
@[simp] theorem keepsAt_sendNotify {l q : Nat} {s : State} : KeepsAt (sendNotify l q) s := by
  simp only [sendNotify, keepsAt_get_bind]
  split <;> simp
@[simp] theorem keepsAt_sendOne {l q : Nat} {s : State} : KeepsAt (sendOne l q) s := by
  refine keepsAt_tryCatch (by simp) fun e t => ?_
  split <;> simp

@[simp] theorem keepsAt_sendFirst {l : Nat} {r : List Nat} {s : State} : KeepsAt (sendFirst l r) s := by
  induction r generalizing s with
  | nil => simp [sendFirst]
  | cons e r ih =>
    unfold sendFirst
    aesop

@[simp] theorem keepsAt_pumpTurns {l n : Nat} {s : State} : KeepsAt (pumpTurns l n) s := by
  induction n generalizing s with
  | zero => simp [pumpTurns]
  | succ n ih =>
    unfold pumpTurns
    aesop

@[simp] theorem keepsAt_pumpLanding {l : Nat} {s : State} : KeepsAt (pumpLanding l) s := by
  simp [pumpLanding]
@[simp] theorem keepsAt_startRun {l n op : Nat} {s : State} : KeepsAt (startRun l n op) s := by
  unfold startRun
  aesop
@[simp] theorem keepsAt_endRun {l n : Nat} {s : State} : KeepsAt (endRun l n) s := by
  simp only [endRun, keepsAt_get_bind]
  split <;> simp

@[simp] theorem keepsAt_endFailed {l n : Nat} {s : State} : KeepsAt (endFailed l n) s := by
  simp only [endFailed, keepsAt_get_bind]
  repeat' split
  all_goals simp

@[simp] theorem keepsAt_packetTimeout {l tid : Nat} {s : State} : KeepsAt (packetTimeout l tid) s := by
  simp only [packetTimeout, keepsAt_get_bind]
  split <;> simp

@[simp] theorem keepsAt_resend {a : Await} {s : State} : KeepsAt (resend a) s := by
  simp [resend]
  intros
  split <;> simp

@[simp] theorem keepsAt_ackPacket {p : Packet} {s : State} : KeepsAt (ackPacket p) s := by
  simp [ackPacket]
  intros
  split <;> simp

@[simp] theorem keepsAt_keepWaiting {l : Nat} {p : Packet} {m : M Unit} {s : State} (hm : ∀ s, KeepsAt m s) :
    KeepsAt (keepWaiting l p m) s := by
  refine keepsAt_tryCatch (hm s) fun e t => ?_
  cases e <;> simp

@[simp] theorem keepsAt_readDone {p : Packet} {s : State} : KeepsAt (readDone p) s := by
  simp only [readDone, keepsAt_get_bind]
  split
  · simp
  · rw [keepsAt_ite]
    refine ⟨fun _ => by simp, fun _ => ?_⟩
    split
    · simp
    · refine keepsAt_keepWaiting fun u => .bind (by simp) fun x t _ => ?_
      split <;> simp

@[simp] theorem keepsAt_inboundCheck {l : Nat} {r : Req} {k : Acc} {a n : Nat} {s : State} :
    KeepsAt (inboundCheck l r k a n) s := by
  simp only [inboundCheck, keepsAt_get_bind]
  split <;> simp

@[simp] theorem keepsAt_inbound {l : Nat} {r : Req} {write : Bool} {a n : Nat} {s : State} :
    KeepsAt (inbound l r write a n) s := by
  simp [inbound]
  intros
  split <;> simp

@[simp] theorem keepsAt_arrives {l : Nat} {p : Packet} {m : M Unit} {s : State} (hm : ∀ s, KeepsAt m s) :
    KeepsAt (arrives l p m) s := by
  simp [arrives, hm]
@[simp] theorem keepsAt_accepted {l : Nat} {p : Packet} {m : Req → M Unit} {s : State} (hm : ∀ a s, KeepsAt (m a) s) :
    KeepsAt (accepted l p m) s := by
  simp [accepted, hm]
@[simp] theorem keepsAt_request {l : Nat} {p : Packet} {m : Req → M Unit} {s : State} (hm : ∀ a s, KeepsAt (m a) s) :
    KeepsAt (request l p m) s := by
  simp [request, hm]

@[simp] theorem keepsAt_serveWrite {l : Nat} {p : Packet} {r : Req} {s : State} : KeepsAt (serveWrite l p r) s := by
  simp [serveWrite]
  intros
  split <;> simp

@[simp] theorem keepsAt_inWrite {l : Nat} {p : Packet} {s : State} : KeepsAt (inWrite l p) s := by
  simp [inWrite]
@[simp] theorem keepsAt_serveRead {l : Nat} {p : Packet} {r : Req} {s : State} : KeepsAt (serveRead l p r) s := by
  unfold serveRead
  aesop
@[simp] theorem keepsAt_inRead {l : Nat} {p : Packet} {s : State} : KeepsAt (inRead l p) s := by
  simp [inRead]
@[simp] theorem keepsAt_serveReduce {l : Nat} {p : Packet} {r : Req} {s : State} : KeepsAt (serveReduce l p r) s := by
  unfold serveReduce
  aesop
@[simp] theorem keepsAt_inReduce {l : Nat} {p : Packet} {s : State} : KeepsAt (inReduce l p) s := by
  simp [inReduce]

@[simp] theorem keepsAt_retryInbound {l : Nat} {s : State} : KeepsAt (retryInbound l) s := by
  simp only [retryInbound, keepsAt_get_bind]
  refine .bind (by simp) fun _ t _ => keepsAt_forAll fun e u => ?_
  split
  · simp
  · refine keepsAt_accepted fun v => ?_
    split
    · simp
    · split <;> simp

@[simp] theorem keepsAt_landingsGo {s : State} : KeepsAt landingsGo s := by
  simp [landingsGo]
@[simp] theorem keepsAt_inNotify {l : Nat} {p : Packet} {s : State} : KeepsAt (inNotify l p) s := by
  exact keepsAt_arrives fun u => keepsAt_request fun _ v => by simp

@[simp] theorem keepsAt_forward {l : Nat} {p : Packet} {s : State} : KeepsAt (forward l p) s := by
  simp only [forward, keepsAt_get_bind]
  repeat' split
  all_goals simp

@[simp] theorem keepsAt_inJack {l : Nat} {p : Packet} {s : State} : KeepsAt (inJack l p) s := by
  simp [inJack]
@[simp] theorem keepsAt_servePacket {l : Nat} {p : Packet} {s : State} : KeepsAt (servePacket l p) s := by
  unfold servePacket
  split <;> simp

@[simp] theorem keepsAt_rxPackets {l n : Nat} {r : List Byte} {s : State} : KeepsAt (rxPackets l n r) s := by
  induction n generalizing r s with
  | zero => simp [rxPackets]
  | succ n ih =>
    unfold rxPackets
    split
    · simp
    · split
      · simp
      · simp [ih]

@[simp] theorem keepsAt_rxContent {l : Nat} {c : List Byte} {s : State} : KeepsAt (rxContent l c) s := by
  simp [rxContent]

@[simp] theorem keepsAt_takeData {l seq a : Nat} {f : DataFlit} {s : State} : KeepsAt (takeData l seq a f) s := by
  simp [takeData]
  intros
  split <;> simp

/-! ### The management interfaces -/

@[simp] theorem keepsAt_answer {iface code : Nat} {data : List Nat} {s : State} : KeepsAt (answer iface code data) s := by
  simp [answer]
@[simp] theorem keepsAt_setEid {eid : Nat} {s : State} : KeepsAt (setEid eid) s := by
  simp [setEid]
@[simp] theorem keepsAt_standard {iface cmd : Nat} {s : State} : KeepsAt (standard iface cmd) s := by
  simp [standard]

@[simp] theorem keepsAt_readRecord {a : Nat} {s : State} : KeepsAt (readRecord a) s := by
  simp [readRecord]
  intros
  split <;> simp

@[simp] theorem keepsAt_readIncidents {start n : Nat} {s : State} : KeepsAt (readIncidents start n) s := by
  simp [readIncidents]

@[simp] theorem keepsAt_readRegister {a n : Nat} {s : State} : KeepsAt (readRegister a n) s := by
  simp [readRegister]
  intros
  split <;> simp

@[simp] theorem keepsAt_writeRegister {a n : Nat} {v : W64} {s : State} : KeepsAt (writeRegister a n v) s := by
  simp [writeRegister]
  intros
  split <;> simp

@[simp] theorem keepsAt_debugToken {t : List Byte} {s : State} : KeepsAt (debugToken t) s := by
  simp [debugToken]
@[simp] theorem keepsAt_setReceiver {eid : Nat} {s : State} : KeepsAt (setReceiver eid) s := by
  simp [setReceiver]
@[simp] theorem keepsAt_setSensors {l : List Nat} {s : State} : KeepsAt (setSensors l) s := by
  simp [setSensors]
@[simp] theorem keepsAt_requestUpdate {ep : Nat} {s : State} : KeepsAt (requestUpdate ep) s := by
  simp [requestUpdate]

@[simp] theorem keepsAt_verifyComponent {comp : Nat} {image : List Byte} {s : State} :
    KeepsAt (verifyComponent comp image) s := by
  simp only [verifyComponent, keepsAt_get_bind]
  split <;> simp

@[simp] theorem keepsAt_activate {s : State} : KeepsAt activate s := by
  simp only [activate, keepsAt_get_bind]
  split <;> simp
@[simp] theorem keepsAt_countSpdm {s : State} : KeepsAt countSpdm s := by
  simp [countSpdm]
@[simp] theorem keepsAt_spdmError {e : SpdmErr} {s : State} : KeepsAt (spdmError e) s := by
  simp [spdmError]

@[simp] theorem keepsAt_spdm {ep : Nat} {needs : Bool} {m : M Unit} {s : State} (hm : ∀ s, KeepsAt m s) :
    KeepsAt (spdm ep needs m) s := by
  simp only [spdm, keepsAt_get_bind]
  split <;> simp [hm]

@[simp] theorem keepsAt_spdmVersion {ep : Nat} {s : State} : KeepsAt (spdmVersion ep) s := by
  simp [spdmVersion]
@[simp] theorem keepsAt_spdmNegotiate {ep : Nat} {mldsa shake : Bool} {s : State} :
    KeepsAt (spdmNegotiate ep mldsa shake) s := by
  simp [spdmNegotiate]
@[simp] theorem keepsAt_spdmDigests {s : State} : KeepsAt spdmDigests s := by
  simp [spdmDigests]
@[simp] theorem keepsAt_spdmCert {slot off n : Nat} {s : State} : KeepsAt (spdmCert slot off n) s := by
  simp [spdmCert]
@[simp] theorem keepsAt_spdmSigned {body : List Byte} {s : State} : KeepsAt (spdmSigned body) s := by
  simp [spdmSigned]
@[simp] theorem keepsAt_spdmChallenge {slot : Nat} {nonce : List Byte} {s : State} :
    KeepsAt (spdmChallenge slot nonce) s := by
  simp [spdmChallenge]
@[simp] theorem keepsAt_spdmMeasure {i : Nat} {s : State} : KeepsAt (spdmMeasure i) s := by
  simp [spdmMeasure]
@[simp] theorem keepsAt_spdmSetCert {v13 : Bool} {chain : List Byte} {s : State} : KeepsAt (spdmSetCert v13 chain) s := by
  simp [spdmSetCert]
@[simp] theorem keepsAt_spdmExpire {ep : Nat} {s : State} : KeepsAt (spdmExpire ep) s := by
  simp [spdmExpire]
@[simp] theorem keepsAt_setEvents {f : Nat → Nat} {s : State} : KeepsAt (setEvents f) s := by
  simp [setEvents]
@[simp] theorem keepsAt_setDaddr {a : Option Nat} {s : State} : KeepsAt (setDaddr a) s := by
  simp [setDaddr]
@[simp] theorem keepsAt_setDasa {static a : Nat} {s : State} : KeepsAt (setDasa static a) s := by
  simp [setDasa]
@[simp] theorem keepsAt_entDaa {a : Nat} {s : State} : KeepsAt (entDaa a) s := by
  simp [entDaa]
@[simp] theorem keepsAt_tapAt {level op : Nat} {m : M Unit} {s : State} (hm : ∀ s, KeepsAt m s) :
    KeepsAt (tapAt level op m) s := by
  simp [tapAt, hm]
@[simp] theorem keepsAt_tokenFrame {frame : List Byte} {s : State} : KeepsAt (tokenFrame frame) s := by
  simp [tokenFrame]

@[simp] theorem keepsAt_debugAccess {a : Nat} {wr : Bool} {n : Nat} {v : W64} {s : State} :
    KeepsAt (debugAccess a wr n v) s := by
  simp [debugAccess]
  intros
  split <;> simp

@[simp] theorem keepsAt_scanChains {s : State} : KeepsAt scanChains s := by
  simp [scanChains]

/-! ### One meaning per row of the block outside the instruction set -/

@[simp] theorem keepsAt_quietRequest {r : Req} {b : Blk} {s : State} : KeepsAt (quietRequest r b) s := by
  simp [quietRequest]
@[simp] theorem keepsAt_clearPortErr {r : Req} {p : Nat} {s : State} : KeepsAt (clearPortErr r p) s := by
  simp [clearPortErr]
@[simp] theorem keepsAt_rerigIsDone {us : Nat} {failed : List UnitRef} {s : State} : KeepsAt (rerigIsDone us failed) s := by
  simp [rerigIsDone]
@[simp] theorem keepsAt_fires {i act : Nat} {m : M Unit} {s : State} (hm : ∀ s, KeepsAt m s) : KeepsAt (fires i act m) s := by
  simp [fires, hm]
@[simp] theorem keepsAt_deadlineCheck {i : Nat} {s : State} : KeepsAt (deadlineCheck i) s := by
  simp [deadlineCheck]
@[simp] theorem keepsAt_tideEvent {i : Nat} {s : State} : KeepsAt (tideEvent i) s := by
  simp [tideEvent]
@[simp] theorem keepsAt_trainAgain {l : Nat} {peer : Option PeerInfo} {s : State} : KeepsAt (trainAgain l peer) s := by
  unfold trainAgain
  split <;> simp
@[simp] theorem keepsAt_trainFirst {l : Nat} {p : PeerInfo} {s : State} : KeepsAt (trainFirst l p) s := by
  simp [trainFirst]
@[simp] theorem keepsAt_negotiate {ep : Nat} {mldsa shake : Bool} {s : State} : KeepsAt (negotiate ep mldsa shake) s := by
  simp [negotiate]
@[simp] theorem keepsAt_setWriteLen {n : Nat} {s : State} : KeepsAt (setWriteLen n) s := by
  simp [setWriteLen]
@[simp] theorem keepsAt_setReadLen {n : Nat} {s : State} : KeepsAt (setReadLen n) s := by
  simp [setReadLen]
@[simp] theorem keepsAt_boundaryScan {s : State} : KeepsAt boundaryScan s := by
  simp [boundaryScan]
@[simp] theorem keepsAt_onPower {m : M Unit} {s : State} (hm : ∀ s, KeepsAt m s) : KeepsAt (onPower m) s := by
  simp [onPower, hm]

@[simp] theorem keepsAt_gated {r : Req} {g : Reg} {v : Nat} {m : M Unit} {s : State} (hm : ∀ s, KeepsAt m s) :
    KeepsAt (gated r g v m) s := by
  unfold gated
  aesop

/-! ### The scalar integer, atomic, multiply, divide, bit, CRC and floating-point instructions -/

@[simp] theorem keepsAt_scalar {t : Tid} {w : IWord} {sl : Slots} {legal : Bool} {zd za zb : Nat} {body : Nat → Opnds → M
    Ending} {s : State} (hbody : ∀ a b s, KeepsAt (body a b) s) :
    KeepsAt (scalar t w sl legal zd za zb body) s := by
  simp [scalar, hbody]

@[simp] theorem keepsAt_setsFlags {k : Nat} {p : Ptrs} {f : W64} {s : State} : KeepsAt (setsFlags k p f) s := by
  simp [setsFlags]
@[simp] theorem keepsAt_alu3 {t : Tid} {w : IWord} {f : Nat → Nat → Nat → Nat → Alu} {s : State} :
    KeepsAt (alu3 t w f) s := by
  simp [alu3]
@[simp] theorem keepsAt_alu2 {t : Tid} {w : IWord} {f : Nat → Nat → Nat → Alu} {s : State} : KeepsAt (alu2 t w f) s := by
  simp [alu2]
@[simp] theorem keepsAt_alu1 {t : Tid} {w : IWord} {legal : Bool} {f : Nat → Nat → Alu} {s : State} :
    KeepsAt (alu1 t w legal f) s := by
  simp [alu1]
@[simp] theorem keepsAt_copy1 {t : Tid} {w : IWord} {sl : Slots} {legal : Bool} {za : Nat} {f : Nat → Nat} {s : State} :
    KeepsAt (copy1 t w sl legal za f) s := by
  simp [copy1]
@[simp] theorem keepsAt_atomPlace {k : Nat} {w : IWord} {o : Opnd} {z : Nat} {s : State} : KeepsAt (atomPlace k w o z) s := by
  unfold atomPlace
  split <;> simp
@[simp] theorem keepsAt_atomRead {k : Nat} {l : Place} {s : State} : KeepsAt (atomRead k l) s := by
  simp [atomRead]
@[simp] theorem keepsAt_atomWrite {k : Nat} {l : Place} {bs : List Byte} {p : Bool} {s : State} :
    KeepsAt (atomWrite k l bs p) s := by
  simp [atomWrite]
@[simp] theorem keepsAt_atomic {t : Tid} {w : IWord} {f : Nat → Nat → Nat} {s : State} : KeepsAt (atomic t w f) s := by
  simp [atomic]
@[simp] theorem keepsAt_multiply {t : Tid} {w : IWord} {sa sb : Bool} {s : State} : KeepsAt (multiply t w sa sb) s := by
  simp [multiply]
@[simp] theorem keepsAt_divide {t : Tid} {w : IWord} {signed : Bool} {s : State} : KeepsAt (divide t w signed) s := by
  simp [divide]

@[simp] theorem keepsAt_crcInto {t : Tid} {w : IWord} {legal : Bool} {zd : Nat} {f : Nat → Nat → List Byte → Nat} {s :
    State} :
    KeepsAt (crcInto t w legal zd f) s := by
  simp [crcInto]

@[simp] theorem keepsAt_fpVal {k : Nat} {w : IWord} {o : Opnd} {s : State} : KeepsAt (fpVal k w o) s := by
  unfold fpVal
  split <;> simp
@[simp] theorem keepsAt_fpEnd {k : Nat} {o : Opnds} {l : Place} {v conds : Nat} {p : Option Nat} {s : State} :
    KeepsAt (fpEnd k o l v conds p) s := by
  simp [fpEnd]
@[simp] theorem keepsAt_scalarRnd {k : Nat} {w : IWord} {s : State} : KeepsAt (scalarRnd k w) s := by
  simp [scalarRnd]

/-- The reading that `fpVal` answers keeps memory in canonical form. -/
theorem keepsAt_of_yields_fpVal {k : Nat} {w : IWord} {o : Opnd} {s t u : State} {m : M (Val × Option Nat)}
    (h : Yields (fpVal k w o) s m t) : KeepsAt m u := by
  have h := h.eq
  unfold fpVal at h
  split at h
  · cases h
    simp
  · obtain ⟨x, t, -, hr⟩ := bind_split h
    cases hr
    simp

/-- A reading that answers a given reading keeps what that one keeps. -/
theorem keepsAt_of_yields_pure {α : Type} {m m' : M α} {s t u : State} (h : Yields (pure m') s m t) (hm : KeepsAt m' u) :
    KeepsAt m u := by
  cases h.eq
  exact hm

@[simp] theorem keepsAt_fpOp {t : Tid} {w : IWord} {sl : Slots} {legal rw : Bool} {f : Bool → Val → Val → Val → Val × Nat}
    {s : State} :
    KeepsAt (fpOp t w sl legal rw f) s := by
  simp only [fpOp]
  refine keepsAt_scalar fun k o t => (keepsAt_bind keepsAt_fpVal).2 fun a u _ _ ha => ?_
  have ha (u) : KeepsAt a u := keepsAt_of_yields_fpVal ha
  split
  on_goal 1 =>
    refine (keepsAt_bind (keepsAt_pure ..)).2 fun b u _ _ hb => ?_
    have hb (u) : KeepsAt b u := keepsAt_of_yields_pure hb (keepsAt_pure ..)
  on_goal 2 =>
    refine (keepsAt_bind keepsAt_fpVal).2 fun b u _ _ hb => ?_
    have hb (u) : KeepsAt b u := keepsAt_of_yields_fpVal hb
  all_goals
    split
    on_goal 1 =>
      refine (keepsAt_bind keepsAt_fpVal).2 fun d u _ _ hd => ?_
      have hd (u) : KeepsAt d u := keepsAt_of_yields_fpVal hd
    on_goal 2 =>
      refine (keepsAt_bind (keepsAt_pure ..)).2 fun d u _ _ hd => ?_
      have hd (u) : KeepsAt d u := keepsAt_of_yields_pure hd (keepsAt_pure ..)
    all_goals
      exact .bind (by simp) fun l _ _ => .bind (ha _) fun a _ _ => .bind (hb _) fun b _ _ =>
        .bind (hd _) fun d _ _ => .bind (by simp) fun p _ _ => by simp

@[simp] theorem keepsAt_compareSwap {t : Tid} {w : IWord} {s : State} : KeepsAt (compareSwap t w) s := by
  unfold compareSwap
  refine keepsAt_scalar fun k o t => .bind (by simp) fun _ t _ => .bind (by simp) fun _ t _ => .bind (by simp) fun _ t _ =>
    .bind (by simp) fun _ t _ => .bind (by simp) fun _ t _ => .bind (by simp) fun _ t _ => .bind (by simp) fun q t _ => ?_
  obtain ⟨old, q⟩ := q
  cases q <;> simp

@[simp] theorem keepsAt_fpCompare {t : Tid} {w : IWord} {s : State} : KeepsAt (fpCompare t w) s := by
  unfold fpCompare
  refine keepsAt_scalar fun k o t => ?_
  rw [keepsAt_bind keepsAt_fpVal]
  intro ma u _ _ ha
  rw [keepsAt_bind keepsAt_fpVal]
  intro mb v _ _ hb
  refine .bind (keepsAt_of_yields_fpVal ha) fun a w _ => .bind (keepsAt_of_yields_fpVal hb) fun b x _ => ?_
  dsimp only
  split <;> simp

@[simp] theorem keepsAt_convert {t : Tid} {w : IWord} {s : State} : KeepsAt (convert t w) s := by
  simp [convert]

/-! ### Control instructions, register access, repeat prefixes, and the events of exceptions and interrupts -/

@[simp] theorem keepsAt_eaAddr {k : Nat} {o : Opnd} {s : State} : KeepsAt (eaAddr k o) s := by
  unfold eaAddr
  split <;> simp
@[simp] theorem keepsAt_checkTarget {a : Nat} {s : State} : KeepsAt (checkTarget a) s := by
  simp [checkTarget]
@[simp] theorem keepsAt_branchTarget {k : Nat} {o : Opnd} {s : State} : KeepsAt (branchTarget k o) s := by
  unfold branchTarget
  split <;> simp

@[simp] theorem keepsAt_control {t : Tid} {w : IWord} {sl : Slots} {legal : Bool} {i2a : Nat} {body : Nat → Opnds → M
    Ending} {s : State} (hbody : ∀ a b s, KeepsAt (body a b) s) :
    KeepsAt (control t w sl legal i2a body) s := by
  simp [control, hbody]

@[simp] theorem keepsAt_branch {t : Tid} {w : IWord} {legal : Bool} {c : W64 → Bool} {s : State} :
    KeepsAt (branch t w legal c) s := by
  simp [branch]
@[simp] theorem keepsAt_callTo {t : Tid} {w : IWord} {s : State} : KeepsAt (callTo t w) s := by
  simp [callTo]
@[simp] theorem keepsAt_returnTo {t : Tid} {w : IWord} {s : State} : KeepsAt (returnTo t w) s := by
  simp [returnTo]
@[simp] theorem keepsAt_fenceEngines {k : Nat} {s : State} : KeepsAt (fenceEngines k) s := by
  simp [fenceEngines]
@[simp] theorem keepsAt_gateInto {t : Tid} {w : IWord} {s : State} : KeepsAt (gateInto t w) s := by
  simp [gateInto]
@[simp] theorem keepsAt_returnFrom {t : Tid} {w : IWord} {s : State} : KeepsAt (returnFrom t w) s := by
  simp [returnFrom]
@[simp] theorem keepsAt_trapWith {t : Tid} {w : IWord} {s : State} : KeepsAt (trapWith t w) s := by
  simp [trapWith]
@[simp] theorem keepsAt_parkSelf {t : Tid} {w : IWord} {s : State} : KeepsAt (parkSelf t w) s := by
  simp [parkSelf]
@[simp] theorem keepsAt_getRegister {t : Tid} {w : IWord} {s : State} : KeepsAt (getRegister t w) s := by
  simp [getRegister]

@[simp] theorem keepsAt_putRegister {t : Tid} {w : IWord} {s : State} : KeepsAt (putRegister t w) s := by
  unfold putRegister
  refine keepsAt_starts fun k t => ?_
  refine .bind (by simp) fun _ u _ => .bind (by simp) fun o v _ => ?_
  rw [keepsAt_ite]
  refine ⟨fun _ => by simp, fun _ => .bind (by simp) fun a v _ => .bind (by simp) fun b v _ => ?_⟩
  rw [keepsAt_get_bind]
  split <;> simp

@[simp] theorem keepsAt_leaInto {t : Tid} {w : IWord} {s : State} : KeepsAt (leaInto t w) s := by
  unfold leaInto
  refine keepsAt_scalar fun k o t => .bind ?_ fun v u _ => by simp
  split <;> simp

@[simp] theorem keepsAt_repeatNext {t : Tid} {w : IWord} {nxt : W32} {x : Bool} {s : State} :
    KeepsAt (repeatNext t w nxt x) s := by
  simp [repeatNext]
@[simp] theorem keepsAt_fetchDenied {k pa : Nat} {s : State} : KeepsAt (fetchDenied k pa) s := by
  simp [fetchDenied]

@[simp] theorem keepsAt_interruptAt {k : Nat} {s : State} : KeepsAt (interruptAt k) s := by
  simp only [interruptAt, keepsAt_get_bind]
  rw [keepsAt_ite]
  refine ⟨fun _ => by simp, fun _ => ?_⟩
  split
  next m hm => exact keepsAt_settleStop fun _ => keepsAt_of_boundary hm
  next => simp

@[simp] theorem keepsAt_enterVector {k vec sub : Nat} {info info2 : W64} {res : Bool} {s : State} :
    KeepsAt (enterVector k vec sub info info2 res) s := by
  simp only [enterVector, keepsAt_get_bind]
  simp only [keepsAt_ite, keepsAt_skip, keepsAt_entryGoesOn, keepsAt_interruptAt, implies_true, true_and, and_true]
  refine fun _ _ _ => ⟨fun _ => by simp, fun _ _ => ?_⟩
  split
  next m hm => exact keepsAt_settleStop fun _ => keepsAt_of_boundary hm
  next => simp

@[simp] theorem keepsAt_tideSource {t : Tid} {cmp : Reg} {b : Nat} {past : Bool} {x : ThreadSt} {s : State} :
    KeepsAt (tideSource t cmp b past x) s := by
  simp [tideSource]

@[simp] theorem keepsAt_waitEnds {u : Waiter} {s : State} : KeepsAt (waitEnds u) s := by
  simp only [waitEnds, keepsAt_get_bind]
  repeat' split
  all_goals simp

/-! ### What the engine instructions share -/

@[simp] theorem keepsAt_opFp {t : Nat} {o : Opnd} {l : List Seg} {s : State} : KeepsAt (opFp t o l) s := by
  unfold opFp
  split <;> simp
@[simp] theorem keepsAt_engRoom {k eng : Nat} {epochs : Bool} {s : State} : KeepsAt (engRoom k eng epochs) s := by
  simp [engRoom]

@[simp] theorem keepsAt_engSync {t : Nat} {s : State} : KeepsAt (engSync t) s := by
  unfold engSync
  rw [keepsAt_modify]
  refine fun h => foldl_ok _ (fun s i h => ite_ok h ((memOk_setFld ..).2 h)) ?_
  simpa using h

@[simp] theorem keepsAt_attempt {α : Type} {m : M α} {s : State} (hm : ∀ s, KeepsAt m s) :
    KeepsAt (attempt m : M (Except Stop α)) s := by
  refine keepsAt_tryCatch (by simp [hm]) fun e t => ?_
  split <;> simp

@[simp] theorem keepsAt_walkLines {p : Port} {u : Use} {pol i2 n : Nat} {l : List (Nat × Nat)} {s : State} :
    KeepsAt (walkLines p u pol i2 n l) s := by
  induction l generalizing n s with
  | nil => simp [walkLines]
  | cons e r ih =>
    unfold walkLines
    aesop

@[simp] theorem keepsAt_walkPages {k : Nat} {p : Port} {u : Use} {far : Bool} {o m i2 n : Nat} {l : List (Nat × Nat)}
    {s : State} :
    KeepsAt (walkPages k p u far o m i2 n l) s := by
  induction l generalizing n s with
  | nil => simp [walkPages]
  | cons e r ih =>
    unfold walkPages
    aesop

@[simp] theorem keepsAt_walkClaim {k : Nat} {p : Port} {u : Use} {i2 c off n : Nat} {s : State} :
    KeepsAt (walkClaim k p u i2 c off n) s := by
  simp [walkClaim]
  intros
  split <;> simp

@[simp] theorem keepsAt_walk {k : Nat} {u : Use} {o : Opnd} {n : Nat} {s : State} : KeepsAt (walk k u o n) s := by
  unfold walk
  split <;> simp
@[simp] theorem keepsAt_opAddr {k : Nat} {o : Opnd} {s : State} : KeepsAt (opAddr k o) s := by
  unfold opAddr
  split <;> simp

@[simp] theorem keepsAt_walkAll {k : Nat} {u : Use} {o : Opnd} {n : Nat} {s : State} : KeepsAt (walkAll k u o n) s := by
  simp [walkAll]
  intros
  split <;> simp

@[simp] theorem keepsAt_heartRead {l : List Seg} {s : State} : KeepsAt (heartRead l) s := by
  induction l generalizing s with
  | nil => simp [heartRead]
  | cons e r ih => simp [heartRead, ih]

@[simp] theorem keepsAt_heartTake {l : List Seg} {s : State} : KeepsAt (heartTake l) s := by
  simp [heartTake]
  intros
  split <;> simp

@[simp] theorem keepsAt_heartMark {bad : Nat → Bool} {n : Nat} {l : List Seg} {r : List (Option Byte)} {s : State} :
    KeepsAt (heartMark bad n l r) s := by
  induction l generalizing n r s with
  | nil => simp [heartMark]
  | cons e r ih => simp [heartMark, ih]

@[simp] theorem keepsAt_heartWrite {l : List Seg} {o : List (Option Byte)} {s : State} : KeepsAt (heartWrite l o) s := by
  simp [heartWrite]
@[simp] theorem keepsAt_heartPut {l : List Seg} {bs : List Byte} {poison : Bool} {s : State} :
    KeepsAt (heartPut l bs poison) s := by
  simp [heartPut]
@[simp] theorem keepsAt_heartClear {k : Nat} {fp : List Footprint} {s : State} : KeepsAt (heartClear k fp) s := by
  simp [heartClear]

@[simp] theorem keepsAt_ctlArg {k : Nat} {o : Opnd} {s : State} : KeepsAt (ctlArg k o) s := by
  simp [ctlArg]
  intros
  split <;> simp

@[simp] theorem keepsAt_takePlace {k : Nat} {l : Place} {s : State} : KeepsAt (takePlace k l) s := by
  simp [takePlace]

@[simp] theorem keepsAt_fetchParts {k : Nat} {p : Port} {far : Bool} {o m : Nat} {l : List (Nat × Nat)} {s : State} :
    KeepsAt (fetchParts k p far o m l) s := by
  induction l generalizing s with
  | nil => simp [fetchParts]
  | cons e r ih =>
    unfold fetchParts
    aesop

@[simp] theorem keepsAt_fetchRaw {k : Nat} {o : Opnd} {n : Nat} {s : State} : KeepsAt (fetchRaw k o n) s := by
  unfold fetchRaw
  split <;> simp
@[simp] theorem keepsAt_fetchDesc {k : Nat} {o : Opnd} {n : Nat} {s : State} : KeepsAt (fetchDesc k o n) s := by
  simp [fetchDesc]
@[simp] theorem keepsAt_engCtx {unit ltree stream : Nat} {s : State} : KeepsAt (engCtx unit ltree stream) s := by
  simp [engCtx]
@[simp] theorem keepsAt_sampleSr {k : Nat} {s : State} : KeepsAt (sampleSr k) s := by
  simp [sampleSr]

/-! ### The tile file -/

@[simp] theorem keepsAt_walkPieces {k : Nat} {u : Use} {l : List (Opnd × Nat)} {s : State} :
    KeepsAt (walkPieces k u l) s := by
  induction l generalizing s with
  | nil => simp [walkPieces]
  | cons e r ih =>
    unfold walkPieces
    aesop

@[simp] theorem keepsAt_walkRows {k : Nat} {u : Use} {pieces : Nat → List (Opnd × Nat)} {n i : Nat} {s : State} :
    KeepsAt (walkRows k u pieces n i) s := by
  induction n generalizing i s with
  | zero => simp [walkRows]
  | succ n ih =>
    unfold walkRows
    aesop

@[simp] theorem keepsAt_tilePrep {k : Nat} {w : IWord} {s : State} : KeepsAt (tilePrep k w) s := by
  simp only [tilePrep, keepsAt_get_bind]
  refine .bind (by simp) fun q t _ => keepsAt_tryCatch ?_ fun e u => ?_
  · rw [keepsAt_ite]
    constructor
    all_goals
      refine fun _ => .bind (by simp) fun o v _ => .bind (by simp) fun d v _ => ?_
      rw [keepsAt_ite, keepsAt_ite, keepsAt_ite, keepsAt_ite, keepsAt_ite]
      refine ⟨fun _ => by simp, fun _ => ⟨fun _ => by simp, fun _ => ⟨fun _ => by simp, fun _ => ⟨fun _ => by simp, fun _ =>
        ⟨fun _ => by simp, fun _ => .bind (by simp) fun q v _ => ?_⟩⟩⟩⟩⟩
      split
      · exact .bind (by simp) fun _ w _ => .bind (by simp) fun _ w _ => keepsAt_pure ..
      · exact .bind (by simp) fun _ w _ => .bind (by simp) fun _ w _ => keepsAt_pure ..
  · split <;> simp

@[simp] theorem keepsAt_tldRow {t n : Nat} {g : TGeo} {m tag : Nat} {tr : Bool} {p : Rnd} {c : SrCtx} {r : Nat} {l : List
    Seg} {s : State} :
    KeepsAt (tldRow t n g m tag tr p c r l) s := by
  simp [tldRow]

@[simp] theorem keepsAt_tstRow {t n : Nat} {g : TGeo} {m tag : Nat} {tr : Bool} {p : Rnd} {c : SrCtx} {r : Nat} {l : List
    Seg} {s : State} :
    KeepsAt (tstRow t n g m tag tr p c r l) s := by
  simp [tstRow]

@[simp] theorem keepsAt_tileRows {t : Nat} {w : IWord} {x : Work} {p : Rnd} {c : SrCtx} {n : Nat} {l : List (List Seg)}
    {s : State} :
    KeepsAt (tileRows t w x p c n l) s := by
  induction l generalizing n s with
  | nil => simp [tileRows]
  | cons e r ih =>
    unfold tileRows
    aesop

@[simp] theorem keepsAt_tileSimple {k : Nat} {w : IWord} {s : State} : KeepsAt (tileSimple k w) s := by
  simp [tileSimple]

@[simp] theorem keepsAt_tileDo {t : Nat} {w : IWord} {x : Work} {s : State} : KeepsAt (tileDo t w x) s := by
  unfold tileDo
  split
  · simp
  · simp
  · simp
  · simp only [keepsAt_get_bind]
    refine .bind (keepsAt_forAll fun i t => ?_) fun _ t _ => by simp
    simp
  · simp

/-! ### Prologue and epilogue chains -/

@[simp] theorem keepsAt_stageWalk {k m n : Nat} {x : Stage} {s : State} : KeepsAt (stageWalk k m n x) s := by
  unfold stageWalk
  refine .bind (keepsAt_mapAll fun e t => ?_) fun l t _ => by simp
  rw [keepsAt_ite]
  refine ⟨fun _ => by simp, fun _ => .bind (by simp) fun a u _ => by simp⟩

@[simp] theorem keepsAt_chainPrep {k : Nat} {w : IWord} {o : Opnd} {epi kindOk : Bool} {m n : Nat} {s : State} :
    KeepsAt (chainPrep k w o epi kindOk m n) s := by
  simp [chainPrep]

@[simp] theorem keepsAt_inState {α : Type} {s₀ : State} {m : M α} {s : State} : KeepsAt (inState s₀ m : M α) s := by
  refine ⟨fun h => ?_⟩
  unfold inState
  cases m s₀ <;> exact h

@[simp] theorem keepsAt_chainBytes {s₀ : State} {l : List (Stage × List Seg)} {n i : Nat} {s : State} :
    KeepsAt (chainBytes s₀ l n i) s := by
  induction l generalizing n s with
  | nil => simp [chainBytes]
  | cons e r ih =>
    unfold chainBytes
    refine .bind ?_ fun b t _ => .bind ih fun q u _ => by simp
    split
    · simp
    · split <;> simp

/-! ### The matrix fabric -/

@[simp] theorem keepsAt_mmaRows {t n b kind grp : Nat} {z : Bool} {bs : List (List Val)} {i : Nat} {l : List (List Val)}
    {s : State} :
    KeepsAt (mmaRows t n b kind grp z bs i l) s := by
  induction l generalizing i s with
  | nil => simp [mmaRows]
  | cons a r ih =>
    simp only [mmaRows, keepsAt_get_bind]
    refine .bind (by simp) fun _ t _ => .bind ih fun q u _ => by simp

@[simp] theorem keepsAt_prologue {x : Work} {g : TGeo} {rows : List (List Val)} {s : State} :
    KeepsAt (prologue x g rows) s := by
  unfold prologue
  refine .bind (by simp) fun p t _ => .bind (by simp) fun c u _ => ?_
  rw [keepsAt_get_bind]
  refine .bind (keepsAt_mapAll fun e v => .bind (by simp) fun q w _ => by simp) fun l v _ => by simp

@[simp] theorem keepsAt_mmaDo {t : Nat} {w : IWord} {x : Work} {again : Bool} {s : State} :
    KeepsAt (mmaDo t w x again) s := by
  simp [mmaDo]
@[simp] theorem keepsAt_setBank {t n b kind m k : Nat} {s : State} : KeepsAt (setBank t n b kind m k) s := by
  simp [setBank]
@[simp] theorem keepsAt_mmaPrep {k : Nat} {w : IWord} {s : State} : KeepsAt (mmaPrep k w) s := by
  simp [mmaPrep]

@[simp] theorem keepsAt_walkDrain {k : Nat} {u : Use} {d : List Byte} {o : Opnd} {kind m n : Nat} {s : State} :
    KeepsAt (walkDrain k u d o kind m n) s := by
  unfold walkDrain
  refine keepsAt_mapAll fun i t => .bind (keepsAt_mapAll fun e u => by simp) fun l u _ => by simp

@[simp] theorem keepsAt_drainPrep {k : Nat} {w : IWord} {s : State} : KeepsAt (drainPrep k w) s := by
  simp [drainPrep]

@[simp] theorem keepsAt_putStat {st : List (Stage × List Seg)} {i n : Nat} {part : Option (Nat × Nat)} {stored : List Val}
    {poison : Bool} {s : State} :
    KeepsAt (putStat st i n part stored poison) s := by
  unfold putStat
  split <;> simp

@[simp] theorem keepsAt_drainRows {s₀ : State} {t : Nat} {w : IWord} {x : Work} {p : Rnd} {c : SrCtx} {n : Nat} {l : List
    (List Seg)} {s : State} :
    KeepsAt (drainRows s₀ t w x p c n l) s := by
  induction l generalizing n s with
  | nil => simp [drainRows]
  | cons a r ih =>
    simp only [drainRows, keepsAt_get_bind]
    refine .bind (by simp) fun q t _ => .bind (by simp) fun _ u _ => .bind (by simp) fun _ u _ => .bind (by simp) fun _ u _ =>
      .bind ih fun q u _ => by simp

@[simp] theorem keepsAt_loadRows {t n b kind nc i : Nat} {l : List (List Seg)} {s : State} :
    KeepsAt (loadRows t n b kind nc i l) s := by
  induction l generalizing i s with
  | nil => simp [loadRows]
  | cons a r ih =>
    unfold loadRows
    refine .bind (by simp) fun q t _ => .bind (by simp) fun _ u _ => .bind ih fun q u _ => by simp

@[simp] theorem keepsAt_drainDo {t : Nat} {w : IWord} {x : Work} {s : State} : KeepsAt (drainDo t w x) s := by
  simp only [drainDo, keepsAt_get_bind, keepsAt_ite]
  refine ⟨fun _ => by simp, fun _ => ⟨fun _ => by simp, fun _ => .bind (by simp) fun _ t _ => by simp⟩⟩
@[simp] theorem keepsAt_restoreBank {t n : Nat} {y : Tally} {s : State} : KeepsAt (restoreBank t n y) s := by
  simp [restoreBank]
@[simp] theorem keepsAt_setConds {t n seq c : Nat} {s : State} : KeepsAt (setConds t n seq c) s := by
  simp [setConds]

@[simp] theorem keepsAt_tallyPass {t n : Nat} {s : State} : KeepsAt (tallyPass t n) s := by
  simp [tallyPass]
  intros
  split <;> simp_all

@[simp] theorem keepsAt_tallyMismatch {t n seq : Nat} {dg : Diag} {s : State} : KeepsAt (tallyMismatch t n seq dg) s := by
  simp only [tallyMismatch, keepsAt_get_bind]
  split
  · simp
  · rw [keepsAt_ite]
    refine ⟨fun _ => by simp, fun _ => .bind (by simp) fun _ t _ => .bind (by simp) fun _ t _ => .bind ?_ fun sub u _ => ?_⟩
    · split <;> simp
    · rw [keepsAt_get_bind]
      split
      · refine .bind (keepsAt_forAll fun y v => ?_) fun _ v _ => .bind (by simp) fun _ w _ =>
          .bind (by simp +contextual) fun _ x _ => by simp
        rw [keepsAt_get_bind]
        split <;> simp
      · refine .bind (keepsAt_forAll fun y v => by simp) fun _ v _ => .bind (by simp) fun _ w _ =>
          .bind (by simp +contextual) fun _ x _ => by simp

/-! ### The vector unit -/

@[simp] theorem keepsAt_putGrp {t v ew : Nat} {l : List (Option Nat)} {s : State} : KeepsAt (putGrp t v ew l) s := by
  simp [putGrp]
@[simp] theorem keepsAt_putMask {t m : Nat} {l : List (Option Bool)} {s : State} : KeepsAt (putMask t m l) s := by
  simp [putMask]

@[simp] theorem keepsAt_vWalk_go {k : Nat} {u : Use} {o : Opnd} {ew e0 lim eb : Nat} {s : State} :
    KeepsAt (vWalk.go k u o ew e0 lim eb) s := by
  unfold vWalk.go
  rw [keepsAt_ite]
  refine ⟨fun _ => by simp, fun _ => .bind (by simp) fun q t _ => ?_⟩
  split <;> simp

@[simp] theorem keepsAt_vWalk {k : Nat} {u : Use} {o : Opnd} {ew e0 lim : Nat} {s : State} :
    KeepsAt (vWalk k u o ew e0 lim) s := by
  unfold vWalk
  split
  · rw [keepsAt_ite]
    refine ⟨fun _ => by simp, fun _ => .bind (by simp) fun q t _ => ?_⟩
    split <;> simp
  · simp
  · simp
  · simp

@[simp] theorem keepsAt_vWalk.go {k : Nat} {u : Use} {o : Opnd} {ew e0 lim eb : Nat} {s : State} :
    KeepsAt (vWalk.go k u o ew e0 lim eb) s := by
  simp [vWalk.go]
  intros
  split <;> simp

@[simp] theorem keepsAt_vWalkEach {k : Nat} {u : Use} {ew n : Nat} {l : List (Option Opnd)} {s : State} :
    KeepsAt (vWalkEach k u ew n l) s := by
  induction l generalizing n s with
  | nil => simp [vWalkEach]
  | cons o r ih =>
    cases o with
    | none => exact .bind ih fun q t _ => by simp
    | some o =>
      refine .bind (by simp) fun q t _ => ?_
      split
      · simp
      · exact .bind ih fun q u _ => by simp

@[simp] theorem keepsAt_vRead {g t mode : Nat} {x : W32} {l : List Seg} {ew e0 lim : Nat} {s : State} :
    KeepsAt (vRead g t mode x l ew e0 lim) s := by
  unfold vRead
  aesop

@[simp] theorem keepsAt_vWrite {t mode : Nat} {x : W32} {l : List Seg} {ew e0 : Nat} {vals : List (Option Nat)} {s : State} :
    KeepsAt (vWrite t mode x l ew e0 vals) s := by
  simp [vWrite]

@[simp] theorem keepsAt_freeClash {ew : Nat} {l : List Bool} {r : List (Option Nat)} {s : State} :
    KeepsAt (freeClash ew l r) s := by
  fun_induction freeClash ew l r generalizing s with
  | case1 c o r ih => exact .bind (by simp) fun v t _ => .bind ih fun _ u _ => by simp
  | case2 b c o r h ih => exact .bind ih fun _ u _ => by simp
  | case3 => simp

@[simp] theorem keepsAt_vReadF {g t : Nat} {f : Fmt} {mode : Nat} {x : W32} {l : List Seg} {ew e0 lim : Nat} {s : State} :
    KeepsAt (vReadF g t f mode x l ew e0 lim) s := by
  simp [vReadF]

@[simp] theorem keepsAt_vPut {t : Nat} {w : IWord} {l : List Seg} {z : VShape} {e0 : Nat} {act free : List Bool} {vals :
    List Nat} {s : State} :
    KeepsAt (vPut t w l z e0 act free vals) s := by
  simp [vPut]

@[simp] theorem keepsAt_vFinish {t : Nat} {w : IWord} {x : Work} {z : VShape} {act : List Bool} {srcs : List Reads} {vals :
    List Nat} {s : State} :
    KeepsAt (vFinish t w x z act srcs vals) s := by
  simp [vFinish]

@[simp] theorem keepsAt_vDoInt {g t : Nat} {w : IWord} {x : Work} {z : VShape} {s : State} :
    KeepsAt (vDoInt g t w x z) s := by
  simp [vDoInt]
@[simp] theorem keepsAt_vDoCmp {g t : Nat} {w : IWord} {x : Work} {z : VShape} {s : State} :
    KeepsAt (vDoCmp g t w x z) s := by
  simp [vDoCmp]
@[simp] theorem keepsAt_vDoFp {g t : Nat} {w : IWord} {x : Work} {z : VShape} {s : State} : KeepsAt (vDoFp g t w x z) s := by
  simp [vDoFp]
@[simp] theorem keepsAt_vDoTwo {g t : Nat} {w : IWord} {x : Work} {z : VShape} {s : State} :
    KeepsAt (vDoTwo g t w x z) s := by
  simp [vDoTwo]
@[simp] theorem keepsAt_vDoCvt {g t : Nat} {w : IWord} {x : Work} {z : VShape} {s : State} :
    KeepsAt (vDoCvt g t w x z) s := by
  simp [vDoCvt]

@[simp] theorem keepsAt_vReadAt {g t : Nat} {w : IWord} {l : List Seg} {z : VShape} {pos : List (Option Nat)} {s : State} :
    KeepsAt (vReadAt g t w l z pos) s := by
  unfold vReadAt
  rw [keepsAt_ite]
  refine ⟨fun _ => keepsAt_mapAll fun o t => ?_, fun _ => by simp⟩
  split <;> simp

@[simp] theorem keepsAt_vPositions {g t : Nat} {w : IWord} {x : Work} {z : VShape} {s : State} :
    KeepsAt (vPositions g t w x z) s := by
  simp [vPositions]
@[simp] theorem keepsAt_vDoPerm {g t : Nat} {w : IWord} {x : Work} {z : VShape} {pos : List (Option Nat)} {s : State} :
    KeepsAt (vDoPerm g t w x z pos) s := by
  simp [vDoPerm]
@[simp] theorem keepsAt_vReadEach {ew : Nat} {l : List Seg} {s : State} : KeepsAt (vReadEach ew l) s := by
  simp [vReadEach]
@[simp] theorem keepsAt_vDoEach {g t : Nat} {w : IWord} {x : Work} {z : VShape} {s : State} :
    KeepsAt (vDoEach g t w x z) s := by
  simp [vDoEach]
@[simp] theorem keepsAt_vDoRed {g t : Nat} {w : IWord} {x : Work} {z : VShape} {s : State} :
    KeepsAt (vDoRed g t w x z) s := by
  simp [vDoRed]
@[simp] theorem keepsAt_vDoMask {t : Nat} {w : IWord} {x : Work} {z : VShape} {s : State} : KeepsAt (vDoMask t w x z) s := by
  unfold vDoMask
  split <;> simp

@[simp] theorem keepsAt_vecDo {t : Nat} {w : IWord} {x : Work} {s : State} : KeepsAt (vecDo t w x) s := by
  simp only [vecDo]
  repeat' split
  all_goals simp

@[simp] theorem keepsAt_vFoot {t : Nat} {o : Opnd} {l : List Seg} {s : State} : KeepsAt (vFoot t o l) s := by
  simp [vFoot]

@[simp] theorem keepsAt_vElems {k : Nat} {w : IWord} {z : VShape} {o : Opnds} {e0 n : Nat} {s : State} :
    KeepsAt (vElems k w z o e0 n) s := by
  unfold vElems
  aesop

@[simp] theorem keepsAt_vecCheck {k : Nat} {w : IWord} {z : VShape} {o : Opnds} {e0 : Nat} {s : State} :
    KeepsAt (vecCheck k w z o e0) s := by
  simp [vecCheck]

@[simp] theorem keepsAt_vecPrep {k : Nat} {w : IWord} {s : State} : KeepsAt (vecPrep k w) s := by
  simp only [vecPrep, keepsAt_get_bind]
  refine .bind (by simp) fun _ t _ => ?_
  rw [keepsAt_ite, keepsAt_ite]
  refine ⟨fun _ => by simp, fun _ => ⟨fun _ => by simp, fun _ => keepsAt_tryCatch ?_ fun e u => by simp⟩⟩
  refine .bind (by simp) fun o _ _ => .bind (by simp) fun q _ _ => ?_
  split <;> simp

/-! ### The stream engine -/

@[simp] theorem keepsAt_strmWalk {k n : Nat} {p : Ptrs} {x : Strm} {s : State} : KeepsAt (strmWalk k n p x) s := by
  simp [strmWalk]

@[simp] theorem keepsAt_sePrep {k : Nat} {w : IWord} {s : State} : KeepsAt (sePrep k w) s := by
  simp [sePrep]
  intros
  split <;> simp

@[simp] theorem keepsAt_heartMarked {l : List Seg} {s : State} : KeepsAt (heartMarked l) s := by
  induction l generalizing s with
  | nil => simp [heartMarked]
  | cons e r ih => simp [heartMarked, ih]

@[simp] theorem keepsAt_seDo {t : Nat} {w : IWord} {x : Work} {s : State} : KeepsAt (seDo t w x) s := by
  simp only [seDo, keepsAt_get_bind]
  refine .bind (by simp) fun base t _ => .bind (by simp) fun ctx u _ => .bind (keepsAt_mapAll fun e v => by simp) fun ins v _ =>
    .bind (keepsAt_mapAll fun e w => ?_) fun cs w _ => .bind (keepsAt_forAll fun e x => keepsAt_forAll fun f y => ?_)
      fun _ x _ => by simp
  · exact .bind (by simp) fun _ x _ => .bind (by simp) fun _ x _ => .bind (by simp) fun _ x _ => by simp
  · rw [keepsAt_whenM]
    exact fun _ => keepsAt_forAll fun r z => by simp +contextual

/-! ### Issue of engine instructions and their execution in scoreboard order; claims, SBWAIT -/

@[simp] theorem keepsAt_performWork {t : Nat} {e : SbEntry} {s : State} : KeepsAt (performWork t e) s := by
  unfold performWork
  split <;> simp

@[simp] theorem keepsAt_performAt {t i : Nat} {s : State} : KeepsAt (performAt t i) s := by
  simp only [performAt, keepsAt_get_bind]
  split
  · simp
  · refine .bind (keepsAt_tryCatch (by simp) fun e t => ?_) fun c t _ => by simp
    split <;> simp

@[simp] theorem keepsAt_pump {n i : Nat} {s : State} : KeepsAt (pump n i) s := by
  induction n generalizing s with
  | zero => simp [pump]
  | succ n ih =>
    simp only [pump, keepsAt_get_bind]
    split
    · simp
    · exact .bind (by simp) fun _ t _ => ih

@[simp] theorem keepsAt_enginesGo {t : Nat} {s : State} : KeepsAt (enginesGo t) s := by
  simp [enginesGo]
@[simp] theorem keepsAt_record {k : Nat} {w : IWord} {x : Work} {s : State} : KeepsAt (record k w x) s := by
  unfold record
  split <;> simp
@[simp] theorem keepsAt_enlist {k : Nat} {w : IWord} {eng : Nat} {s : State} : KeepsAt (enlist k w eng) s := by
  simp [enlist]
@[simp] theorem keepsAt_nextStream {k : Nat} {s : State} : KeepsAt (nextStream k) s := by
  simp [nextStream]
@[simp] theorem keepsAt_stops {α : Type} {k : Nat} {w : IWord} {eng : Nat} {e : Stop} {s : State} :
    KeepsAt (stops k w eng e : M α) s := by
  simp [stops]

@[simp] theorem keepsAt_engine {t : Tid} {w : IWord} {eng : Nat} {sl : Slots} {legal epochs : Bool} {prep : Nat → M Prep}
    {s : State} (hprep : ∀ a s, KeepsAt (prep a) s) :
    KeepsAt (engine t w eng sl legal epochs prep) s := by
  unfold engine
  refine keepsAt_starts fun k t => .bind (by simp) fun _ u _ => .bind (by simp) fun _ u _ => .bind (by simp [hprep]) fun p v _ => ?_
  split
  · rw [keepsAt_get_bind, keepsAt_ite]
    refine ⟨fun _ => by simp, fun _ => .bind ?_ fun _ w _ => by simp⟩
    split <;> simp
  · simp

@[simp] theorem keepsAt_vector {t : Tid} {w : IWord} {s : State} : KeepsAt (vector t w) s := by
  simp [vector]
@[simp] theorem keepsAt_tile {t : Tid} {w : IWord} {s : State} : KeepsAt (tile t w) s := by
  simp [tile]
@[simp] theorem keepsAt_matrix {t : Tid} {w : IWord} {s : State} : KeepsAt (matrix t w) s := by
  simp [matrix]
@[simp] theorem keepsAt_stream {t : Tid} {w : IWord} {s : State} : KeepsAt (stream t w) s := by
  simp [stream]
@[simp] theorem keepsAt_doneNow {p : Ptrs} {s : State} : KeepsAt (doneNow p) s := by
  simp [doneNow]
@[simp] theorem keepsAt_clmOpen {k : Nat} {w : IWord} {s : State} : KeepsAt (clmOpen k w) s := by
  simp [clmOpen]
@[simp] theorem keepsAt_clmClose {k : Nat} {w : IWord} {s : State} : KeepsAt (clmClose k w) s := by
  simp [clmClose]
@[simp] theorem keepsAt_claimFreed {t c : Nat} {s : State} : KeepsAt (claimFreed t c) s := by
  simp [claimFreed]
@[simp] theorem keepsAt_sbWait {k : Nat} {w : IWord} {s : State} : KeepsAt (sbWait k w) s := by
  simp [sbWait]

@[simp] theorem keepsAt_workDone {t : Tid} {w : IWord} {s : State} : KeepsAt (workDone t w) s := by
  unfold workDone
  refine keepsAt_starts fun k t => .bind (by simp) fun _ u _ => ?_
  rw [keepsAt_get_bind, keepsAt_ite]
  refine ⟨fun _ => by simp, fun _ => .bind (by simp) fun _ u _ => .bind (keepsAt_tryCatch ?_ ?_) fun q v _ => ?_⟩
  · exact .bind (by simp) fun o v _ => by simp
  · simp
  · simp

@[simp] theorem keepsAt_epFault {α : Type} {k code va idx : Nat} {s : State} : KeepsAt (epFault k code va idx : M α) s := by
  simp [epFault]
@[simp] theorem keepsAt_epPage {k : Nat} {u : Use} {far : Bool} {va : Nat} {s : State} : KeepsAt (epPage k u far va) s := by
  unfold epPage
  aesop
@[simp] theorem keepsAt_epOperand {k : Nat} {o : Opnd} {s : State} : KeepsAt (epOperand k o) s := by
  unfold epOperand
  split <;> simp
@[simp] theorem keepsAt_epStart {k : Nat} {s : State} : KeepsAt (epStart k) s := by
  simp [epStart]

@[simp] theorem keepsAt_epRange {k : Nat} {w : IWord} {ok : Nat → Bool} {s : State} : KeepsAt (epRange k w ok) s := by
  unfold epRange
  refine .bind (by simp) fun o t _ => .bind (by simp) fun i t _ => ?_
  rw [keepsAt_ite]
  refine ⟨fun _ => by simp, fun _ => .bind (by simp) fun _ t _ => .bind (by simp) fun q t _ =>
    .bind (keepsAt_mapAll fun i t => ?_) fun l t _ => by simp⟩
  refine .bind (by simp) fun e u _ => ?_
  simp

@[simp] theorem keepsAt_epDecl {k : Nat} {w : IWord} {s : State} : KeepsAt (epDecl k w) s := by
  simp [epDecl]
@[simp] theorem keepsAt_epSeal {k : Nat} {w : IWord} {s : State} : KeepsAt (epSeal k w) s := by
  simp [epSeal]
@[simp] theorem keepsAt_epDiscard {k : Nat} {w : IWord} {s : State} : KeepsAt (epDiscard k w) s := by
  simp [epDiscard]
@[simp] theorem keepsAt_epTagSet {k : Nat} {w : IWord} {s : State} : KeepsAt (epTagSet k w) s := by
  simp [epTagSet]
@[simp] theorem keepsAt_epCommit {k : Nat} {w : IWord} {s : State} : KeepsAt (epCommit k w) s := by
  simp [epCommit]
@[simp] theorem keepsAt_epStat {k : Nat} {w : IWord} {s : State} : KeepsAt (epStat k w) s := by
  simp [epStat]

@[simp] theorem keepsAt_boardOp {t : Tid} {w : IWord} {sl : Slots} {legal epochs : Bool} {prep : Nat → IWord → M Prep} {s :
    State} (hprep : ∀ a b s, KeepsAt (prep a b) s) :
    KeepsAt (boardOp t w sl legal epochs prep) s := by
  simp [boardOp, hprep]

@[simp] theorem keepsAt_engineDone {k j : Nat} {s : State} : KeepsAt (engineDone k j) s := by
  simp only [engineDone, keepsAt_get_bind]
  repeat' split
  all_goals simp

@[simp] theorem keepsAt_drainStarts {t n : Nat} {s : State} : KeepsAt (drainStarts t n) s := by
  simp only [drainStarts, keepsAt_get_bind]
  repeat' split
  all_goals simp

@[simp] theorem keepsAt_tallyPassed {t n : Nat} {s : State} : KeepsAt (tallyPassed t n) s := by
  simp [tallyPassed]
@[simp] theorem keepsAt_tallyMissed {t n m : Nat} {d : Diag} {s : State} : KeepsAt (tallyMissed t n m d) s := by
  simp [tallyMissed]
@[simp] theorem keepsAt_sbSatisfied {t : Nat} {s : State} : KeepsAt (sbSatisfied t) s := by
  simp [sbSatisfied]

end Sys2Proof.Machine
end

section
/-!
RESULT. Every step keeps memory in canonical form.
-/

namespace Sys2Proof.Machine

/-- The state that a meaning leaves has memory in canonical form. -/
theorem runAny_memOk {m : M Unit} {s t : State} (hm : KeepsAt m s) (hs : MemOk s) (h : runAny m s = .next t) : MemOk t := by
  have hend := hm.ends hs
  unfold runAny at h
  split at h
  next u heq =>
    rw [heq] at hend
    cases h
    exact mk_ok hend
  next u heq =>
    rw [heq] at hend
    cases h
    exact mk_ok hend

theorem run_memOk {m : M Unit} {s t : State} (hm : KeepsAt m s) (hs : MemOk s) (h : run m s = .next t) : MemOk t := by
  unfold run at h
  split at h
  · exact runAny_memOk hm hs h
  · cases h
    exact hs

/-- Every command keeps memory in canonical form. -/
theorem exec_memOk (c : Instr) {s t : State} (hs : MemOk s) (h : exec c s = .next t) : MemOk t := by
  cases c
  case powerUp vin => exact runAny_memOk (by simp) hs ((exec_powerUp vin s).symm.trans h)
  case railFaultRelease => exact runAny_memOk (by simp) hs ((exec_railFaultRelease s).symm.trans h)
  case clearFaults | vinUvWarnLimit | pinOpWarnLimit | statusWord | statusInput | statusTemperature | readVin | readIin
    | readTemperature1 | readPin | pmbusRevision | pmbusOtherCommand | pwrMeasure | thermSample | uvWarning | uvLockout
    | ovLockout | railFault | leak | coldStart => exact runAny_memOk (by simp) hs h
  case moduleReset => exact runAny_memOk (keepsAt_onPower fun u => by simp +contextual) hs h
  all_goals exact run_memOk (by simp) hs h

/-- Settles O4: a step is a command's meaning on the queue's rest, or one cycle of TIDE_REF; every command's action keeps the
form. -/
theorem stepKeepsMemoryCanonical : Obligations.StepKeepsMemoryCanonical := by
  intro s t hs h
  have hs : MemOk s := ⟨hs⟩
  cases hp : s.pending with
  | nil =>
    rw [step_of_empty hp] at h
    cases h
    exact ((memOk_tick s).2 hs).wf
  | cons c r =>
    rw [step_of_front hp] at h
    exact (exec_memOk c (mk_ok hs) h).wf

end Sys2Proof.Machine
end
